-- ==== Sys2Proof/Word.lean ====
section
/-! DEFINITION. The machine's words and the sorted tables that hold its sparse arrays. -/

namespace Sys2Proof

/-- A 32-bit element of a vector register (R45). -/
abbrev Word := BitVec 32

/-- A 64-bit value: an address pair, a device register (R6, R85). -/
abbrev Dword := BitVec 64

/-- A byte (R6). -/
abbrev Byte := BitVec 8

/-- A lane mask, bit L for lane L (R53). -/
abbrev Mask := BitVec 32

/-- A sparse array: (index, entry) pairs, indexes strictly rising, no entry equal to the array's default. -/
abbrev Table (α : Type) := List (Nat × α)

end Sys2Proof
end

