-- ==== Sys2Proof/Types.lean ====
section
/-! DEFINITION. The operand types of the instructions and of the device steps: the lane formats of R135 and R136, packets, probe messages and the reports of the outside world. -/

namespace Sys2Proof

/-- The fields of a lane instruction in register form (R135); the opcode is the constructor's. -/
structure LaneOp where
  p : Bool := false
  d : BitVec 8 := 0
  a : BitVec 8 := 0
  b : BitVec 8 := 0
  c : BitVec 8 := 0
  mask : BitVec 4 := 0
  moda : BitVec 7 := 0
  modb : BitVec 7 := 0
  modc : BitVec 7 := 0
  rnd : BitVec 3 := 0
  fmt : BitVec 5 := 0
  ext : BitVec 20 := 0
  deriving DecidableEq, Repr

/-- The fields of a lane instruction in immediate form (R136): the immediate stands for b, c and ext[19:4]. -/
structure LaneImm where
  p : Bool := false
  d : BitVec 8 := 0
  a : BitVec 8 := 0
  mask : BitVec 4 := 0
  moda : BitVec 7 := 0
  modb : BitVec 7 := 0
  modc : BitVec 7 := 0
  rnd : BitVec 3 := 0
  fmt : BitVec 5 := 0
  imm : Word := 0
  ext : BitVec 4 := 0
  deriving DecidableEq, Repr

/-- An instruction word that is not an instruction (R138), by its stream. -/
inductive RawWord where
  | control (w : BitVec 32)
  | lane (w : BitVec 96)
  deriving DecidableEq, Repr

/-- What one rounding step did to the elements seen so far: some value changed, a finite one overflowed, and the largest finite result's magnitude pattern (R78). -/
structure RoundStat where
  inexact : Bool := false
  overflow : Bool := false
  top : Nat := 0
  deriving DecidableEq, Repr

/-- What matches a collective chunk to its collective (R309), and what it carries (R308): stage 1 for a contribution to its unit's owner, 2 for a result; the unit or first byte; the ranks' silts and entry roundings, and the roundings of the fold (R255, R403). -/
structure CollTag where
  lo : Word := 0
  hi : Word := 0
  ordinal : Nat := 0
  stage : Nat := 1
  rank : Nat := 0
  unit : Nat := 0
  silts : List (BitVec 16) := []
  entry : List RoundStat := []
  steps : List RoundStat := []
  deriving DecidableEq, Repr

/-- A packet with its semantic header and payload (R304); `ord` counts the packets of an ordered job (R305). -/
structure Packet where
  op : Nat := 0
  part : Nat := 0
  ordered : Bool := false
  key : Word := 0
  offset : Dword := 0
  len : Nat := 0
  team : Word := 0xFFFFFFFF
  bar : Option Word := none
  tagRet : Nat := 0
  tagSite : Nat := 0
  tagSeq : Nat := 0
  srcWafer : Nat := 0
  srcRet : Nat := 0
  dstWafer : Nat := 0
  dstRet : Nat := 0
  psn : Nat := 0
  atomOp : Nat := 0
  bank : Bool := false
  ord : Nat := 0
  payload : List Byte := []
  coll : Option CollTag := none
  deriving DecidableEq, Repr

/-- A team entry that reaches a cluster scheduler (R276): of a team launched on this wafer, by its key, or one that another wafer's distributor sent: that wafer, the linear team id and the 128-byte record. -/
inductive EntryMsg where
  | own (team : Nat)
  | far (wafer lin : Nat) (rec : List Byte)
  deriving DecidableEq, Repr

/-- A unit of a wait-cycle path (R292, R370). -/
inductive ProbeUnit where
  | split (team gid sp : Nat)
  | job (core id : Nat)
  | team (t : Nat)
  deriving DecidableEq, Repr

/-- A probe copy: its run, the unit it has reached and the path so far, originator first (R293). -/
structure ProbeMsg where
  run : Nat := 0
  dest : ProbeUnit := .team 0
  path : List ProbeUnit := []
  deriving DecidableEq, Repr

/-- A cap message (R318). -/
structure CapMsg where
  lease : Dword := 0
  rsv : BitVec 16 := 0
  cap : BitVec 16 := 0
  seq : Word := 0
  deriving DecidableEq, Repr

/-- Where a soft error strikes (R374, R375). -/
inductive ErrSite where
  | coreWord (core storage off : Nat)
  | l1Line (core line : Nat) (off : Nat)
  | l1Tag (core line : Nat)
  | slice (fa : Nat)
  | sliceTag (fa : Nat)
  | dram (fa : Nat)
  | saveArea (team : Nat)
  | launchRecord (ret prio : Nat)
  | eventRecord (ret : Nat)
  | sqRecord (link : Nat)
  deriving DecidableEq, Repr

/-- A start step that fails (R397): the reticle, its REASON, and the site or port where one is named. -/
structure StartFail where
  ret : Nat := 0
  reason : Nat := 0
  index : Nat := 0
  deriving DecidableEq, Repr

/-- A device register address: BAR0 of a host link, or a fabric offset of a reticle (R92, R330). -/
inductive RegAddr where
  | bar0 (link off : Nat)
  | fabric (ret off : Nat)
  deriving DecidableEq, Repr

end Sys2Proof
end

