-- ==== Sys2Proof/Config.lean ====
section
/-! DEFINITION. What one part fixes and the manual leaves open: free values, with no body, so that nothing can be proved about them. -/

namespace Sys2Proof.Config

/-- Which of the turns that are possible is taken (log 2); applied to a counter that every use advances. -/
opaque pick : Nat → Nat

/-- A value the manual leaves open where the machine goes on (log 9 to 12); applied to a counter that every use advances. -/
opaque freeBits : Nat → BitVec 32

/-- The line that leaves a full cache slice (log 82): a place among the lines that may, most recent first. -/
opaque sliceVictim : List Nat → Nat

/-- The L1 way at which a line is first tried (log 82), by its number. -/
opaque l1Way : Nat → Nat

/-- The part's `frcp` before the limits of R210 are applied (log 7). -/
opaque frcp : Word → Word
/-- The part's `frsq` before the limits of R210 are applied (log 7). -/
opaque frsq : Word → Word
/-- The part's `fexp2` before the limits of R210 are applied (log 7). -/
opaque fexp2 : Word → Word
/-- The part's `flog2` before the limits of R210 are applied (log 7). -/
opaque flog2 : Word → Word
/-- The part's `fsin` before the limits of R210 are applied (log 7). -/
opaque fsin : Word → Word
/-- The part's `fcos` before the limits of R210 are applied (log 7). -/
opaque fcos : Word → Word

/-- The live, enabled cores of a partition on another wafer, as reticle × 72 + site, by wafer id and partition (R38; log 1). -/
opaque partCores : Nat → Nat → List Nat

/-- The defect map of another wafer cut to a partition's rectangle, its header first, by wafer id and partition (R394; log 1). -/
opaque partMap : Nat → Nat → List Byte

/-- The L1 ways, less 4, of a core of another wafer, by wafer id and reticle × 72 + site (R281; log 1). -/
opaque partWays : Nat → Nat → Nat

/-- The module's fused secret (R327; log 8): 32 bytes. -/
opaque secret : List Byte
/-- The public key of the SLH-DSA-SHA2-192s pair that a seed gives (R327, R329; log 8): 48 bytes. -/
opaque publicKey : List Byte → List Byte
/-- The SLH-DSA-SHA2-192s signature of a message under the pair that a seed gives (R327, R329; log 8): 16,224 bytes. -/
opaque signature : List Byte → List Byte → List Byte

end Sys2Proof.Config
end

