-- ==== Sys2Proof/Machine/Tables.lean ====
section
/-! DEFINITION. Sorted association lists: the sparse arrays of the state and its lists by key. -/

namespace Sys2Proof.Machine

/-- The entry of `i`, or the default `d` where none is listed. -/
def tget {α : Type} (d : α) : List (Nat × α) → Nat → α
  | [], _ => d
  | (k, v) :: t, i => if k = i then v else tget d t i

/-- The entry of `i`, if one is listed. -/
def aget {α : Type} : List (Nat × α) → Nat → Option α
  | [], _ => none
  | (k, v) :: t, i => if k = i then some v else aget t i

/-- `t` with entry `v` at `i`, keys kept rising. -/
def aput {α : Type} : List (Nat × α) → Nat → α → List (Nat × α)
  | [], i, v => [(i, v)]
  | (k, w) :: t, i, v =>
    if i < k then (i, v) :: (k, w) :: t
    else if i = k then (i, v) :: t
    else (k, w) :: aput t i v

/-- `t` without an entry at `i`. -/
def adel {α : Type} : List (Nat × α) → Nat → List (Nat × α)
  | [], _ => []
  | (k, w) :: t, i => if i = k then adel t i else (k, w) :: adel t i

/-- `t` with `v` at `i`; the default leaves no entry, so equal arrays are equal lists. -/
def tset {α : Type} [DecidableEq α] (d : α) (t : List (Nat × α)) (i : Nat) (v : α) : List (Nat × α) :=
  if v = d then adel t i else aput t i v

/-- Keys strictly rise, all above `lo`. -/
def rising {α : Type} (lo : Nat) : List (Nat × α) → Bool
  | [] => true
  | (k, _) :: t => decide (lo ≤ k) && rising (k + 1) t

/-- The canonical form of a sparse array: keys strictly rising and no entry equal to the default. -/
def twf {α : Type} [DecidableEq α] (d : α) (t : List (Nat × α)) : Bool :=
  rising 0 t && t.all (fun e => decide (e.2 ≠ d))

/-- The sparse array whose entries at 0 … n − 1 are those of `l`. -/
def tofList {α : Type} [DecidableEq α] (d : α) (i : Nat) : List α → List (Nat × α)
  | [] => []
  | v :: l => if v = d then tofList d (i + 1) l else (i, v) :: tofList d (i + 1) l

/-- The lowest of `0 … n − 1` that satisfies `f`. -/
def lowest (n : Nat) (f : Nat → Bool) : Option Nat := (List.range n).find? f

/-- `l` with its element at `i` replaced. -/
def setAt {α : Type} : List α → Nat → α → List α
  | [], _, _ => []
  | _ :: l, 0, v => v :: l
  | x :: l, i + 1, v => x :: setAt l i v

/-- The element of `l` that comes first in the order `before`. -/
def firstBy {α : Type} (before : α → α → Bool) : List α → Option α
  | [] => none
  | x :: l =>
    match firstBy before l with
    | none => some x
    | some y => if before y x then some y else some x

/-- Insertion into a list sorted by `before`. -/
def insertBy {α : Type} (before : α → α → Bool) (x : α) : List α → List α
  | [] => [x]
  | y :: l => if before x y then x :: y :: l else y :: insertBy before x l

/-- The list sorted by `before`, equal elements in their first order. -/
def sortBy {α : Type} (before : α → α → Bool) : List α → List α
  | [] => []
  | x :: l => insertBy (fun a b => !(before b a)) x (sortBy before l)

/-- The keys of an association list. -/
def keysOf {α : Type} (t : List (Nat × α)) : List Nat := t.map Prod.fst

end Sys2Proof.Machine
end

