-- ==== Sys2Proof/Machine/Bits.lean ====
section
/-! DEFINITION. Bit fields, byte order and lane masks (R6, R53). -/

namespace Sys2Proof.Machine

/-- Bits [hi:lo] of a natural number. -/
def bitsOf (v hi lo : Nat) : Nat := (v >>> lo) % 2 ^ (hi + 1 - lo)

/-- Bit `i` of a natural number. -/
def bitOf (v i : Nat) : Bool := (v >>> i) % 2 = 1

/-- `v`, read in `w` bits, as a signed integer. -/
def signed (w v : Nat) : Int := if 2 ^ (w - 1) ≤ v % 2 ^ w then (v % 2 ^ w : Nat) - (2 ^ w : Nat) else (v % 2 ^ w : Nat)

/-- An integer modulo 2^w, as a natural number. -/
def wrap (w : Nat) (i : Int) : Nat := (i % (2 ^ w : Nat)).toNat

/-- The 32-bit word of an integer modulo 2^32. -/
def wordOf (i : Int) : Word := BitVec.ofInt 32 i

/-- The `n` bytes of `v`, little-endian (R6). -/
def bytesLE : Nat → Nat → List Byte
  | 0, _ => []
  | n + 1, v => BitVec.ofNat 8 v :: bytesLE n (v / 256)

/-- The number whose little-endian bytes are given (R6). -/
def natLE : List Byte → Nat
  | [] => 0
  | b :: l => b.toNat + 256 * natLE l

/-- `n` bytes of `l` from byte `i`, as a number. -/
def fieldLE (l : List Byte) (i n : Nat) : Nat := natLE ((l.drop i).take n)

/-- The 32 lanes, ascending (R8). -/
def lanes32 : List Nat := List.range 32

/-- The full mask. -/
def fullMask : Mask := 0xFFFFFFFF

/-- Lane `l` is set in `m` (R53). -/
def inMask (m : Mask) (l : Nat) : Bool := m.getLsbD l

/-- The lanes set in `m`, ascending (R8). -/
def active (m : Mask) : List Nat := lanes32.filter (inMask m)

/-- The mask whose bits are given lane by lane. -/
def maskOf (f : Nat → Bool) : Mask := BitVec.ofNat 32 (lanes32.foldl (fun acc l => if f l then acc + 2 ^ l else acc) 0)

/-- The number of 1 bits of a word. -/
def popcount (m : Word) : Nat := (active m).length

/-- The lowest set lane of a mask. -/
def lowestLane (m : Mask) : Option Nat := lanes32.find? (inMask m)

/-- The low word of a 64-bit value. -/
def loW (v : Dword) : Word := v.setWidth 32

/-- The high word of a 64-bit value. -/
def hiW (v : Dword) : Word := (v >>> 32).setWidth 32

/-- A 64-bit value from its high and low words (R148). -/
def mkD (hi lo : Word) : Dword := hi ++ lo

/-- Byte `k` of a word. -/
def byteOf (v : Word) (k : Nat) : Byte := (v >>> (8 * k)).setWidth 8

/-- The word of four bytes, byte 0 first. -/
def wordLE (l : List Byte) : Word := BitVec.ofNat 32 (natLE (l.take 4))

end Sys2Proof.Machine
end

