-- ==== Sys2Proof/Machine/Numbers.lean ====
section
/-! DEFINITION. Number formats, exact values and rounding (R64–R71), and the correctly rounded operations of the lanes (R207–R209). -/

namespace Sys2Proof.Machine

/-- A floating format (R64): exponent and mantissa widths, bias, and whether it has infinities (and the NaN rule that goes with them). -/
structure FFmt where
  ew : Nat
  mw : Nat
  bias : Nat
  inf : Bool
  deriving DecidableEq, Repr

def f64F : FFmt := ⟨11, 52, 1023, true⟩
def f32F : FFmt := ⟨8, 23, 127, true⟩
def f16F : FFmt := ⟨5, 10, 15, true⟩
def bf16F : FFmt := ⟨8, 7, 127, true⟩
def e4m3F : FFmt := ⟨4, 3, 7, false⟩
def e2m1F : FFmt := ⟨2, 1, 1, false⟩

/-- The value of a floating pattern: NaN, a signed infinity, or (−1)^neg × m × 2^e exactly (R65). -/
inductive FVal where
  | nan
  | inf (neg : Bool)
  | fin (neg : Bool) (m : Nat) (e : Int)
  deriving DecidableEq, Repr

/-- The number of bits of a format. -/
def FFmt.bits (F : FFmt) : Nat := 1 + F.ew + F.mw

/-- emin of R64. -/
def FFmt.emin (F : FFmt) : Int := 1 - (F.bias : Int)

/-- Precision p of R64. -/
def FFmt.prec (F : FFmt) : Nat := F.mw + 1

/-- The magnitude pattern of the largest finite value (R64). -/
def FFmt.maxMag (F : FFmt) : Nat :=
  if F.inf then (2 ^ F.ew - 1) * 2 ^ F.mw - 1
  else if F.mw = 3 then 2 ^ (F.ew + F.mw) - 2
  else 2 ^ (F.ew + F.mw) - 1

/-- The canonical NaN (R66); e2m1 has none, and a NaN into it gives +0 (R69). -/
def FFmt.qnan (F : FFmt) : Nat :=
  if F.inf then (2 ^ F.ew - 1) * 2 ^ F.mw + 2 ^ (F.mw - 1)
  else if F.mw = 3 then 2 ^ (F.ew + F.mw) - 1
  else 0

/-- The value of a pattern (R65). -/
def FFmt.decode (F : FFmt) (v : Nat) : FVal :=
  let neg := bitOf v (F.ew + F.mw)
  let mag := v % 2 ^ (F.ew + F.mw)
  let E := mag / 2 ^ F.mw
  let m := mag % 2 ^ F.mw
  if F.inf ∧ E = 2 ^ F.ew - 1 then (if m = 0 then .inf neg else .nan)
  else if ¬ F.inf ∧ F.maxMag < mag then .nan
  else if E = 0 then .fin neg m (F.emin - F.mw)
  else .fin neg (2 ^ F.mw + m) ((E : Int) - F.bias - F.mw)

/-- A pattern with a sign. -/
def FFmt.withSign (F : FFmt) (neg : Bool) (mag : Nat) : Nat := if neg then 2 ^ (F.ew + F.mw) + mag else mag

/-- Rounding of n + rem/2^sh (rem < 2^sh) to an integer magnitude, by mode 0 ne, 1 z, 2 u, 3 d (R69 step 2). -/
def roundUp (mode : Nat) (neg : Bool) (n rem sh : Nat) : Nat :=
  if rem = 0 then n
  else match mode with
    | 0 => if 2 ^ sh < 2 * rem ∨ (2 * rem = 2 ^ sh ∧ n % 2 = 1) then n + 1 else n
    | 2 => if neg then n else n + 1
    | 3 => if neg then n + 1 else n
    | _ => n

/-- The exponent of ulp(m × 2^e, F) (R70). -/
def ulpExp (F : FFmt) (m : Nat) (e : Int) : Int :=
  let top : Int := if m = 0 then F.emin else (m.log2 : Int) + e
  (if top < F.emin then F.emin else top) - F.prec + 1

/-- The magnitude that round_M gives m × 2^e, before the overflow rule (R69 steps 2 and 3): a pattern that may exceed the largest finite one. Values far above or below the format are told by their exponent alone. -/
def roundMag (F : FFmt) (mode : Nat) (neg : Bool) (m : Nat) (e : Int) : Nat :=
  if m = 0 then 0
  else if (F.bias : Int) + 1 < (m.log2 : Int) + e then F.maxMag + 2
  else if (m.log2 : Int) + e < F.emin - F.prec - 2 then roundUp mode neg 0 1 2
  else
    let q := ulpExp F m e
    let n := if q ≤ e then m * 2 ^ (e - q).toNat
      else roundUp mode neg (m / 2 ^ (q - e).toNat) (m % 2 ^ (q - e).toNat) (q - e).toNat
    ((q + F.prec - 1 + F.bias).toNat - 1) * 2 ^ F.mw + n

/-- round_M of R69: the pattern of an exact value in format F. -/
def roundF (F : FFmt) (mode : Nat) : FVal → Nat
  | .nan => F.qnan
  | .inf neg =>
    if F.inf then F.withSign neg ((2 ^ F.ew - 1) * 2 ^ F.mw) else F.withSign neg F.maxMag
  | .fin neg m e =>
    let mag := roundMag F mode neg m e
    if mag ≤ F.maxMag then F.withSign neg mag
    else if ¬ F.inf then F.withSign neg F.maxMag
    else
      let toInf := match mode with
        | 0 => true
        | 2 => !neg
        | 3 => neg
        | _ => false
      F.withSign neg (if toInf then (2 ^ F.ew - 1) * 2 ^ F.mw else F.maxMag)

/-- round_M(x, i32) and its kin (R69): an exact value to an integer clamped to [lo, hi]; NaN gives 0. -/
def roundInt (mode : Nat) (lo hi : Int) : FVal → Int
  | .nan => 0
  | .inf neg => if neg then lo else hi
  | .fin neg m e =>
    let n := if 0 ≤ e then m * 2 ^ e.toNat
      else roundUp mode neg (m / 2 ^ (-e).toNat) (m % 2 ^ (-e).toNat) (-e).toNat
    let v : Int := if neg then -(n : Int) else n
    if v < lo then lo else if hi < v then hi else v

/-- An exact dyadic i × 2^e. -/
structure Dy where
  i : Int
  e : Int
  deriving DecidableEq, Repr

/-- i × 2^k for k ≥ 0. -/
def shl (i k : Int) : Int := i * (2 ^ k.toNat : Nat)

def Dy.add (x y : Dy) : Dy :=
  if x.e ≤ y.e then ⟨x.i + shl y.i (y.e - x.e), x.e⟩ else ⟨shl x.i (x.e - y.e) + y.i, y.e⟩

def Dy.neg (x : Dy) : Dy := ⟨-x.i, x.e⟩

def Dy.mul (x y : Dy) : Dy := ⟨x.i * y.i, x.e + y.e⟩

/-- x < y, exactly. -/
def Dy.lt (x y : Dy) : Bool := decide ((x.add y.neg).i < 0)

/-- x = y, exactly. -/
def Dy.eq (x y : Dy) : Bool := decide ((x.add y.neg).i = 0)

def Dy.zero : Dy := ⟨0, 0⟩

/-- The exact real of a finite value. -/
def FVal.dy : FVal → Dy
  | .fin neg m e => ⟨if neg then -(m : Int) else m, e⟩
  | _ => Dy.zero

/-- A dyadic as a value; zero is +0. -/
def Dy.val (x : Dy) : FVal := .fin (decide (x.i < 0)) x.i.natAbs x.e

def FVal.isNan : FVal → Bool
  | .nan => true
  | _ => false

def FVal.isInf : FVal → Bool
  | .inf _ => true
  | _ => false

def FVal.isFin : FVal → Bool
  | .fin _ _ _ => true
  | _ => false

def FVal.isZero : FVal → Bool
  | .fin _ 0 _ => true
  | _ => false

/-- The sign bit of a value that is not NaN. -/
def FVal.sign : FVal → Bool
  | .nan => false
  | .inf n => n
  | .fin n _ _ => n

/-- −x. -/
def FVal.negate : FVal → FVal
  | .nan => .nan
  | .inf n => .inf (!n)
  | .fin n m e => .fin (!n) m e

/-- |x|. -/
def FVal.mag : FVal → FVal
  | .nan => .nan
  | .inf _ => .inf false
  | .fin _ m e => .fin false m e

/-- The exact sum, with the zero signs of R207 and the special values of R209. -/
def faddV (mode : Nat) (x y : FVal) : FVal :=
  match x, y with
  | .nan, _ => .nan
  | _, .nan => .nan
  | .inf a, .inf b => if a = b then .inf a else .nan
  | .inf a, _ => .inf a
  | _, .inf b => .inf b
  | .fin a m e, .fin b n f =>
    let s := (FVal.fin a m e).dy.add (FVal.fin b n f).dy
    if s.i = 0 then
      (if m = 0 ∧ n = 0 ∧ a = b then .fin a 0 0 else .fin (decide (mode = 3)) 0 0)
    else s.val

/-- The exact product (R209: 0 × infinity is NaN). -/
def fmulV (x y : FVal) : FVal :=
  match x, y with
  | .nan, _ => .nan
  | _, .nan => .nan
  | .inf a, .inf b => .inf (a != b)
  | .inf a, .fin b n _ => if n = 0 then .nan else .inf (a != b)
  | .fin a m _, .inf b => if m = 0 then .nan else .inf (a != b)
  | .fin a m e, .fin b n f => .fin (a != b) (m * n) (e + f)

/-- a × b + c, exact (R207, R209). -/
def fmaV (mode : Nat) (x y z : FVal) : FVal := faddV mode (fmulV x y) z

/-- A quotient whose rounding is that of the exact one: enough bits and a sticky bit below them. -/
def fdivV (x y : FVal) : FVal :=
  match x, y with
  | .nan, _ => .nan
  | _, .nan => .nan
  | .inf _, .inf _ => .nan
  | .inf a, .fin b _ _ => .inf (a != b)
  | .fin a _ _, .inf b => .fin (a != b) 0 0
  | .fin a m e, .fin b n f =>
    if n = 0 then (if m = 0 then .nan else .inf (a != b))
    else if m = 0 then .fin (a != b) 0 0
    else
      let k := 160 + n.log2
      let q := m * 2 ^ k / n
      let st := if m * 2 ^ k % n = 0 then 0 else 1
      .fin (a != b) (2 * q + st) (e - f - k - 1)

/-- Integer square root by bits: the root of `n` below 2^(bits) added to `r`. -/
def isqrtGo (n : Nat) : Nat → Nat → Nat
  | 0, r => r
  | b + 1, r => isqrtGo n b (if (r + 2 ^ b) * (r + 2 ^ b) ≤ n then r + 2 ^ b else r)

/-- ⌊√n⌋. -/
def isqrt (n : Nat) : Nat := isqrtGo n (n.log2 / 2 + 1) 0

/-- A square root whose rounding is that of the exact one (R207, R209). -/
def fsqrtV : FVal → FVal
  | .nan => .nan
  | .inf neg => if neg then .nan else .inf false
  | .fin neg m e =>
    if m = 0 then .fin neg 0 0
    else if neg then .nan
    else
      let m2 := if e % 2 = 0 then m else 2 * m
      let e2 := if e % 2 = 0 then e else e - 1
      let n := m2 * 2 ^ 160
      let r := isqrt n
      let st := if r * r = n then 0 else 1
      .fin false (2 * r + st) (e2 / 2 - 80 - 1)

/-- x < y as reals, infinities included, −0 equal to +0. -/
def fltV (x y : FVal) : Bool :=
  match x, y with
  | .nan, _ => false
  | _, .nan => false
  | .inf a, .inf b => a && !b
  | .inf a, _ => a
  | _, .inf b => !b
  | x, y => x.dy.lt y.dy

/-- x = y as reals, −0 equal to +0. -/
def feqV (x y : FVal) : Bool :=
  match x, y with
  | .nan, _ => false
  | _, .nan => false
  | .inf a, .inf b => a = b
  | .inf _, _ => false
  | _, .inf _ => false
  | x, y => x.dy.eq y.dy

/-- `fmin` and `fmax` on patterns (R208): −0 below +0, one NaN returns the other operand. -/
def fminmax (F : FFmt) (wantMax : Bool) (a b : Nat) : Nat :=
  let x := F.decode a
  let y := F.decode b
  if x.isNan && y.isNan then F.qnan
  else if x.isNan then b
  else if y.isNan then a
  else
    let aLess := fltV x y || (feqV x y && x.sign && !y.sign)
    if aLess then (if wantMax then b else a) else (if wantMax then a else b)

/-- a × 2^b exactly (R207 `fscale`). -/
def fscaleV (x : FVal) (b : Int) : FVal :=
  match x with
  | .fin n m e => .fin n m (e + b)
  | v => v

/-- a rounded to an integral value in F (R207 `frnd`); zero keeps a's sign. -/
def frndV (mode : Nat) : FVal → FVal
  | .fin neg m e =>
    if 0 ≤ e then .fin neg m e
    else .fin neg (roundUp mode neg (m / 2 ^ (-e).toNat) (m % 2 ^ (-e).toNat) (-e).toNat) 0
  | v => v

/-- The class bit number of a pattern (R211). -/
def fclass (F : FFmt) (v : Nat) : Nat :=
  match F.decode v with
  | .nan => 0
  | .inf neg => if neg then 1 else 8
  | .fin neg m _ =>
    if m = 0 then (if neg then 4 else 5)
    else if m < 2 ^ F.mw then (if neg then 3 else 6)
    else (if neg then 2 else 7)

/-! ### silt16 (R68, R71) -/

/-- A nonnegative bound: none is +infinity, otherwise m × 2^e exactly. -/
abbrev Bound := Option (Nat × Int)

/-- The value of a silt16 pattern (R68). -/
def siltVal (s : BitVec 16) : Bound :=
  let e := s.toNat / 256
  let m := s.toNat % 256
  if e = 0 then some (0, 0) else if e = 255 then none else some (256 + m, (e : Int) - 135)

/-- The least silt16 pattern at or above m × 2^e (R71). -/
def siltCeil (m : Nat) (e : Int) : BitVec 16 :=
  if m = 0 then 0
  else
    let top : Int := (m.log2 : Int) + e
    if top < -126 then 0x0100
    else
      let q := top - 8
      let n := if q ≤ e then m * 2 ^ (e - q).toNat
        else (m + (2 ^ (q - e).toNat - 1)) / 2 ^ (q - e).toNat
      let code := (q + 135).toNat * 256 + (n - 256)
      if code ≤ 0xFEFF then BitVec.ofNat 16 code else 0xFF00

/-- silt_add(s, e) for an exact bound e (R71). -/
def siltAdd (s : BitVec 16) (b : Bound) : BitVec 16 :=
  match siltVal s, b with
  | some (m, e), some (n, f) =>
    let t := (Dy.mk m e).add ⟨n, f⟩
    siltCeil t.i.toNat t.e
  | _, _ => 0xFF00

/-- One element of a rounding step: its exact value and the pattern it rounded to (R78). -/
structure Rounded where
  exact : FVal
  bits : Nat
  deriving DecidableEq, Repr

/-- step_bound(result, exact, mode, F) of R78: a finite magnitude beyond the largest one makes it +infinity (R69, R81). An element whose result is finite takes part, be it clamped from an infinity; one whose result is NaN, or infinite from no finite value, does not. -/
def stepBound (F : FFmt) (mode : Nat) (els : List Rounded) : Bound :=
  let fin := els.filter (fun r => r.exact.isFin || (F.decode r.bits).isFin)
  let ovf := fin.any (fun r => r.exact.isFin && decide (F.maxMag < roundMag F mode r.exact.sign r.exact.dy.i.natAbs r.exact.dy.e))
  if ovf then none
  else if fin.all (fun r => r.exact.isFin && (F.decode r.bits).dy.eq r.exact.dy) then some (0, 0)
  else
    let A := fin.foldl (fun (acc : Nat × Int) r =>
      let v := (F.decode r.bits).mag
      match v with
      | .fin _ m e => if (Dy.mk acc.1 acc.2).lt ⟨m, e⟩ then (m, e) else acc
      | _ => acc) (0, 0)
    let u := ulpExp F A.1 A.2
    some (1, if mode = 0 then u - 1 else u)

end Sys2Proof.Machine
end

