-- ==== Sys2Proof/Machine/Approx.lean ====
section
/-! DEFINITION. The approximating instructions (R210): any value that meets the limits and the exact points is allowed. The part's own function is a free value of Config (log 7); a result of it that lies outside the limits is replaced by the correctly rounded one, so every function inside the limits, and no other, is a possible part. True results are enclosed to far more bits than the limits need. -/

namespace Sys2Proof.Machine

/-- The value of an f32 word. -/
def f32V (w : Word) : FVal := f32F.decode w.toNat

/-- An exact value rounded to f32, to nearest. -/
def f32Of (v : FVal) : Word := BitVec.ofNat 32 (roundF f32F 0 v)

/-- The canonical f32 NaN (R66). -/
def f32Nan : Word := BitVec.ofNat 32 f32F.qnan

/-- An f32 infinity. -/
def f32Inf (neg : Bool) : Word := if neg then 0xFF800000 else 0x7F800000

/-- ⌊log2 (m × 2^e)⌋ for m > 0. -/
def log2D (m : Nat) (e : Int) : Int := (m.log2 : Int) + e

/-- |c − t| ≤ n × 2^q + 2^z, on exact values; 2^z covers the enclosure of t. -/
def closeTo (c t : Dy) (n : Nat) (q z : Int) : Bool :=
  let d := c.add t.neg
  !(((Dy.mk n q).add ⟨1, z⟩).lt ⟨d.i.natAbs, d.e⟩)

/-- A candidate that is finite and meets a condition, or else the value `t` rounded to nearest. -/
def accept (cand : Word) (ok : Dy → Bool) (t : FVal) : Word :=
  match f32V cand with
  | .fin n m e => if ok (FVal.fin n m e).dy then cand else f32Of t
  | _ => f32Of t

/-! ### Reciprocal and reciprocal root: decided exactly -/

/-- `frcp` (R209, R210): |c − 1/a| ≤ ulp(1/a), that is |c × a − 1| ≤ ulp × |a|. -/
def frcpW (cand a : Word) : Word :=
  match f32V a with
  | .nan => f32Nan
  | .inf neg => if neg then 0x80000000 else 0
  | .fin neg m e =>
    if m = 0 then f32Inf neg
    else
      let t := fdivV (.fin false 1 0) (.fin neg m e)
      let r := f32Of t
      if (f32V r).isInf then r
      else
        let k : Int := if 2 ^ m.log2 = m then -(log2D m e) else -(log2D m e) - 1
        let u : Int := (if k < -126 then -126 else k) - 23
        accept cand (fun c =>
          let x := (c.mul (FVal.fin neg m e).dy).add ⟨-1, 0⟩
          !((Dy.mk m (u + e)).lt ⟨x.i.natAbs, x.e⟩)) t

/-- 1/√a to 2^−100 of itself, a sticky bit below. -/
def rsqrtV (m : Nat) (e : Int) : FVal :=
  let m2 := if e % 2 = 0 then m else 2 * m
  let e2 := if e % 2 = 0 then e else e - 1
  .fin false (2 * isqrt (2 ^ 300 / m2) + 1) (-150 - e2 / 2 - 1)

/-- `frsq` (R209, R210): (c − u)² × a ≤ 1 ≤ (c + u)² × a, or c − u ≤ 0. -/
def frsqW (cand a : Word) : Word :=
  match f32V a with
  | .nan => f32Nan
  | .inf neg => if neg then f32Nan else 0
  | .fin neg m e =>
    if m = 0 then f32Inf neg
    else if neg then f32Nan
    else
      let A : Dy := ⟨m, e⟩
      let k0 : Int := -(log2D m e) / 2
      let k : Int := if (Dy.mk 1 0).lt ((Dy.mk 1 (2 * k0)).mul A) then k0 - 1 else k0
      let u : Dy := ⟨1, k - 23⟩
      accept cand (fun c =>
        let lo := c.add u.neg
        let hi := c.add u
        (decide (lo.i ≤ 0) || !(Dy.mk 1 0).lt ((lo.mul lo).mul A))
          && (decide (0 < hi.i) && !((hi.mul hi).mul A).lt ⟨1, 0⟩)) (rsqrtV m e)

/-! ### Fixed point with 160 fraction bits -/

def fxOne : Int := 2 ^ 160
/-- ln 2 × 2^160, rounded down. -/
def fxLn2 : Int := 1013035739299659071135698605846798551586536899366
/-- 2π × 2^160, rounded down. -/
def fxTau : Int := 9182885614096437842769610399486622256908310048836

def fxMul (x y : Int) : Int := x * y / fxOne

/-- Terms of exp x from `x^k / k!` on. -/
def expTerms (x : Int) : Nat → Nat → Int → Int
  | 0, _, _ => 0
  | n + 1, k, t => t + expTerms x n (k + 1) (fxMul t x / (k + 1))

/-- Terms of the sine or cosine series from `t` on; the exponents step by two. -/
def sinTerms (x2 : Int) : Nat → Nat → Int → Int
  | 0, _, _ => 0
  | n + 1, k, t => t + sinTerms x2 n (k + 2) (-(fxMul t x2) / ((k + 1) * (k + 2)))

/-- A finite value as fixed point, exact for f32 magnitudes of 2^−149 and more. -/
def fxOf (v : Dy) : Int := if 0 ≤ v.e + 160 then v.i * (2 ^ (v.e + 160).toNat : Nat) else 0

/-! ### Powers, logarithms, sine and cosine -/

/-- `fexp2` (R209, R210): exact at integers, at most 2 ulp elsewhere. -/
def fexp2W (cand a : Word) : Word :=
  match f32V a with
  | .nan => f32Nan
  | .inf neg => if neg then 0 else f32Inf false
  | .fin neg m e =>
    let x := fxOf (FVal.fin neg m e).dy
    let n := x / fxOne
    let fr := x % fxOne
    if 128 ≤ n then f32Inf false
    else if n < -150 ∨ (n = -150 ∧ fr = 0) then 0
    else if fr = 0 then f32Of (.fin false 1 n)
    else
      let t : Dy := ⟨expTerms (fxMul fr fxLn2) 60 0 fxOne, n - 160⟩
      let k : Int := (if n < -126 then -126 else n) - 23
      accept cand (fun c => closeTo c t 2 k (n - 140)) t.val

/-- Binary digits of log2 y for y in [1, 2), as fixed point, `n` digits from weight `w`. -/
def log2Digits : Nat → Int → Int → Int
  | 0, _, _ => 0
  | n + 1, w, y =>
    let z := fxMul y y
    if 2 * fxOne ≤ z then w + log2Digits n (w / 2) (z / 2) else log2Digits n (w / 2) z

/-- `flog2` (R209, R210): absolute error at most 2^−22 in [0.5, 2], at most 2 ulp elsewhere; log2 1 is +0. -/
def flog2W (cand a : Word) : Word :=
  match f32V a with
  | .nan => f32Nan
  | .inf neg => if neg then f32Nan else f32Inf false
  | .fin neg m e =>
    if m = 0 then f32Inf true
    else if neg then f32Nan
    else if a = 0x3F800000 then 0
    else
      let q := log2D m e
      let y : Int := (m : Int) * (2 ^ (160 - m.log2) : Nat)
      let t : Dy := ⟨q * fxOne + log2Digits 72 (fxOne / 2) y, -160⟩
      let near := decide (q = -1) || decide (q = 0) || (decide (q = 1) && decide (2 ^ m.log2 = m))
      accept cand (fun c =>
        if near then closeTo c t 1 (-22) (-66)
        else closeTo c t 2 (log2D t.i.natAbs t.e - 23) (-66)) t.val

/-- sin of 2π × r / 2^160 for r in [0, 2^158]. -/
def sinFx (r : Int) : Int :=
  let x := fxMul r fxTau
  sinTerms (fxMul x x) 30 1 x

/-- cos of 2π × r / 2^160 for r in [0, 2^158]. -/
def cosFx (r : Int) : Int :=
  let x := fxMul r fxTau
  sinTerms (fxMul x x) 30 0 fxOne

/-- The sine of `q` quarter turns and r / 2^160 turns. -/
def quarterSin (q : Nat) (r : Int) : Int :=
  match q % 4 with
  | 0 => sinFx r
  | 1 => cosFx r
  | 2 => -(sinFx r)
  | _ => -(cosFx r)

/-- Sine and cosine in turns (R210): `ahead` is 0 for the sine and 1 for the cosine, a quarter turn ahead. -/
def trigW (ahead : Nat) (cand a : Word) : Word :=
  match f32V a with
  | .nan => f32Nan
  | .inf _ => f32Nan
  | .fin neg m e =>
    if m = 0 then (if ahead = 0 then a else 0x3F800000)
    else
      let x := fxOf (FVal.fin neg m e).dy % fxOne
      let q := (x / (fxOne / 4)).toNat + ahead
      let r := x % (fxOne / 4)
      if r = 0 then
        match q % 4 with
        | 1 => 0x3F800000
        | 3 => 0xBF800000
        | _ => 0
      else
        let t : Dy := ⟨quarterSin q r, -160⟩
        accept cand (fun c => closeTo c t 1 (-22) (-140) && !(Dy.mk 1 0).lt ⟨c.i.natAbs, c.e⟩) t.val

end Sys2Proof.Machine
end

