-- ==== Sys2Proof/Machine/Flags.lean ====
section
/-! DEFINITION. Condition codes and comparisons (R131, R198): the flag computations of the machine. The condition codes of a split are the two operands of its last `ucmp`, from which every condition is read. -/

namespace Sys2Proof.Machine

/-- A condition of R131 on two words. -/
def condHolds (code : Nat) (a b : Word) : Bool :=
  match code with
  | 0 => true
  | 1 => a == b
  | 2 => a != b
  | 3 => a.slt b
  | 4 => b.sle a
  | 5 => b.slt a
  | 6 => a.sle b
  | 7 => a.ult b
  | 8 => b.ule a
  | 9 => b.ult a
  | 10 => a.ule b
  | _ => false

/-- A condition of `fcmp` (R198) on two values. -/
def fcondHolds (code : Nat) (a b : FVal) : Bool :=
  let un := a.isNan || b.isNan
  match code with
  | 0 => !un && feqV a b
  | 1 => un || !feqV a b
  | 2 => !un && fltV a b
  | 3 => !un && (fltV a b || feqV a b)
  | 4 => !un && fltV b a
  | 5 => !un && (fltV b a || feqV a b)
  | 6 => un
  | 7 => !un
  | _ => false

end Sys2Proof.Machine
end

