-- ==== Sys2Proof/Syntax.lean ====
section
/-! DEFINITION. The instructions and device steps of the Vorrate W64: one constructor per row of the opcode table. Control instructions carry the fields of their layout (R129, R130), lane instructions those of R135 or R136, device steps what comes with them; the unit a device step concerns is the state's `cur`. Constructors without operands stand last. -/

namespace Sys2Proof

/-- One constructor per row of the opcode table, in its order. -/
inductive Instr where
  /-- R151: Unconditional branch to PC + 4 × off21, unwinding the loop stack as R32 gives. -/
  | b (p : Bool) (off : BitVec 21)
  /-- R151: Branch when the condition holds on the split's condition codes. -/
  | bc (p : Bool) (cond : BitVec 4) (off : BitVec 21)
  /-- R151: Branch when mK AND m0 is zero. -/
  | bmz (p : Bool) (k : BitVec 4) (off : BitVec 21)
  /-- R151: Branch when mK AND m0 equals m0. -/
  | bma (p : Bool) (k : BitVec 4) (off : BitVec 21)
  /-- R152: Writes the return address into a register pair and continues at PC + 4 × imm17. -/
  | call (p : Bool) (d : BitVec 8) (imm : BitVec 17)
  /-- R152: Continues at the 64-bit address held in a uniform register pair. -/
  | ret (p : Bool) (a : BitVec 8)
  /-- R154: Pushes a zero-overhead loop-stack entry with the count from a uniform register, or skips past the end when the count is 0. -/
  | loop (p : Bool) (a : BitVec 8) (imm : BitVec 9)
  /-- R157: Divides the issuing split by a mask into a new split starting at the target. -/
  | split (p : Bool) (k : BitVec 4) (off : BitVec 21)
  /-- R156: Appends a lane block to the split's lane queue. -/
  | lrun (p : Bool) (count : BitVec 8) (off : BitVec 17)
  /-- R159: Blocks the split on a yield condition, then continues at the continuation target. -/
  | yld (p : Bool) (off : BitVec 21)
  /-- R161: Has no effect; with P set it closes a window. -/
  | nop (p : Bool)
  /-- R160: Ends the issuing split once its queue has drained, its results returned and its fences met their conditions. -/
  | exit (p : Bool)
  /-- R158: Waits on the group's join phase and joins the live splits into the lowest-numbered survivor. -/
  | merge (p : Bool)
  /-- R155: Pops the top loop-stack entry and continues past its end address. -/
  | lbrk (p : Bool)
  /-- R354: Returns from a trap handler, restoring the loop stack, condition operands and lane queue from the trap record. -/
  | eret (p : Bool)
  /-- R176: Closes the open matrix batch and advances BATCH. -/
  | mmafence (p : Bool)
  /-- R162: Uniform or affine addition modulo 2^32. -/
  | uadd (p : Bool) (d : BitVec 8) (a : BitVec 8) (b : BitVec 8) (x : Bool)
  /-- R162: Uniform or affine subtraction modulo 2^32. -/
  | usub (p : Bool) (d : BitVec 8) (a : BitVec 8) (b : BitVec 8) (x : Bool)
  /-- R162: Low 32 bits of a uniform or affine product. -/
  | umul (p : Bool) (d : BitVec 8) (a : BitVec 8) (b : BitVec 8) (x : Bool)
  /-- R162: High 32 bits of the 64-bit product of two uniform values. -/
  | umulh (p : Bool) (d : BitVec 8) (a : BitVec 8) (b : BitVec 8) (x : Bool)
  /-- R162: Adds the low product of two uniform values to vd. -/
  | umad (p : Bool) (d : BitVec 8) (a : BitVec 8) (b : BitVec 8) (x : Bool)
  /-- R162: Uniform or affine left shift. -/
  | ushl (p : Bool) (d : BitVec 8) (a : BitVec 8) (b : BitVec 8) (x : Bool)
  /-- R162: Uniform logical right shift. -/
  | ushr (p : Bool) (d : BitVec 8) (a : BitVec 8) (b : BitVec 8) (x : Bool)
  /-- R162: Uniform arithmetic right shift. -/
  | usra (p : Bool) (d : BitVec 8) (a : BitVec 8) (b : BitVec 8) (x : Bool)
  /-- R162: Uniform bitwise AND. -/
  | uand (p : Bool) (d : BitVec 8) (a : BitVec 8) (b : BitVec 8) (x : Bool)
  /-- R162: Uniform bitwise OR. -/
  | uor (p : Bool) (d : BitVec 8) (a : BitVec 8) (b : BitVec 8) (x : Bool)
  /-- R162: Uniform bitwise XOR. -/
  | uxor (p : Bool) (d : BitVec 8) (a : BitVec 8) (b : BitVec 8) (x : Bool)
  /-- R162: Uniform lesser value, signed under i32. -/
  | umin (p : Bool) (d : BitVec 8) (a : BitVec 8) (b : BitVec 8) (x : Bool)
  /-- R162: Uniform greater value, signed under i32. -/
  | umax (p : Bool) (d : BitVec 8) (a : BitVec 8) (b : BitVec 8) (x : Bool)
  /-- R163: Compares two uniform values and sets the split's condition codes. -/
  | ucmp (p : Bool) (a : BitVec 8) (b : BitVec 8) (x : Bool)
  /-- R164: Copies a register's value, shape and tag. -/
  | umov (p : Bool) (d : BitVec 8) (b : BitVec 8) (x : Bool)
  /-- R164: Writes an affine register from a uniform base and stride. -/
  | uaff (p : Bool) (d : BitVec 8) (a : BitVec 8) (b : BitVec 8) (x : Bool)
  /-- R164: Copies vb into va when the condition holds on the split's codes. -/
  | usel (p : Bool) (cond : BitVec 4) (a : BitVec 8) (b : BitVec 8) (first : Bool)
  /-- R165: Writes a sign-extended 17-bit immediate as a uniform i32. -/
  | ulim (p : Bool) (d : BitVec 8) (imm : BitVec 17)
  /-- R165: Replaces the high half of a uniform register with a 16-bit immediate. -/
  | ulih (p : Bool) (d : BitVec 8) (imm : BitVec 16)
  /-- R166: Reads a special register into a uniform or affine register. -/
  | sget (p : Bool) (d : BitVec 8) (imm : BitVec 9)
  /-- R167: Writes loop.count or a writable trap-state register. -/
  | sput (p : Bool) (a : BitVec 8) (imm : BitVec 9)
  /-- R168: Replaces the group's fast-operand-buffer staging with up to four register runs. -/
  | rgn (p : Bool) (run0 : BitVec 5) (run1 : BitVec 5) (run2 : BitVec 5) (run3 : BitVec 5) (present : BitVec 4)
  /-- R169: Raises the software trap with a 9-bit code. -/
  | trap (p : Bool) (imm : BitVec 9)
  /-- R170: Writes the next-slot distance, slot length and slot word from the housekeeping controller. -/
  | slotq (p : Bool) (d : BitVec 8)
  /-- R171: Requests an operating point for the cluster and returns the decision word. -/
  | opreq (p : Bool) (d : BitVec 8) (a : BitVec 8)
  /-- R172: Places a launch record into a launch queue and returns a status. -/
  | spawn (p : Bool) (d : BitVec 8) (a : BitVec 8) (b : BitVec 8) (x : Bool)
  /-- R174: Orders the group's accesses over a range at a scope as an acquire, release or full fence. -/
  | fence (p : Bool) (sub : BitVec 4) (a : BitVec 8) (b : BitVec 8)
  /-- R175: Blocks the split until the given phase of a scratchpad barrier has completed. -/
  | waitBar (p : Bool) (a : BitVec 8) (b : BitVec 8)
  /-- R177: Closes the open batch if named, and blocks until the named batch and all earlier ones have ended. -/
  | waitBatch (p : Bool) (a : BitVec 8)
  /-- R175: Blocks until the job named by an engine token has completed. -/
  | waitTok (p : Bool) (a : BitVec 8)
  /-- R179: Initialises a scratchpad barrier with an expected arrival count and phase 0. -/
  | binit (p : Bool) (a : BitVec 8) (b : BitVec 8) (x : Bool)
  /-- R180: Adds expected bytes to BAL and counts one arrival at a barrier, with optional ordering. -/
  | barrive (p : Bool) (sub : BitVec 4) (a : BitVec 8) (b : BitVec 8)
  /-- R180: Adds expected bytes to a barrier's BAL without an arrival. -/
  | bexpect (p : Bool) (sub : BitVec 4) (a : BitVec 8) (b : BitVec 8)
  /-- R181: Arrives at a grid barrier of a concurrent grid over the broadcast buses. -/
  | gbar (p : Bool) (a : BitVec 8)
  /-- R182: Team-collective request to join drain detection over a rank set, completing into a barrier. -/
  | drain (p : Bool) (a : BitVec 8) (b : BitVec 8)
  /-- R183: Writes the gang register's size and members after the group's matrix operations end. -/
  | gang (p : Bool) (a : BitVec 8) (b : BitVec 8) (x : Bool)
  /-- R184: Loads and checks a 16-entry bf16 codebook into a team codebook slot. -/
  | cbld (p : Bool) (kslot : BitVec 3) (a : BitVec 8)
  /-- R185: Sets the silt threshold of a working tile. -/
  | siltThr (p : Bool) (tile : BitVec 7) (b : BitVec 8) (x : Bool)
  /-- R186: Sets the SILT of a working tile to 0. -/
  | siltClr (p : Bool) (tile : BitVec 7)
  /-- R187: Writes the count of free wide-pool tiles once the group's matrix operations have ended. -/
  | widepool (p : Bool) (d : BitVec 8)
  /-- R250: Engine command copying a strided block of up to three dimensions. -/
  | cpy (p : Bool) (a : BitVec 8) (b : BitVec 8) (compl : BitVec 2) (var : BitVec 3)
  /-- R251: Engine command gathering indexed elements from a table. -/
  | gth (p : Bool) (a : BitVec 8) (b : BitVec 8) (compl : BitVec 2) (var : BitVec 3)
  /-- R251: Engine command scattering elements into a table by index. -/
  | sct (p : Bool) (a : BitVec 8) (b : BitVec 8) (compl : BitVec 2) (var : BitVec 3)
  /-- R252: Engine command writing local bytes into a registered remote region. -/
  | nput (p : Bool) (a : BitVec 8) (b : BitVec 8) (compl : BitVec 2) (var : BitVec 3)
  /-- R253: Engine command reading from a registered region into local storage. -/
  | nget (p : Bool) (a : BitVec 8) (b : BitVec 8) (compl : BitVec 2) (var : BitVec 3)
  /-- R254: Engine command applying one sys-scope atomic at a remote region's home slice. -/
  | natom (p : Bool) (a : BitVec 8) (b : BitVec 8) (compl : BitVec 2) (var : BitVec 3)
  /-- R255: Team-collective engine command running a collective over a rank set. -/
  | coll (p : Bool) (a : BitVec 8) (b : BitVec 8) (compl : BitVec 2) (var : BitVec 3)
  /-- R257: Team-collective command flipping the reticle's route table bank at a barrier phase completion. -/
  | nswap (p : Bool) (a : BitVec 8) (b : BitVec 8) (compl : BitVec 2) (var : BitVec 3)
  /-- R258: Engine command moving one pool way between the L1 and the scratchpad. -/
  | l1ways (p : Bool) (b : BitVec 8) (compl : BitVec 2) (var : BitVec 3)
  /-- R195: Per-lane integer addition, wrapped or saturated. -/
  | add (f : LaneOp)
  /-- R136: Integer addition with a 32-bit immediate in place of b. -/
  | addImmediate (f : LaneImm)
  /-- R195: Per-lane integer subtraction, wrapped or saturated. -/
  | sub (f : LaneOp)
  /-- R136: Integer subtraction with an immediate. -/
  | subImmediate (f : LaneImm)
  /-- R195: Low 32 bits of a per-lane product. -/
  | mul (f : LaneOp)
  /-- R136: Low product with an immediate. -/
  | mulImmediate (f : LaneImm)
  /-- R195: High 32 bits of a per-lane product. -/
  | mulhi (f : LaneOp)
  /-- R195: Low 32 bits of a × b + c. -/
  | mad (f : LaneOp)
  /-- R195: Per-lane lesser integer. -/
  | minL (f : LaneOp)
  /-- R136: Lesser integer against an immediate. -/
  | minImmediate (f : LaneImm)
  /-- R195: Per-lane greater integer. -/
  | maxL (f : LaneOp)
  /-- R136: Greater integer against an immediate. -/
  | maxImmediate (f : LaneImm)
  /-- R195: Per-lane absolute value. -/
  | absL (f : LaneOp)
  /-- R195: Per-lane negation. -/
  | neg (f : LaneOp)
  /-- R195: Per-lane bitwise AND. -/
  | andL (f : LaneOp)
  /-- R136: Bitwise AND with an immediate. -/
  | andImmediate (f : LaneImm)
  /-- R195: Per-lane bitwise OR. -/
  | orL (f : LaneOp)
  /-- R136: Bitwise OR with an immediate. -/
  | orImmediate (f : LaneImm)
  /-- R195: Per-lane bitwise XOR. -/
  | xor (f : LaneOp)
  /-- R136: Bitwise XOR with an immediate. -/
  | xorImmediate (f : LaneImm)
  /-- R195: Per-lane bitwise complement. -/
  | notL (f : LaneOp)
  /-- R195: Per-lane left shift. -/
  | shl (f : LaneOp)
  /-- R136: Left shift by an immediate count. -/
  | shlImmediate (f : LaneImm)
  /-- R195: Per-lane logical right shift. -/
  | shr (f : LaneOp)
  /-- R136: Logical right shift by an immediate count. -/
  | shrImmediate (f : LaneImm)
  /-- R195: Per-lane arithmetic right shift. -/
  | sra (f : LaneOp)
  /-- R136: Arithmetic right shift by an immediate count. -/
  | sraImmediate (f : LaneImm)
  /-- R195: Per-lane left rotation. -/
  | rot (f : LaneOp)
  /-- R136: Left rotation by an immediate count. -/
  | rotImmediate (f : LaneImm)
  /-- R195: Per-lane count of 1 bits. -/
  | popc (f : LaneOp)
  /-- R195: Per-lane count of leading zero bits. -/
  | clz (f : LaneOp)
  /-- R195: Per-lane bit reversal. -/
  | brev (f : LaneOp)
  /-- R196: Extracts a bit field, sign- or zero-extended. -/
  | bfe (f : LaneOp)
  /-- R196: Inserts a bit field of a into b. -/
  | bfi (f : LaneOp)
  /-- R197: Sets mask bits by an integer condition on two sources. -/
  | cmp (f : LaneOp)
  /-- R197: Integer compare against an immediate into a mask. -/
  | cmpImmediate (f : LaneImm)
  /-- R199: Selects per lane between two sources by a mask. -/
  | sel (f : LaneOp)
  /-- R200: Mask AND. -/
  | mand (f : LaneOp)
  /-- R200: Mask OR. -/
  | mor (f : LaneOp)
  /-- R200: Mask XOR. -/
  | mxor (f : LaneOp)
  /-- R200: Mask complement. -/
  | mnot (f : LaneOp)
  /-- R200: Sets mask bits for lanes whose value is nonzero. -/
  | ballot (f : LaneOp)
  /-- R201: Counts set mask bits within the execution mask. -/
  | mcount (f : LaneOp)
  /-- R201: Exclusive prefix count of set mask bits per lane. -/
  | mprefix (f : LaneOp)
  /-- R202: Reads each lane's value from a lane index held in b. -/
  | shfl (f : LaneOp)
  /-- R202: Shifts values up across lanes by n. -/
  | shup (f : LaneOp)
  /-- R202: Shifts values down across lanes by n. -/
  | shdn (f : LaneOp)
  /-- R202: Exchanges values between lanes L and L xor n. -/
  | shxor (f : LaneOp)
  /-- R203: Shifts a 256-byte byte stream of two registers by n bytes. -/
  | shcat (f : LaneOp)
  /-- R204: Permutes bytes within each lane by selectors. -/
  | prm (f : LaneOp)
  /-- R205: Looks up each byte's nibble in a 16-byte table. -/
  | lut16 (f : LaneOp)
  /-- R206: Inclusive scan over the lanes of the execution mask. -/
  | lscan (f : LaneOp)
  /-- R206: Fixed-tree reduction over the lanes of the execution mask. -/
  | lred (f : LaneOp)
  /-- R207: Correctly rounded floating addition. -/
  | fadd (f : LaneOp)
  /-- R207: Floating addition with an immediate. -/
  | faddImmediate (f : LaneImm)
  /-- R207: Correctly rounded floating subtraction. -/
  | fsub (f : LaneOp)
  /-- R207: Floating subtraction with an immediate. -/
  | fsubImmediate (f : LaneImm)
  /-- R207: Correctly rounded floating multiplication. -/
  | fmul (f : LaneOp)
  /-- R207: Floating multiplication with an immediate. -/
  | fmulImmediate (f : LaneImm)
  /-- R207: Fused multiply-add rounded once. -/
  | fma (f : LaneOp)
  /-- R208: Floating minimum with −0 below +0 and NaN handling. -/
  | fmin (f : LaneOp)
  /-- R208: Floating minimum against an immediate. -/
  | fminImmediate (f : LaneImm)
  /-- R208: Floating maximum with +0 above −0 and NaN handling. -/
  | fmax (f : LaneOp)
  /-- R208: Floating maximum against an immediate. -/
  | fmaxImmediate (f : LaneImm)
  /-- R207: Clears the sign of each element. -/
  | fabs (f : LaneOp)
  /-- R207: Inverts the sign of each element. -/
  | fneg (f : LaneOp)
  /-- R210: Approximate reciprocal. -/
  | frcp (f : LaneOp)
  /-- R210: Approximate reciprocal square root. -/
  | frsq (f : LaneOp)
  /-- R207: Correctly rounded square root. -/
  | fsqrt (f : LaneOp)
  /-- R207: Correctly rounded division. -/
  | fdiv (f : LaneOp)
  /-- R210: Approximate base-2 exponential. -/
  | fexp2 (f : LaneOp)
  /-- R210: Approximate base-2 logarithm. -/
  | flog2 (f : LaneOp)
  /-- R210: Approximate sine of an angle in turns. -/
  | fsin (f : LaneOp)
  /-- R210: Approximate cosine of an angle in turns. -/
  | fcos (f : LaneOp)
  /-- R198: Sets mask bits by a floating comparison. -/
  | fcmp (f : LaneOp)
  /-- R198: Floating comparison against an immediate into a mask. -/
  | fcmpImmediate (f : LaneImm)
  /-- R211: Sets mask bits when an element's class is in a class set. -/
  | fcls (f : LaneOp)
  /-- R207: Rounds each element to an integral value. -/
  | frnd (f : LaneOp)
  /-- R207: Multiplies by 2^b and rounds once. -/
  | fscale (f : LaneOp)
  /-- R212: Converts one element per lane between i32, n32, f32 and f64. -/
  | cvt (f : LaneOp)
  /-- R213: Narrows two sources into one packed register. -/
  | pack (f : LaneOp)
  /-- R214: Widens selected packed elements exactly. -/
  | unpack (f : LaneOp)
  /-- R215: Decodes two cb4 indices per lane through a codebook slot into bf16. -/
  | cbdec (f : LaneOp)
  /-- R216: Rewrites a register's format tag without changing its bits. -/
  | tag (f : LaneOp)
  /-- R217: Writes a register's tag word into every lane. -/
  | tget (f : LaneOp)
  /-- R218: Copies a register per lane. -/
  | mov (f : LaneOp)
  /-- R218: Writes an immediate tagged by fmt. -/
  | movImmediate (f : LaneImm)
  /-- R223: Loads one element per lane from virtual memory. -/
  | ld (f : LaneOp)
  /-- R223: Virtual load with an immediate offset. -/
  | ldImmediate (f : LaneImm)
  /-- R224: Stores one element per lane to virtual memory. -/
  | st (f : LaneOp)
  /-- R224: Virtual store with an immediate offset. -/
  | stImmediate (f : LaneImm)
  /-- R223: Loads one element per lane from the scratchpad. -/
  | lds (f : LaneOp)
  /-- R223: Scratchpad load with an immediate offset. -/
  | ldsImmediate (f : LaneImm)
  /-- R224: Stores one element per lane to the scratchpad. -/
  | sts (f : LaneOp)
  /-- R224: Scratchpad store with an immediate offset. -/
  | stsImmediate (f : LaneImm)
  /-- R227: Fills a run of registers from 128-byte-aligned memory, restartable at a cursor. -/
  | ldm (f : LaneOp)
  /-- R227: Spills a run of registers to 128-byte-aligned memory, restartable at a cursor. -/
  | stm (f : LaneOp)
  /-- R226: Prefetches each lane's line into the L1 or the home slice. -/
  | prf (f : LaneOp)
  /-- R226: Prefetch with an immediate offset. -/
  | prfImmediate (f : LaneImm)
  /-- R229: Per-lane read-modify-write on virtual memory, returning the old value. -/
  | atom (f : LaneOp)
  /-- R232: Per-lane atomic reduction without a result. -/
  | ared (f : LaneOp)
  /-- R233: Per-lane atomic on the scratchpad. -/
  | atoms (f : LaneOp)
  /-- R234: Unscaled gang matrix operation C += A × B into a working tile. -/
  | mma (f : LaneOp)
  /-- R234: Scaled gang matrix operation with e8m0 scales. -/
  | mmas (f : LaneOp)
  /-- R240: Zeroes a tile, sets its tag and clears its silt and flags. -/
  | accz (f : LaneOp)
  /-- R241: Loads a tile image with its sidecar into a tile. -/
  | accld (f : LaneOp)
  /-- R241: Stores a tile image with its sidecar. -/
  | accst (f : LaneOp)
  /-- R242: Converts a tile into a register run and reports the silt. -/
  | acccvt (f : LaneOp)
  /-- R243: Fills a tile from a register run. -/
  | accput (f : LaneOp)
  /-- R244: Reads a tile's SILT or metadata word. -/
  | siltGet (f : LaneOp)
  /-- R88: The walker completes a page-table walk for a TLB miss, giving a translation or a fault. -/
  | tlbWalk (core : Nat) (va : Dword)
  /-- R102: The slice recalls a leased line, writing back dirty bytes before serving another access. -/
  | leaseRecall (ret : Nat) (line : Nat)
  /-- R340: An owner folds a unit once all P contributions are present. -/
  | collectiveFold (ret : Nat) (core : Nat) (job : Nat) (unit : Nat)
  /-- R271: A sweep sums SNT and DON over a rank set; two equal balanced sweeps end the detection. -/
  | drainSweep
  /-- R273: A team's grid-barrier arrival is counted on the buses and through the endpoints. -/
  | gridBarrierArrival
  /-- R273: The release reaches a team and applies the phase update at its barrier. -/
  | gridBarrierRelease
  /-- R364: A cluster scheduler takes a team entry and refuses a team that could never fit. -/
  | teamEntry (ret : Nat) (e : EntryMsg)
  /-- R282: A victim cluster answers a steal request with up to 4 fitting team entries or none. -/
  | stealRequest (ret : Nat) (victim : Nat) (thief : Nat)
  /-- R283: The idle cluster takes the donated entries and admits them, writing forwarding entries. -/
  | stealAnswer (ret : Nat) (thief : Nat) (teams : List Nat)
  /-- R293: A unit forwards, drops or, at the originator, reports a probe copy. -/
  | probeMessage (m : ProbeMsg)
  /-- R301: A put packet is admitted by the key checks and lands, or is refused with a NACK. -/
  | put (pkt : Packet)
  /-- R253: A get request is admitted and answered with data read at the home slice. -/
  | getRequest (pkt : Packet)
  /-- R253: Get data arrives and lands in the local destination. -/
  | getData (pkt : Packet)
  /-- R254: A remote atomic is admitted and applied at the target's home slice. -/
  | atomic (pkt : Packet)
  /-- R254: A remote atomic's result arrives and completes the natom job. -/
  | atomicResult (pkt : Packet)
  /-- R309: A collective chunk arrives and is folded, landed or buffered for a team that has not issued. -/
  | collectiveChunk (pkt : Packet)
  /-- R304: A NACK ends the initiating job or records a posted nput's refusal. -/
  | semanticNack (pkt : Packet)
  /-- R126: An acknowledgement arrives, marking a posted write performed at the target. -/
  | acknowledgement (ret : Nat) (psn : Nat)
  /-- R304: A packet with an unassigned operation byte is dropped and logged. -/
  | unassignedOperation (pkt : Packet)
  /-- R326: A peer's link-level pause holds transmissions to the paused port. -/
  | linkLevelPause (port : Nat) (on : Bool)
  /-- R305: A retransmission timer expires and the packet is resent, or at the eighth attempt the job ends with reason 10. -/
  | retransmissionTimeout (ret : Nat) (psn : Nat) (attempt : Nat)
  /-- R306: An uncorrectable codeword causes a link-level replay; three failed replays cause a short retrain. -/
  | llrReplay (port : Nat) (good : Bool)
  /-- R307: A waking lane becomes lit and joins the lit set. -/
  | laneLit (port : Nat) (ln : Nat)
  /-- R307: A link-control flit tells the peer the lit lane set. -/
  | linkControlFlit (port : Nat) (lit : BitVec 4)
  /-- R384: A stitched link fails, retrains once and otherwise becomes a hole in the mesh. -/
  | stitchedLinkFailure (ret : Nat) (dir : Nat) (retrained : Bool)
  /-- R311: A port trains to its new peer and writes PEER; when all ports are armed the bank is armed. -/
  | linkTraining (port : Nat) (peer : Word)
  /-- R387: A port missing its step's bound fails the topology change. -/
  | topologyStepTimeout (port : Nat) (stage : Nat)
  /-- R325: A reticle sets its slot start from an arriving beacon. -/
  | beaconArrival (ret : Nat) (hops : Nat)
  /-- R374: A correctable storage error is corrected and logged. -/
  | softErrorCorrection (site : ErrSite) (bit : Nat)
  /-- R375: An uncorrectable error drops data, lists a lost line or ends the owning team. -/
  | uncorrectableError (site : ErrSite)
  /-- R317: A neighbour region answers a request for 16 units and both LOAN fields settle. -/
  | loanRequest (ret : Nat) (lender : Nat)
  /-- R317: A lender recalls its loans and the borrower lowers clusters until returned. -/
  | loanRecall (lender : Nat) (borrower : Nat)
  /-- R318: A cap message written to BAR0 is accepted or ignored by sequence number and passed to every live region. -/
  | capMsg (link : Nat) (msg : CapMsg)
  /-- R389: A region applies a forwarded cap message, sets CAPSH and starts its lease. -/
  | capShareUpdate (ret : Nat) (msg : CapMsg)
  /-- R319: System software writes a cluster's TGT and GOV; TGT 7 to 15 is ignored. -/
  | clOpWrite (ret : Nat) (cluster : Nat) (value : Dword)
  /-- R314: A route entry write, ignored on the bank in force or a bank being armed. -/
  | routeTableEntryWrite (ret : Nat) (bank : Bool) (index : Nat) (value : Dword)
  /-- R376: Writing 0 to a lost-line table entry removes it. -/
  | lostLineEntryWrite (ret : Nat) (slice : Nat) (index : Nat) (value : Dword)
  /-- R94: A window write expands a register to general, writes tile bytes or replaces a metadata word. -/
  | coreWindowWrite (core : Nat) (off : Nat) (bytes : List Byte)
  /-- R6: A write to any other device register, reserved bits ignored. -/
  | registerWrite (reg : RegAddr) (value : Dword)
  /-- R329: System-queue command 0x01 writes a partition descriptor to every reticle of its rectangle. -/
  | partitionSetUp (link : Nat) (rec : List Byte)
  /-- R329: Partition set-up with the dissolve bit removes the rectangle from the partition. -/
  | partitionDissolve (link : Nat) (rec : List Byte)
  /-- R300: System-queue command 0x02 registers a region and returns its key. -/
  | regionRegister (link : Nat) (rec : List Byte)
  /-- R302: System-queue command 0x03 sets a key draining, completing when it drains. -/
  | regionDeregister (link : Nat) (rec : List Byte)
  /-- R90: System-queue command 0x04 removes old translations of a range on the partition's reticles of one wafer. -/
  | tlbInvalidation (link : Nat) (rec : List Byte)
  /-- R311: System-queue command 0x05 starts draining up to 16 ports to arm a standby bank. -/
  | topologyChange (link : Nat) (rec : List Byte)
  /-- R311: System-queue command 0x06 reports a port retargeted and starts its laser wake. -/
  | retargetDone (link : Nat) (rec : List Byte)
  /-- R367: Pre-emption command mode 0 requests eviction at the next blocking point. -/
  | preemptionRequest (link : Nat) (rec : List Byte)
  /-- R367: Pre-emption command mode 1 withdraws the team's requests. -/
  | preemptionWithdraw (link : Nat) (rec : List Byte)
  /-- R367: Pre-emption command mode 2 ends the team at once by fault. -/
  | preemptionEnd (link : Nat) (rec : List Byte)
  /-- R372: Pre-emption command mode 3 abandons an idempotent team and restarts it. -/
  | preemptionRestart (link : Nat) (rec : List Byte)
  /-- R329: System-queue command 0x08 starts a probe from a team and reports whether a cycle was found. -/
  | waitCycleProbe (link : Nat) (rec : List Byte)
  /-- R329: System-queue command 0x09 with byte 13 = 0 stages a reticle's enable mask. -/
  | warmStartStage (link : Nat) (rec : List Byte)
  /-- R327: System-queue command 0x09 with byte 13 = 1 applies staged masks and runs a warm start, ending every team. -/
  | warmStart (link : Nat) (rec : List Byte) (fails : List StartFail)
  /-- R327: Power-on runs every start step in order on every reticle. -/
  | coldStart (fails : List StartFail)
  /-- R329: System-queue command 0x0A signs the firmware and defect-map measurements with the nonce. -/
  | attestation (link : Nat) (rec : List Byte)
  /-- R331: System-queue command 0x0B stores a new wafer id for the next start. -/
  | waferId (link : Nat) (rec : List Byte)
  /-- R328: A system-queue record with an unassigned command code is refused naming bit 0. -/
  | unassignedCommand (link : Nat) (rec : List Byte)
  /-- R138: A split issues a control or lane word whose major opcode, lane opcode or sub value is unassigned, and it raises the illegal-encoding fault. -/
  | illegalEncoding (w : RawWord)
  /-- R305: A packet-delivery-sublayer NACK arrives from the peer and the endpoint retransmits the packet as a further attempt. -/
  | packetDeliveryNack (ret : Nat) (psn : Nat)
  /-- R384: The broadcast-bus wires across a reticle boundary fail, stopping the partition's grid barriers and drain detections that need them and posting a link-degraded event of severity 3. -/
  | broadcastBusWireFailure (ret : Nat) (dir : Nat)
  /-- R330: The host writes fabric memory such as DRAM, launch records or page tables through BAR2's management window as a memory agent. -/
  | managementWindowWrite (link : Nat) (off : Nat) (bytes : List Byte)
  /-- R159: 256 resident lane cycles after a yld reaches its blocking point, the yield condition holds and the split continues. -/
  | yieldExpiry
  /-- R41: A blocked split's wait condition comes to hold and the split continues, taking its attached acquires. -/
  | waitConditionMet
  /-- R236: When every listed member has issued an operation with the same SEQ, the latch releases it and SEQ advances. -/
  | gangRendezvous
  /-- R238: The matrix unit works a member's operation on its tile and it commits, is skipped or is re-executed. -/
  | matrixOperation
  /-- R61: A parked split resumes once its outstanding results have returned and its lane queue has drained. -/
  | parkEnd
  /-- R350: After outstanding results return, the split writes its trap record and continues at the handler. -/
  | trapEntry
  /-- R259: A remote or collective job passes to its reticle unit once its ordering edges are resolved. -/
  | jobForward
  /-- R260: An engine starts the next segment of a job once its edges are clear and no slot is near. -/
  | segmentStart
  /-- R266: A job's bytes are performed in target storage and counted into a barrier's balance. -/
  | landing
  /-- R262: A job ends, with or without error, releasing later jobs' edges and signalling its completion. -/
  | jobCompletion
  /-- R44: A group ends once its last split has exited and its matrix operations have ended. -/
  | groupEnd
  /-- R44: A team ends once its groups and engine jobs are done, releasing its storage. -/
  | teamEnd
  /-- R276: The distributor reads and checks a queued launch record and sends team entries. -/
  | launchRecordRead
  /-- R277: A candidate team whose needs can all be met is admitted onto a core. -/
  | admission
  /-- R279: A candidate that has not fitted for 4,096 reference cycles takes the core's reservation. -/
  | reservation
  /-- R280: A reservation standing 4,096 further cycles sends pre-emption requests to lower-priority blocked teams. -/
  | reservationPreemption
  /-- R365: Every 256 reference cycles a non-fitting woken team repeats its pre-emption requests. -/
  | preemptionRequestRepeat
  /-- R281: After 4,096 cycles without the whole concurrent grid held, every holding becomes a reservation. -/
  | concurrentHoldTimeout
  /-- R282: A cluster idle for 1,024 reference cycles sends a steal request. -/
  | idleCluster
  /-- R282: After a full round of empty answers, the idle cluster asks again 4,096 cycles later. -/
  | stealBackoff
  /-- R289: A team holding a request at a blocking point is saved to a save area and leaves its core. -/
  | eviction
  /-- R366: A request not met within PREEMPT_WIN posts one pre-emption-overdue event. -/
  | preemptionOverdue
  /-- R291: An evicted team whose wake condition holds is placed, restored and applies held landings. -/
  | reAdmission
  /-- R372: The distributor abandons an idempotent team that finds no save run and restarts it from ENTRY. -/
  | abandonment
  /-- R293: A team blocked for 2^24 reference cycles starts a probe automatically. -/
  | waitCycleProbeStart
  /-- R302: A draining key's INFLIGHT reaches 0; the entry frees and a key-drained event is posted. -/
  | keyDrained
  /-- R298: Every 64 fabric cycles the route selector samples queue loads. -/
  | loadSample
  /-- R381: A port whose peer sends nothing for 10,000 reference cycles goes down. -/
  | linkSilenceTimeout
  /-- R307: A lane without a flit for 100,000 reference cycles goes dark. -/
  | laneDarkTimeout
  /-- R307: The transmit scheduler wakes a further lane for each 64 KiB queued. -/
  | laneWake
  /-- R383: A lane not lit 3,000 cycles after its wake is marked failed. -/
  | laneWakeFailure
  /-- R388: A regulator out of band for 10 reference cycles stops compute or halves the fabric rail, losing teams. -/
  | regulatorFailure
  /-- R311: Drain detection on a changing port's packet counts ends and the port moves to laser off. -/
  | portDrained
  /-- R311: All lanes of a changing port are dark; the port becomes ready and a port-ready event is posted. -/
  | laserOff
  /-- R311: All lanes of a retargeted port are lit and link training starts. -/
  | laserWake
  /-- R324: A maintenance slot starts; DRAM accesses wait and housekeeping runs. -/
  | slotStart
  /-- R324: A slot ends, or is extended for a late housekeeping step. -/
  | slotEnd
  /-- R392: A non-refresh step 1,600 cycles past the slot end is abandoned and retried at the next major slot. -/
  | housekeepingStepAbandon
  /-- R326: 50 reference cycles before a slot the endpoint pauses its peers and holds transmissions. -/
  | linkPauseStart
  /-- R326: 50 reference cycles after a slot the pause lifts. -/
  | linkPauseEnd
  /-- R325: The beacon root sends a beacon 1,000 reference cycles before each slot. -/
  | beacon
  /-- R374: Every 2,000 reference cycles outside slots a slice scrubs one DRAM line. -/
  | scrub
  /-- R100: Every 4,096 reference cycles the slice decrements every nonzero grit. -/
  | gritDecay
  /-- R321: Every 10,000 reference cycles each cluster writes its stall ratio and the governor may step. -/
  | stallSample
  /-- R322: A voltage island idle for 256 lane cycles is clock-gated. -/
  | islandGating
  /-- R320: Every 1,000 reference cycles a changing cluster's voltage moves 10 mV. -/
  | voltageStep
  /-- R320: Every 32 reference cycles a clock ramp moves one of 8 frequency steps. -/
  | clockRampStep
  /-- R320: A change ends, BUSY clears and a lowering's units are released. -/
  | operatingPointChangeComplete
  /-- R320: When B falls below RSV the region selects clusters to lower one point each. -/
  | regionLowering
  /-- R391: Every 1,250 reference cycles ballast falls by 1/16 until it ends. -/
  | ballastDecay
  /-- R391: When PWR_DEBT reaches 0 a cap event of cause 4 is posted. -/
  | debtCleared
  /-- R389: A cap lease runs out and CAPSH falls to the safe cap where lower. -/
  | leaseExpiry
  /-- R330: Writing active to a link's LINK_ROLE sets the other link to standby. -/
  | linkRoleActive
  /-- R330: Writing standby to a link's LINK_ROLE, ignored on the active link while the other is standby. -/
  | linkRoleStandby
  /-- R330: Writing shared to either link sets both links to shared. -/
  | linkRoleShared
  /-- R222: A memory access that a group issued earlier reaches its L1, home slice or target storage: a store, write-back or reduction is performed there, or a load or atomic result returns and is written. -/
  | accessPerformed
  deriving DecidableEq, Repr

end Sys2Proof
end

