-- ==== Sys2Proof/WellFormed.lean ====
section
/-! DEFINITION. The encodings that are instructions: every static condition of R138 on the fields of a control or lane instruction. -/

namespace Sys2Proof

/-- How an instruction uses one register field (R130, R135, R138): not at all (it must be 0), as one register, as a register or an .f64 pair, as an even register, as a run aligned on 8, as a mask, as a tile. -/
inductive FieldUse where
  | zero
  | reg
  | pairF64
  | even
  | run8
  | mask
  | tile
  deriving DecidableEq, Repr

/-- The lane modifiers a field accepts (R52, R239). -/
inductive ModUse where
  | none
  | any
  | first
  deriving DecidableEq, Repr

/-- The rounding field an instruction accepts (R135): none, all four modes, `.rne` and `.rz`. -/
inductive RndUse where
  | no
  | all
  | two
  deriving DecidableEq, Repr

/-- What the fields of a lane instruction must satisfy. -/
structure LaneForm where
  d : FieldUse := .reg
  a : FieldUse := .reg
  b : FieldUse := .zero
  c : FieldUse := .zero
  moda : ModUse := .any
  modb : ModUse := .none
  modc : ModUse := .none
  noMask : Bool := false
  rnd : RndUse := .no
  fmts : List Nat := [0]
  ext : Nat := 0

namespace LaneForm

/-- A field's value under a fmt (R130, R135, R138). -/
def field (u : FieldUse) (fmt v : Nat) : Bool :=
  match u with
  | .zero => v = 0
  | .reg => true
  | .pairF64 => fmt ≠ 4 || v % 2 = 0
  | .even => v % 2 = 0
  | .run8 => v % 8 = 0
  | .mask => v < 16
  | .tile => v < 128

/-- A modifier field (R52): mode 0 with lane 0, mode 1 with any lane, mode 2 with lane 0. -/
def modifier (u : ModUse) (m : Nat) : Bool :=
  match u with
  | .none => m = 0
  | .first => m = 0 || m = 64
  | .any => m = 0 || (32 ≤ m && m ≤ 64)

/-- A rounding field (R135). -/
def round (u : RndUse) (r : Nat) : Bool :=
  match u with
  | .no => r = 0
  | .all => r ≤ 3
  | .two => r ≤ 1

/-- Every field of a register-form instruction against its form; `ext` holds the largest value of the extension field. -/
def ok (F : LaneForm) (f : LaneOp) : Bool :=
  let fmt := f.fmt.toNat
  field F.d fmt f.d.toNat && field F.a fmt f.a.toNat && field F.b fmt f.b.toNat
  && field F.c fmt f.c.toNat
  && modifier F.moda f.moda.toNat && modifier F.modb f.modb.toNat && modifier F.modc f.modc.toNat
  && (!F.noMask || f.mask.toNat = 0) && round F.rnd f.rnd.toNat && F.fmts.contains fmt
  && f.ext.toNat ≤ F.ext

/-- Every field of an immediate-form instruction against its form (R136): modb and modc are 0 and the immediate stands for b, c and ext[19:4]. -/
def okImm (F : LaneForm) (f : LaneImm) : Bool :=
  let fmt := f.fmt.toNat
  field F.d fmt f.d.toNat && field F.a fmt f.a.toNat
  && modifier F.moda f.moda.toNat && f.modb.toNat = 0 && f.modc.toNat = 0
  && (!F.noMask || f.mask.toNat = 0) && round F.rnd f.rnd.toNat && F.fmts.contains fmt
  && f.ext.toNat ≤ F.ext

end LaneForm

namespace WF

/-- One source (R135). -/
def unary (fmts : List Nat) (ext : Nat := 0) (rnd : RndUse := .no) : LaneForm :=
  { d := .pairF64, a := .pairF64, fmts, ext, rnd }
/-- Two sources. -/
def binary (fmts : List Nat) (ext : Nat := 0) (rnd : RndUse := .no) : LaneForm :=
  { d := .pairF64, a := .pairF64, b := .pairF64, modb := .any, fmts, ext, rnd }
/-- Three sources. -/
def ternary (fmts : List Nat) (rnd : RndUse := .no) : LaneForm :=
  { d := .pairF64, a := .pairF64, b := .pairF64, c := .pairF64, modb := .any, modc := .any, fmts, rnd }
/-- A compare into a mask (R197, R198). -/
def compare (fmts : List Nat) (ext : Nat) : LaneForm :=
  { d := .mask, a := .pairF64, b := .pairF64, modb := .any, fmts, ext }
/-- Mask logic (R200). -/
def masks (b : FieldUse) : LaneForm := { d := .mask, a := .mask, b, moda := .none }

/-- fmt values of loads and stores (R223). -/
def memFmts : List Nat := [0, 1, 2, 3, 4, 6, 7, 8, 9, 10, 11, 13]

/-- A SIZE other than 0 needs fmt none, .i32 or .n32, and 3 is unassigned (R223). -/
def size (fmt ext : Nat) : Bool := ext ≤ 2 && (ext = 0 || fmt ≤ 2)

/-- Loads, and stores in register form (R223, R224); `a` is even for a virtual address (R219). -/
def load (virt : Bool) (f : LaneOp) : Bool :=
  LaneForm.ok { d := .pairF64, a := if virt then .even else .reg, b := .reg, modb := .any, fmts := memFmts, ext := 2 } f
  && size f.fmt.toNat f.ext.toNat
def store (virt : Bool) (f : LaneOp) : Bool :=
  LaneForm.ok { d := .zero, a := if virt then .even else .reg, b := .reg, c := .pairF64, modb := .any, modc := .any, fmts := memFmts, ext := 2 } f
  && size f.fmt.toNat f.ext.toNat
/-- Loads and stores in immediate form: a store's data register stands in d (R136). -/
def memImm (virt : Bool) (f : LaneImm) : Bool :=
  LaneForm.okImm { d := .pairF64, a := if virt then .even else .reg, fmts := memFmts, ext := 2 } f
  && size f.fmt.toNat f.ext.toNat

/-- `ldm` and `stm` (R227): n − 1 in ext[4:0], SPACE in ext[8], everything else 0; under .f64 the count is even, and a virtual address names an even a. -/
def spill (isLoad : Bool) (f : LaneOp) : Bool :=
  let e := f.ext.toNat
  LaneForm.ok { d := if isLoad then .pairF64 else .zero, a := if e / 256 = 0 then .even else .reg, b := .reg, c := if isLoad then .zero else .pairF64, modb := .any, modc := if isLoad then .none else .any, fmts := memFmts, ext := 0x11F } f
  && e / 32 % 8 = 0 && (f.fmt.toNat ≠ 4 || e % 2 = 1)

/-- An atomic's OP against its fmt (R229). -/
def atomOp (op fmt : Nat) : Bool :=
  match op with
  | 0 => fmt = 1 || fmt = 2 || fmt = 3
  | 1 => fmt = 1 || fmt = 2 || fmt = 3
  | 2 => fmt = 1 || fmt = 2 || fmt = 3
  | 3 => fmt ≤ 2
  | 4 => fmt ≤ 2
  | 5 => fmt ≤ 2
  | 6 => fmt ≤ 3
  | 7 => fmt ≤ 3
  | _ => false

/-- `atom`, `ared` and `atoms` (R229, R232, R233). -/
def atomics (d : FieldUse) (a : FieldUse) (maxOp maxExt : Nat) (f : LaneOp) : Bool :=
  let e := f.ext.toNat
  LaneForm.ok { d, a, b := .reg, c := .reg, modb := .any, fmts := [0, 1, 2, 3], ext := maxExt } f
  && e % 16 ≤ maxOp && atomOp (e % 16) f.fmt.toNat && e / 16 % 4 ≠ 3

/-- The number of blocks of a format pairing of R75, 0 where it lists none. -/
def blocks (scaled : Bool) (A B : Nat) : Nat :=
  if scaled then
    (if (A = 8 ∨ A = 9 ∨ A = 12) ∧ (B = 8 ∨ B = 9 ∨ B = 12) then (if A = 8 ∨ B = 8 then 12 else 24) else 0)
  else if A = B ∧ (A = 3 ∨ A = 4 ∨ A = 6 ∨ A = 7) then 6
  else if (A = 10 ∨ A = 11) ∧ (B = 10 ∨ B = 11) then 12
  else 0

/-- `mma` and `mmas` (R234): a pairing of R75, kofs and kofsb inside R79's limits, BS only with a cb4 panel; an i32 tile takes only `.rne`. -/
def matrix (scaled : Bool) (f : LaneOp) : Bool :=
  let e := f.ext.toNat
  let bf := e / 2 % 16
  let n := blocks scaled f.fmt.toNat bf
  LaneForm.ok { d := .tile, a := .run8, b := .reg, c := if scaled then .even else .zero, moda := .none, modb := .any, noMask := true, rnd := if f.fmt.toNat = 10 ∨ f.fmt.toNat = 11 then .no else .two, fmts := [3, 4, 6, 7, 8, 9, 10, 11, 12], ext := if scaled then 0x3FFFF else 0xFF } f
  && n ≠ 0 && (e / 32 % 8 = 0 || bf = 12) && e / 256 % 32 + n ≤ 32 && e / 8192 % 32 + n ≤ 24

/-- An accumulator instruction (R239): no mask, and the modifiers given. -/
def accum (F : LaneForm) : LaneForm := { F with d := .tile, noMask := true }

/-- `accld` and `accst` (R241): SPACE in ext[2], K in ext[1:0] of `accld`. -/
def accMem (k : Nat) (f : LaneOp) : Bool :=
  let e := f.ext.toNat
  LaneForm.ok (accum { a := if e / 4 = 0 then .even else .reg, b := .reg, moda := .first, modb := .first, ext := 7 }) f
  && e % 4 ≤ k

/-- `lscan` and `lred` (R206): an operation of its fmt column, and rounding only for the f32 sum. -/
def scan (f : LaneOp) : Bool :=
  let op := f.ext.toNat
  LaneForm.ok { fmts := [1, 2, 3], ext := 5, rnd := .all } f
  && (f.fmt.toNat ≠ 3 || op ≤ 2) && (f.rnd.toNat = 0 || (f.fmt.toNat = 3 && op = 0))

/-- A source of a control word's condition field that must be a condition of R131. -/
def cond (c : BitVec 4) : Bool := c.toNat ≤ 10

/-- An ordering sub field (R133). -/
def ordering (sub : BitVec 4) : Bool := sub.toNat / 4 ≠ 3

/-- `barrive` and `bexpect` (R133): kind none needs scope 0; otherwise b names a run of three. R133 names no fault for a b above 253: it is an illegal encoding (log 20, a choice of the model). -/
def arrive (sub : BitVec 4) (b : BitVec 8) : Bool :=
  ordering sub && (if sub.toNat % 4 = 0 then sub.toNat = 0 else b.toNat ≤ 253)

/-- An engine command's completion and variant (R134): variants above `maxVar` are unassigned, and a yield completion leaves b 0. -/
def engine (b : BitVec 8) (compl : BitVec 2) (var : BitVec 3) (maxVar : Nat) : Bool :=
  var.toNat ≤ maxVar && (compl.toNat ≠ 3 || b.toNat = 0)

/-- A run of `rgn` that is absent has index 0 (R130). -/
def run (present : Bool) (r : BitVec 5) : Bool := present || r.toNat = 0

end WF

open WF LaneForm in
/-- The static conditions of R138; a device step has none. -/
def Instr.wf : Instr → Bool
  | .b _ _ => true
  | .bc _ c _ => cond c
  | .bmz _ _ _ => true
  | .bma _ _ _ => true
  | .call _ d _ => d.toNat % 2 = 0
  | .ret _ a => a.toNat % 2 = 0
  | .loop _ _ imm => imm.toNat ≠ 0
  | .split _ _ _ => true
  | .lrun _ count off => off.toNat + count.toNat + 1 ≤ 131072
  | .yld _ _ => true
  | .nop _ => true
  | .exit _ => true
  | .merge _ => true
  | .lbrk _ => true
  | .eret _ => true
  | .mmafence _ => true
  | .uadd _ _ _ _ _ => true
  | .usub _ _ _ _ _ => true
  | .umul _ _ _ _ _ => true
  | .umulh _ _ _ _ _ => true
  | .umad _ _ _ _ _ => true
  | .ushl _ _ _ _ _ => true
  | .ushr _ _ _ _ _ => true
  | .usra _ _ _ _ _ => true
  | .uand _ _ _ _ _ => true
  | .uor _ _ _ _ _ => true
  | .uxor _ _ _ _ _ => true
  | .umin _ _ _ _ _ => true
  | .umax _ _ _ _ _ => true
  | .ucmp _ _ _ _ => true
  | .umov _ _ _ _ => true
  | .uaff _ _ _ _ _ => true
  | .usel _ c _ _ _ => cond c
  | .ulim _ _ _ => true
  | .ulih _ _ _ => true
  | .sget _ _ _ => true
  | .sput _ _ _ => true
  | .rgn _ r0 r1 r2 r3 pr => run (pr.getLsbD 0) r0 && run (pr.getLsbD 1) r1 && run (pr.getLsbD 2) r2 && run (pr.getLsbD 3) r3
  | .trap _ _ => true
  | .slotq _ _ => true
  | .opreq _ _ _ => true
  | .spawn _ _ _ _ _ => true
  | .fence _ o _ _ => ordering o && o.toNat % 4 ≠ 0
  | .waitBar _ _ _ => true
  | .waitBatch _ _ => true
  | .waitTok _ _ => true
  | .binit _ _ _ _ => true
  | .barrive _ o _ r => arrive o r
  | .bexpect _ o _ r => arrive o r
  | .gbar _ _ => true
  | .drain _ _ r => r.toNat % 2 = 0
  | .gang _ _ _ _ => true
  | .cbld _ _ _ => true
  | .siltThr _ _ _ _ => true
  | .siltClr _ _ => true
  | .widepool _ _ => true
  | .cpy _ _ r c v => engine r c v 3
  | .gth _ _ r c v => engine r c v 3
  | .sct _ _ r c v => engine r c v 3
  | .nput _ _ r c v => engine r c v 3
  | .nget _ _ r c v => engine r c v 1
  | .natom _ _ r c v => engine r c v 1
  | .coll _ _ r c v => engine r c v 0
  | .nswap _ _ r c v => engine r c v 0 && c.toNat ≤ 1
  | .l1ways _ r c v => engine r c v 1
  | .add f => ok (binary [1, 2, 10, 11] 1) f
  | .addImmediate f => okImm (binary [1, 2, 10, 11] 1) f
  | .sub f => ok (binary [1, 2, 10, 11] 1) f
  | .subImmediate f => okImm (binary [1, 2, 10, 11] 1) f
  | .mul f => ok (binary [1, 2]) f
  | .mulImmediate f => okImm (binary [1, 2]) f
  | .mulhi f => ok (binary [1, 2]) f
  | .mad f => ok (ternary [1, 2]) f
  | .minL f => ok (binary [1, 2, 10, 11]) f
  | .minImmediate f => okImm (binary [1, 2, 10, 11]) f
  | .maxL f => ok (binary [1, 2, 10, 11]) f
  | .maxImmediate f => okImm (binary [1, 2, 10, 11]) f
  | .absL f => ok (unary [1, 10] 1) f
  | .neg f => ok (unary [1, 10] 1) f
  | .andL f => ok (binary [0]) f
  | .andImmediate f => okImm (binary [0]) f
  | .orL f => ok (binary [0]) f
  | .orImmediate f => okImm (binary [0]) f
  | .xor f => ok (binary [0]) f
  | .xorImmediate f => okImm (binary [0]) f
  | .notL f => ok (unary [0]) f
  | .shl f => ok (binary [0]) f
  | .shlImmediate f => okImm (binary [0]) f && f.imm.toNat < 32
  | .shr f => ok (binary [0]) f
  | .shrImmediate f => okImm (binary [0]) f && f.imm.toNat < 32
  | .sra f => ok (binary [0]) f
  | .sraImmediate f => okImm (binary [0]) f && f.imm.toNat < 32
  | .rot f => ok (binary [0]) f
  | .rotImmediate f => okImm (binary [0]) f && f.imm.toNat < 32
  | .popc f => ok (unary [0]) f
  | .clz f => ok (unary [0]) f
  | .brev f => ok (unary [0]) f
  | .bfe f => ok (ternary [1, 2]) f
  | .bfi f => ok (ternary [1, 2]) f
  | .cmp f => ok (compare [1, 2] 10) f
  | .cmpImmediate f => okImm (compare [1, 2] 10) f
  | .sel f => ok { d := .pairF64, a := .pairF64, b := .pairF64, c := .mask, modb := .any, fmts := [0, 4] } f
  | .mand f => ok (masks .mask) f
  | .mor f => ok (masks .mask) f
  | .mxor f => ok (masks .mask) f
  | .mnot f => ok (masks .zero) f
  | .ballot f => ok { d := .mask, moda := .none } f
  | .mcount f => ok { a := .mask, moda := .none } f
  | .mprefix f => ok { a := .mask, moda := .none } f
  | .shfl f => ok (binary [0]) f
  | .shup f => ok (unary [0] 31) f
  | .shdn f => ok (unary [0] 31) f
  | .shxor f => ok (unary [0] 31) f
  | .shcat f => ok (binary [0] 128) f
  | .prm f => ok (ternary [0]) f
  | .lut16 f => ok (binary [0] 1) f
  | .lscan f => scan f
  | .lred f => scan f
  | .fadd f => ok (binary [3, 4, 6, 7] 0 .all) f
  | .faddImmediate f => okImm (binary [3, 6, 7] 0 .all) f
  | .fsub f => ok (binary [3, 4, 6, 7] 0 .all) f
  | .fsubImmediate f => okImm (binary [3, 6, 7] 0 .all) f
  | .fmul f => ok (binary [3, 4, 6, 7] 0 .all) f
  | .fmulImmediate f => okImm (binary [3, 6, 7] 0 .all) f
  | .fma f => ok (ternary [3, 4, 6, 7] .all) f
  | .fmin f => ok (binary [3, 4, 6, 7]) f
  | .fminImmediate f => okImm (binary [3, 6, 7]) f
  | .fmax f => ok (binary [3, 4, 6, 7]) f
  | .fmaxImmediate f => okImm (binary [3, 6, 7]) f
  | .fabs f => ok (unary [3, 4, 6, 7]) f
  | .fneg f => ok (unary [3, 4, 6, 7]) f
  | .frcp f => ok (unary [3]) f
  | .frsq f => ok (unary [3]) f
  | .fsqrt f => ok (unary [3, 4] 0 .all) f
  | .fdiv f => ok (binary [3, 4] 0 .all) f
  | .fexp2 f => ok (unary [3]) f
  | .flog2 f => ok (unary [3]) f
  | .fsin f => ok (unary [3]) f
  | .fcos f => ok (unary [3]) f
  | .fcmp f => ok (compare [3, 4] 7) f
  | .fcmpImmediate f => okImm (compare [3] 7) f
  | .fcls f => ok { d := .mask, a := .pairF64, fmts := [3, 4], ext := 0x1FF } f
  | .frnd f => ok (unary [3, 4, 6, 7] 0 .all) f
  | .fscale f => ok { d := .pairF64, a := .pairF64, b := .reg, modb := .any, fmts := [3, 4, 6, 7], rnd := .all } f
  | .cvt f => ok { d := .pairF64, a := .pairF64, fmts := [1, 2, 3, 4], rnd := .all } f
  | .pack f => ok { b := .reg, modb := .any, fmts := [6, 7, 8, 9, 10, 11], rnd := .all, ext := 1 } f
      && (if f.fmt.toNat < 10 then f.ext.toNat = 0 else f.rnd.toNat = 0)
  | .unpack f => ok { fmts := [1, 2, 3, 7, 8], ext := 3 } f
      && (f.ext.toNat ≤ 1 || (f.fmt.toNat ≠ 7 && f.fmt.toNat ≠ 8))
  | .cbdec f => ok { fmts := [6], ext := 3 } f
  | .tag f => ok { d := .pairF64, a := .zero, moda := .none, fmts := [0, 1, 2, 3, 4, 6, 7, 8, 9, 10, 11, 12, 13], ext := 7 } f
  | .tget f => ok { moda := .none } f
  | .mov f => ok (unary [0, 4]) f
  | .movImmediate f => okImm { a := .zero, moda := .none, fmts := [0, 1, 2, 3, 6, 7, 8, 9, 10, 11, 13] } f
  | .ld f => load true f
  | .ldImmediate f => memImm true f
  | .st f => store true f
  | .stImmediate f => memImm true f
  | .lds f => load false f
  | .ldsImmediate f => memImm false f
  | .sts f => store false f
  | .stsImmediate f => memImm false f
  | .ldm f => spill true f
  | .stm f => spill false f
  | .prf f => ok { d := .zero, a := .even, b := .reg, modb := .any, ext := 1 } f
  | .prfImmediate f => okImm { d := .zero, a := .even, ext := 1 } f
  | .atom f => atomics .reg .even 7 0xFF f
  | .ared f => atomics .zero .even 5 0xFF f
  | .atoms f => atomics .reg .reg 7 15 f
  | .mma f => matrix false f
  | .mmas f => matrix true f
  | .accz f => ok (accum { a := .zero, moda := .none, fmts := [1, 3, 4] }) f
  | .accld f => accMem 3 f
  | .accst f => accMem 0 f
  | .acccvt f => ok (accum { a := .run8, c := .reg, moda := .none, fmts := [1, 3, 4, 6, 7, 8, 10, 11], rnd := .all }) f
  | .accput f => ok (accum { a := .run8, c := .reg, moda := .none, fmts := [1, 3, 4] }) f
  | .siltGet f => ok { a := .zero, c := .tile, moda := .none, noMask := true, ext := 1 } f
  | .tlbWalk _ _ => true
  | .leaseRecall _ _ => true
  | .collectiveFold _ _ _ _ => true
  | .teamEntry _ _ => true
  | .stealRequest _ _ _ => true
  | .stealAnswer _ _ _ => true
  | .probeMessage _ => true
  | .put _ => true
  | .getRequest _ => true
  | .getData _ => true
  | .atomic _ => true
  | .atomicResult _ => true
  | .collectiveChunk _ => true
  | .semanticNack _ => true
  | .acknowledgement _ _ => true
  | .unassignedOperation _ => true
  | .linkLevelPause _ _ => true
  | .retransmissionTimeout _ _ _ => true
  | .llrReplay _ _ => true
  | .laneLit _ _ => true
  | .linkControlFlit _ _ => true
  | .stitchedLinkFailure _ _ _ => true
  | .linkTraining _ _ => true
  | .topologyStepTimeout _ _ => true
  | .beaconArrival _ _ => true
  | .softErrorCorrection _ _ => true
  | .uncorrectableError _ => true
  | .loanRequest _ _ => true
  | .loanRecall _ _ => true
  | .capMsg _ _ => true
  | .capShareUpdate _ _ => true
  | .clOpWrite _ _ _ => true
  | .routeTableEntryWrite _ _ _ _ => true
  | .lostLineEntryWrite _ _ _ _ => true
  | .coreWindowWrite _ _ _ => true
  | .registerWrite _ _ => true
  | .partitionSetUp _ _ => true
  | .partitionDissolve _ _ => true
  | .regionRegister _ _ => true
  | .regionDeregister _ _ => true
  | .tlbInvalidation _ _ => true
  | .topologyChange _ _ => true
  | .retargetDone _ _ => true
  | .preemptionRequest _ _ => true
  | .preemptionWithdraw _ _ => true
  | .preemptionEnd _ _ => true
  | .preemptionRestart _ _ => true
  | .waitCycleProbe _ _ => true
  | .warmStartStage _ _ => true
  | .warmStart _ _ _ => true
  | .coldStart _ => true
  | .attestation _ _ => true
  | .waferId _ _ => true
  | .unassignedCommand _ _ => true
  | .illegalEncoding _ => true
  | .packetDeliveryNack _ _ => true
  | .broadcastBusWireFailure _ _ => true
  | .managementWindowWrite _ _ _ => true
  | .yieldExpiry => true
  | .waitConditionMet => true
  | .gangRendezvous => true
  | .matrixOperation => true
  | .parkEnd => true
  | .trapEntry => true
  | .jobForward => true
  | .segmentStart => true
  | .landing => true
  | .jobCompletion => true
  | .drainSweep => true
  | .gridBarrierArrival => true
  | .gridBarrierRelease => true
  | .groupEnd => true
  | .teamEnd => true
  | .launchRecordRead => true
  | .admission => true
  | .reservation => true
  | .reservationPreemption => true
  | .preemptionRequestRepeat => true
  | .concurrentHoldTimeout => true
  | .idleCluster => true
  | .stealBackoff => true
  | .eviction => true
  | .preemptionOverdue => true
  | .reAdmission => true
  | .abandonment => true
  | .waitCycleProbeStart => true
  | .keyDrained => true
  | .loadSample => true
  | .linkSilenceTimeout => true
  | .laneDarkTimeout => true
  | .laneWake => true
  | .laneWakeFailure => true
  | .regulatorFailure => true
  | .portDrained => true
  | .laserOff => true
  | .laserWake => true
  | .slotStart => true
  | .slotEnd => true
  | .housekeepingStepAbandon => true
  | .linkPauseStart => true
  | .linkPauseEnd => true
  | .beacon => true
  | .scrub => true
  | .gritDecay => true
  | .stallSample => true
  | .islandGating => true
  | .voltageStep => true
  | .clockRampStep => true
  | .operatingPointChangeComplete => true
  | .regionLowering => true
  | .ballastDecay => true
  | .debtCleared => true
  | .leaseExpiry => true
  | .linkRoleActive => true
  | .linkRoleStandby => true
  | .linkRoleShared => true
  | .accessPerformed => true

end Sys2Proof
end

