-- ==== Sys2Proof/Decode.lean ====
section
/-! DEFINITION. Decoding of control and lane words (R128–R138), total on every word and refusing by name, and after it the encoder written from the same layouts. -/

namespace Sys2Proof

/-- Why a word is not an instruction (R138). -/
inductive DecodeError where
  | unassignedOpcode
  | unassignedSub
  | reservedField
  | fieldValue
  deriving DecidableEq, Repr

/-- Bits [lo + n − 1 : lo] of a control word. -/
abbrev cfield (w : BitVec 32) (lo n : Nat) : BitVec n := w.extractLsb' lo n

/-- Bits [lo + n − 1 : lo] of a lane word. -/
abbrev lfield (w : BitVec 96) (lo n : Nat) : BitVec n := w.extractLsb' lo n

/-- An instruction whose unused fields are 0 (R130). -/
def unused (z : Bool) (i : Instr) : Except DecodeError Instr := if z then .ok i else .error .reservedField

/-- System sub-operations, op 0x0B (R133): a, b and x5 are 0. -/
def decodeSystem (p : Bool) (w : BitVec 32) : Except DecodeError Instr :=
  let z := cfield w 0 21 = 0
  match (cfield w 21 4).toNat with
  | 0 => unused z (.nop p)
  | 1 => unused z (.exit p)
  | 2 => unused z (.merge p)
  | 3 => unused z (.lbrk p)
  | 4 => unused z (.eret p)
  | 5 => unused z (.mmafence p)
  | _ => .error .unassignedSub

/-- Wait forms, op 0x31 (R133). -/
def decodeWait (p : Bool) (w : BitVec 32) : Except DecodeError Instr :=
  let a := cfield w 13 8
  let b := cfield w 5 8
  let z := cfield w 0 5 = 0
  match (cfield w 21 4).toNat with
  | 0 => unused z (.waitBar p a b)
  | 1 => unused (z && b = 0) (.waitBatch p a)
  | 2 => unused (z && b = 0) (.waitTok p a)
  | _ => .error .unassignedSub

/-- Engine commands, op 0x3E (R134). -/
def decodeEngine (p : Bool) (w : BitVec 32) : Except DecodeError Instr :=
  let a := cfield w 13 8
  let b := cfield w 5 8
  let c := cfield w 3 2
  let v := cfield w 0 3
  match (cfield w 21 4).toNat with
  | 0 => .ok (.cpy p a b c v)
  | 1 => .ok (.gth p a b c v)
  | 2 => .ok (.sct p a b c v)
  | 3 => .ok (.nput p a b c v)
  | 4 => .ok (.nget p a b c v)
  | 5 => .ok (.natom p a b c v)
  | 6 => .ok (.coll p a b c v)
  | 7 => .ok (.nswap p a b c v)
  | 8 => unused (a = 0) (.l1ways p b c v)
  | _ => .error .unassignedSub

/-- The instruction that the major opcode and its layout name (R129, R132), before the checks of `Instr.wf`. -/
def controlShape (w : BitVec 32) : Except DecodeError Instr :=
  let p := w.getLsbD 31
  let d := cfield w 17 8
  let a := cfield w 9 8
  let b := cfield w 1 8
  let x := w.getLsbD 0
  let cond := cfield w 21 4
  let off := cfield w 0 21
  let imm9 := cfield w 0 9
  let imm17 := cfield w 0 17
  let ma := cfield w 13 8
  let mb := cfield w 5 8
  let x5 := cfield w 0 5
  match (cfield w 25 6).toNat with
  | 0x01 => unused (cond = 0) (.b p off)
  | 0x02 => .ok (.bc p cond off)
  | 0x03 => .ok (.bmz p cond off)
  | 0x04 => .ok (.bma p cond off)
  | 0x05 => .ok (.call p d imm17)
  | 0x06 => unused (d = 0 && b = 0 && !x) (.ret p a)
  | 0x07 => unused (d = 0) (.loop p a imm9)
  | 0x08 => .ok (.split p cond off)
  | 0x09 => .ok (.lrun p d imm17)
  | 0x0A => unused (cond = 0) (.yld p off)
  | 0x0B => decodeSystem p w
  | 0x10 => .ok (.uadd p d a b x)
  | 0x11 => .ok (.usub p d a b x)
  | 0x12 => .ok (.umul p d a b x)
  | 0x13 => .ok (.umulh p d a b x)
  | 0x14 => .ok (.umad p d a b x)
  | 0x15 => .ok (.ushl p d a b x)
  | 0x16 => .ok (.ushr p d a b x)
  | 0x17 => .ok (.usra p d a b x)
  | 0x18 => .ok (.uand p d a b x)
  | 0x19 => .ok (.uor p d a b x)
  | 0x1A => .ok (.uxor p d a b x)
  | 0x1B => .ok (.umin p d a b x)
  | 0x1C => .ok (.umax p d a b x)
  | 0x1D => unused (d = 0) (.ucmp p a b x)
  | 0x1E => unused (a = 0) (.umov p d b x)
  | 0x1F => .ok (.uaff p d a b x)
  | 0x20 => unused (cfield w 1 4 = 0) (.usel p cond ma mb x)
  | 0x21 => .ok (.ulim p d imm17)
  | 0x22 => unused (!w.getLsbD 16) (.ulih p d (cfield w 0 16))
  | 0x28 => unused (a = 0) (.sget p d imm9)
  | 0x29 => unused (d = 0) (.sput p a imm9)
  | 0x2A => unused (!x) (.rgn p (cfield w 20 5) (cfield w 15 5) (cfield w 10 5) (cfield w 5 5) (cfield w 1 4))
  | 0x2B => unused (d = 0 && a = 0) (.trap p imm9)
  | 0x2C => unused (a = 0 && imm9 = 0) (.slotq p d)
  | 0x2D => unused (b = 0 && !x) (.opreq p d a)
  | 0x2E => .ok (.spawn p d a b x)
  | 0x30 => unused (x5 = 0) (.fence p cond ma mb)
  | 0x31 => decodeWait p w
  | 0x32 => unused (d = 0) (.binit p a b x)
  | 0x33 => unused (x5 = 0) (.barrive p cond ma mb)
  | 0x34 => unused (x5 = 0) (.bexpect p cond ma mb)
  | 0x35 => unused (d = 0 && b = 0 && !x) (.gbar p a)
  | 0x36 => unused (d = 0 && !x) (.drain p a b)
  | 0x38 => unused (d = 0) (.gang p a b x)
  | 0x39 => unused (cfield w 20 5 = 0 && b = 0 && !x) (.cbld p (cfield w 17 3) a)
  | 0x3A => unused (!w.getLsbD 24 && a = 0) (.siltThr p (cfield w 17 7) b x)
  | 0x3B => unused (!w.getLsbD 24 && a = 0 && imm9 = 0) (.siltClr p (cfield w 17 7))
  | 0x3C => unused (a = 0 && imm9 = 0) (.widepool p d)
  | 0x3E => decodeEngine p w
  | _ => .error .unassignedOpcode

/-- An instruction that keeps its field limits (R138). -/
def checked (r : Except DecodeError Instr) : Except DecodeError Instr :=
  match r with
  | .ok i => if i.wf then .ok i else .error .fieldValue
  | .error e => .error e

/-- The control instruction of a word, or why it is none (R129–R134, R138). -/
def decodeControl (w : BitVec 32) : Except DecodeError Instr := checked (controlShape w)

/-- The register-form lane instruction of an opcode (R137). -/
def laneRegister (op : Nat) (f : LaneOp) : Option Instr :=
  match op with
  | 0x000 => some (.add f)
  | 0x001 => some (.sub f)
  | 0x002 => some (.mul f)
  | 0x003 => some (.mulhi f)
  | 0x004 => some (.mad f)
  | 0x005 => some (.minL f)
  | 0x006 => some (.maxL f)
  | 0x007 => some (.absL f)
  | 0x008 => some (.neg f)
  | 0x009 => some (.andL f)
  | 0x00A => some (.orL f)
  | 0x00B => some (.xor f)
  | 0x00C => some (.notL f)
  | 0x00D => some (.shl f)
  | 0x00E => some (.shr f)
  | 0x00F => some (.sra f)
  | 0x010 => some (.rot f)
  | 0x011 => some (.popc f)
  | 0x012 => some (.clz f)
  | 0x013 => some (.brev f)
  | 0x014 => some (.bfe f)
  | 0x015 => some (.bfi f)
  | 0x020 => some (.cmp f)
  | 0x021 => some (.sel f)
  | 0x022 => some (.mand f)
  | 0x023 => some (.mor f)
  | 0x024 => some (.mxor f)
  | 0x025 => some (.mnot f)
  | 0x026 => some (.ballot f)
  | 0x027 => some (.mcount f)
  | 0x028 => some (.mprefix f)
  | 0x030 => some (.shfl f)
  | 0x031 => some (.shup f)
  | 0x032 => some (.shdn f)
  | 0x033 => some (.shxor f)
  | 0x034 => some (.shcat f)
  | 0x035 => some (.prm f)
  | 0x036 => some (.lut16 f)
  | 0x037 => some (.lscan f)
  | 0x038 => some (.lred f)
  | 0x040 => some (.fadd f)
  | 0x041 => some (.fsub f)
  | 0x042 => some (.fmul f)
  | 0x043 => some (.fma f)
  | 0x044 => some (.fmin f)
  | 0x045 => some (.fmax f)
  | 0x046 => some (.fabs f)
  | 0x047 => some (.fneg f)
  | 0x048 => some (.frcp f)
  | 0x049 => some (.frsq f)
  | 0x04A => some (.fsqrt f)
  | 0x04B => some (.fdiv f)
  | 0x04C => some (.fexp2 f)
  | 0x04D => some (.flog2 f)
  | 0x04E => some (.fsin f)
  | 0x04F => some (.fcos f)
  | 0x050 => some (.fcmp f)
  | 0x051 => some (.fcls f)
  | 0x052 => some (.frnd f)
  | 0x053 => some (.fscale f)
  | 0x060 => some (.cvt f)
  | 0x061 => some (.pack f)
  | 0x062 => some (.unpack f)
  | 0x063 => some (.cbdec f)
  | 0x064 => some (.tag f)
  | 0x065 => some (.tget f)
  | 0x066 => some (.mov f)
  | 0x080 => some (.ld f)
  | 0x081 => some (.st f)
  | 0x082 => some (.lds f)
  | 0x083 => some (.sts f)
  | 0x084 => some (.ldm f)
  | 0x085 => some (.stm f)
  | 0x086 => some (.prf f)
  | 0x090 => some (.atom f)
  | 0x091 => some (.ared f)
  | 0x092 => some (.atoms f)
  | 0x0A0 => some (.mma f)
  | 0x0A1 => some (.mmas f)
  | 0x0A2 => some (.accz f)
  | 0x0A3 => some (.accld f)
  | 0x0A4 => some (.accst f)
  | 0x0A5 => some (.acccvt f)
  | 0x0A6 => some (.accput f)
  | 0x0A7 => some (.siltGet f)
  | _ => none

/-- The immediate-form lane instruction of an opcode (R136). -/
def laneImmediate (op : Nat) (f : LaneImm) : Option Instr :=
  match op with
  | 0x200 => some (.addImmediate f)
  | 0x201 => some (.subImmediate f)
  | 0x202 => some (.mulImmediate f)
  | 0x205 => some (.minImmediate f)
  | 0x206 => some (.maxImmediate f)
  | 0x209 => some (.andImmediate f)
  | 0x20A => some (.orImmediate f)
  | 0x20B => some (.xorImmediate f)
  | 0x20D => some (.shlImmediate f)
  | 0x20E => some (.shrImmediate f)
  | 0x20F => some (.sraImmediate f)
  | 0x210 => some (.rotImmediate f)
  | 0x220 => some (.cmpImmediate f)
  | 0x240 => some (.faddImmediate f)
  | 0x241 => some (.fsubImmediate f)
  | 0x242 => some (.fmulImmediate f)
  | 0x244 => some (.fminImmediate f)
  | 0x245 => some (.fmaxImmediate f)
  | 0x250 => some (.fcmpImmediate f)
  | 0x266 => some (.movImmediate f)
  | 0x280 => some (.ldImmediate f)
  | 0x281 => some (.stImmediate f)
  | 0x282 => some (.ldsImmediate f)
  | 0x283 => some (.stsImmediate f)
  | 0x286 => some (.prfImmediate f)
  | _ => none

/-- The fields of a lane word in register form (R135). -/
def laneOp (w : BitVec 96) : LaneOp :=
  { p := w.getLsbD 95, d := lfield w 77 8, a := lfield w 69 8, b := lfield w 61 8, c := lfield w 53 8, mask := lfield w 49 4, moda := lfield w 42 7, modb := lfield w 35 7, modc := lfield w 28 7, rnd := lfield w 25 3, fmt := lfield w 20 5, ext := lfield w 0 20 }

/-- The fields of a lane word in immediate form (R136). -/
def laneImm (w : BitVec 96) : LaneImm :=
  { p := w.getLsbD 95, d := lfield w 77 8, a := lfield w 69 8, mask := lfield w 49 4, moda := lfield w 42 7, modb := lfield w 35 7, modc := lfield w 28 7, rnd := lfield w 25 3, fmt := lfield w 20 5, imm := lfield w 53 16 ++ lfield w 4 16, ext := lfield w 0 4 }

/-- The lane instruction that the opcode names, before the checks of `Instr.wf`. -/
def laneShape (w : BitVec 96) : Except DecodeError Instr :=
  let op := (lfield w 85 10).toNat
  match (if op < 0x200 then laneRegister op (laneOp w) else laneImmediate op (laneImm w)) with
  | some i => .ok i
  | none => .error .unassignedOpcode

/-- The lane instruction of a word, or why it is none (R135–R138). -/
def decodeLane (w : BitVec 96) : Except DecodeError Instr := checked (laneShape w)

/-! ### The encoder -/

/-- Layout CR (R129). -/
def encCR (p : Bool) (op : BitVec 6) (d a b : BitVec 8) (x : Bool) : BitVec 32 :=
  BitVec.ofBool p ++ op ++ d ++ a ++ b ++ BitVec.ofBool x
/-- Layout CI (R129). -/
def encCI (p : Bool) (op : BitVec 6) (d a : BitVec 8) (imm : BitVec 9) : BitVec 32 :=
  BitVec.ofBool p ++ op ++ d ++ a ++ imm
/-- Layouts CW and CL (R129). -/
def encCW (p : Bool) (op : BitVec 6) (d : BitVec 8) (imm : BitVec 17) : BitVec 32 :=
  BitVec.ofBool p ++ op ++ d ++ imm
/-- Layout CJ (R129). -/
def encCJ (p : Bool) (op : BitVec 6) (cond : BitVec 4) (off : BitVec 21) : BitVec 32 :=
  BitVec.ofBool p ++ op ++ cond ++ off
/-- Layout CM (R129). -/
def encCM (p : Bool) (op : BitVec 6) (sub : BitVec 4) (a b : BitVec 8) (x5 : BitVec 5) : BitVec 32 :=
  BitVec.ofBool p ++ op ++ sub ++ a ++ b ++ x5
/-- Layout CG (R129). -/
def encCG (p : Bool) (op : BitVec 6) (r0 r1 r2 r3 : BitVec 5) (present : BitVec 4) : BitVec 32 :=
  BitVec.ofBool p ++ op ++ r0 ++ r1 ++ r2 ++ r3 ++ present ++ (0 : BitVec 1)

/-- The lane layout in register form (R135). -/
def encL (op : BitVec 10) (f : LaneOp) : BitVec 96 :=
  BitVec.ofBool f.p ++ op ++ f.d ++ f.a ++ f.b ++ f.c ++ f.mask ++ f.moda ++ f.modb ++ f.modc ++ f.rnd ++ f.fmt ++ f.ext

/-- The lane layout in immediate form (R136). -/
def encLI (op : BitVec 10) (f : LaneImm) : BitVec 96 :=
  BitVec.ofBool f.p ++ op ++ f.d ++ f.a ++ f.imm.extractLsb' 16 16 ++ f.mask ++ f.moda ++ f.modb ++ f.modc ++ f.rnd ++ f.fmt ++ f.imm.extractLsb' 0 16 ++ f.ext

/-- The word of a control instruction; none for every other constructor. -/
def encodeControl : Instr → Option (BitVec 32)
  | .b p o => some (encCJ p 0x01 0 o)
  | .bc p c o => some (encCJ p 0x02 c o)
  | .bmz p k o => some (encCJ p 0x03 k o)
  | .bma p k o => some (encCJ p 0x04 k o)
  | .call p d i => some (encCW p 0x05 d i)
  | .ret p a => some (encCR p 0x06 0 a 0 false)
  | .loop p a i => some (encCI p 0x07 0 a i)
  | .split p k o => some (encCJ p 0x08 k o)
  | .lrun p n o => some (encCW p 0x09 n o)
  | .yld p o => some (encCJ p 0x0A 0 o)
  | .nop p => some (encCM p 0x0B 0 0 0 0)
  | .exit p => some (encCM p 0x0B 1 0 0 0)
  | .merge p => some (encCM p 0x0B 2 0 0 0)
  | .lbrk p => some (encCM p 0x0B 3 0 0 0)
  | .eret p => some (encCM p 0x0B 4 0 0 0)
  | .mmafence p => some (encCM p 0x0B 5 0 0 0)
  | .uadd p d a b x => some (encCR p 0x10 d a b x)
  | .usub p d a b x => some (encCR p 0x11 d a b x)
  | .umul p d a b x => some (encCR p 0x12 d a b x)
  | .umulh p d a b x => some (encCR p 0x13 d a b x)
  | .umad p d a b x => some (encCR p 0x14 d a b x)
  | .ushl p d a b x => some (encCR p 0x15 d a b x)
  | .ushr p d a b x => some (encCR p 0x16 d a b x)
  | .usra p d a b x => some (encCR p 0x17 d a b x)
  | .uand p d a b x => some (encCR p 0x18 d a b x)
  | .uor p d a b x => some (encCR p 0x19 d a b x)
  | .uxor p d a b x => some (encCR p 0x1A d a b x)
  | .umin p d a b x => some (encCR p 0x1B d a b x)
  | .umax p d a b x => some (encCR p 0x1C d a b x)
  | .ucmp p a b x => some (encCR p 0x1D 0 a b x)
  | .umov p d b x => some (encCR p 0x1E d 0 b x)
  | .uaff p d a b x => some (encCR p 0x1F d a b x)
  | .usel p c a b x => some (encCM p 0x20 c a b (BitVec.setWidth 5 (BitVec.ofBool x)))
  | .ulim p d i => some (encCW p 0x21 d i)
  | .ulih p d i => some (encCW p 0x22 d (BitVec.setWidth 17 i))
  | .sget p d i => some (encCI p 0x28 d 0 i)
  | .sput p a i => some (encCI p 0x29 0 a i)
  | .rgn p r0 r1 r2 r3 pr => some (encCG p 0x2A r0 r1 r2 r3 pr)
  | .trap p i => some (encCI p 0x2B 0 0 i)
  | .slotq p d => some (encCI p 0x2C d 0 0)
  | .opreq p d a => some (encCR p 0x2D d a 0 false)
  | .spawn p d a b x => some (encCR p 0x2E d a b x)
  | .fence p s a b => some (encCM p 0x30 s a b 0)
  | .waitBar p a b => some (encCM p 0x31 0 a b 0)
  | .waitBatch p a => some (encCM p 0x31 1 a 0 0)
  | .waitTok p a => some (encCM p 0x31 2 a 0 0)
  | .binit p a b x => some (encCR p 0x32 0 a b x)
  | .barrive p s a b => some (encCM p 0x33 s a b 0)
  | .bexpect p s a b => some (encCM p 0x34 s a b 0)
  | .gbar p a => some (encCR p 0x35 0 a 0 false)
  | .drain p a b => some (encCR p 0x36 0 a b false)
  | .gang p a b x => some (encCR p 0x38 0 a b x)
  | .cbld p k a => some (encCR p 0x39 (BitVec.setWidth 8 k) a 0 false)
  | .siltThr p t b x => some (encCR p 0x3A (BitVec.setWidth 8 t) 0 b x)
  | .siltClr p t => some (encCI p 0x3B (BitVec.setWidth 8 t) 0 0)
  | .widepool p d => some (encCI p 0x3C d 0 0)
  | .cpy p a b c v => some (encCM p 0x3E 0 a b (c ++ v))
  | .gth p a b c v => some (encCM p 0x3E 1 a b (c ++ v))
  | .sct p a b c v => some (encCM p 0x3E 2 a b (c ++ v))
  | .nput p a b c v => some (encCM p 0x3E 3 a b (c ++ v))
  | .nget p a b c v => some (encCM p 0x3E 4 a b (c ++ v))
  | .natom p a b c v => some (encCM p 0x3E 5 a b (c ++ v))
  | .coll p a b c v => some (encCM p 0x3E 6 a b (c ++ v))
  | .nswap p a b c v => some (encCM p 0x3E 7 a b (c ++ v))
  | .l1ways p b c v => some (encCM p 0x3E 8 0 b (c ++ v))
  | _ => none

/-- The word of a lane instruction; none for every other constructor. -/
def encodeLane : Instr → Option (BitVec 96)
  | .add f => some (encL 0x000 f)
  | .addImmediate f => some (encLI 0x200 f)
  | .sub f => some (encL 0x001 f)
  | .subImmediate f => some (encLI 0x201 f)
  | .mul f => some (encL 0x002 f)
  | .mulImmediate f => some (encLI 0x202 f)
  | .mulhi f => some (encL 0x003 f)
  | .mad f => some (encL 0x004 f)
  | .minL f => some (encL 0x005 f)
  | .minImmediate f => some (encLI 0x205 f)
  | .maxL f => some (encL 0x006 f)
  | .maxImmediate f => some (encLI 0x206 f)
  | .absL f => some (encL 0x007 f)
  | .neg f => some (encL 0x008 f)
  | .andL f => some (encL 0x009 f)
  | .andImmediate f => some (encLI 0x209 f)
  | .orL f => some (encL 0x00A f)
  | .orImmediate f => some (encLI 0x20A f)
  | .xor f => some (encL 0x00B f)
  | .xorImmediate f => some (encLI 0x20B f)
  | .notL f => some (encL 0x00C f)
  | .shl f => some (encL 0x00D f)
  | .shlImmediate f => some (encLI 0x20D f)
  | .shr f => some (encL 0x00E f)
  | .shrImmediate f => some (encLI 0x20E f)
  | .sra f => some (encL 0x00F f)
  | .sraImmediate f => some (encLI 0x20F f)
  | .rot f => some (encL 0x010 f)
  | .rotImmediate f => some (encLI 0x210 f)
  | .popc f => some (encL 0x011 f)
  | .clz f => some (encL 0x012 f)
  | .brev f => some (encL 0x013 f)
  | .bfe f => some (encL 0x014 f)
  | .bfi f => some (encL 0x015 f)
  | .cmp f => some (encL 0x020 f)
  | .cmpImmediate f => some (encLI 0x220 f)
  | .sel f => some (encL 0x021 f)
  | .mand f => some (encL 0x022 f)
  | .mor f => some (encL 0x023 f)
  | .mxor f => some (encL 0x024 f)
  | .mnot f => some (encL 0x025 f)
  | .ballot f => some (encL 0x026 f)
  | .mcount f => some (encL 0x027 f)
  | .mprefix f => some (encL 0x028 f)
  | .shfl f => some (encL 0x030 f)
  | .shup f => some (encL 0x031 f)
  | .shdn f => some (encL 0x032 f)
  | .shxor f => some (encL 0x033 f)
  | .shcat f => some (encL 0x034 f)
  | .prm f => some (encL 0x035 f)
  | .lut16 f => some (encL 0x036 f)
  | .lscan f => some (encL 0x037 f)
  | .lred f => some (encL 0x038 f)
  | .fadd f => some (encL 0x040 f)
  | .faddImmediate f => some (encLI 0x240 f)
  | .fsub f => some (encL 0x041 f)
  | .fsubImmediate f => some (encLI 0x241 f)
  | .fmul f => some (encL 0x042 f)
  | .fmulImmediate f => some (encLI 0x242 f)
  | .fma f => some (encL 0x043 f)
  | .fmin f => some (encL 0x044 f)
  | .fminImmediate f => some (encLI 0x244 f)
  | .fmax f => some (encL 0x045 f)
  | .fmaxImmediate f => some (encLI 0x245 f)
  | .fabs f => some (encL 0x046 f)
  | .fneg f => some (encL 0x047 f)
  | .frcp f => some (encL 0x048 f)
  | .frsq f => some (encL 0x049 f)
  | .fsqrt f => some (encL 0x04A f)
  | .fdiv f => some (encL 0x04B f)
  | .fexp2 f => some (encL 0x04C f)
  | .flog2 f => some (encL 0x04D f)
  | .fsin f => some (encL 0x04E f)
  | .fcos f => some (encL 0x04F f)
  | .fcmp f => some (encL 0x050 f)
  | .fcmpImmediate f => some (encLI 0x250 f)
  | .fcls f => some (encL 0x051 f)
  | .frnd f => some (encL 0x052 f)
  | .fscale f => some (encL 0x053 f)
  | .cvt f => some (encL 0x060 f)
  | .pack f => some (encL 0x061 f)
  | .unpack f => some (encL 0x062 f)
  | .cbdec f => some (encL 0x063 f)
  | .tag f => some (encL 0x064 f)
  | .tget f => some (encL 0x065 f)
  | .mov f => some (encL 0x066 f)
  | .movImmediate f => some (encLI 0x266 f)
  | .ld f => some (encL 0x080 f)
  | .ldImmediate f => some (encLI 0x280 f)
  | .st f => some (encL 0x081 f)
  | .stImmediate f => some (encLI 0x281 f)
  | .lds f => some (encL 0x082 f)
  | .ldsImmediate f => some (encLI 0x282 f)
  | .sts f => some (encL 0x083 f)
  | .stsImmediate f => some (encLI 0x283 f)
  | .ldm f => some (encL 0x084 f)
  | .stm f => some (encL 0x085 f)
  | .prf f => some (encL 0x086 f)
  | .prfImmediate f => some (encLI 0x286 f)
  | .atom f => some (encL 0x090 f)
  | .ared f => some (encL 0x091 f)
  | .atoms f => some (encL 0x092 f)
  | .mma f => some (encL 0x0A0 f)
  | .mmas f => some (encL 0x0A1 f)
  | .accz f => some (encL 0x0A2 f)
  | .accld f => some (encL 0x0A3 f)
  | .accst f => some (encL 0x0A4 f)
  | .acccvt f => some (encL 0x0A5 f)
  | .accput f => some (encL 0x0A6 f)
  | .siltGet f => some (encL 0x0A7 f)
  | _ => none

/-- The words of an instruction: its width in bits and its value; none for a device step, which has no encoding. -/
def encode (i : Instr) : Option (Nat × Nat) :=
  match encodeControl i with
  | some w => some (32, w.toNat)
  | none =>
    match encodeLane i with
    | some w => some (96, w.toNat)
    | none => none

/-- The result of a decode without its reason. -/
def decoded (r : Except DecodeError Instr) : Option Instr :=
  match r with
  | .ok i => some i
  | .error _ => none

/-- The instruction of a table word: 32 bits in the control stream, 96 in the lane stream, each little-endian at its address (R128), so bit 0 of the word is bit 0 of the table. -/
def decodeTableWord (nbits w : Nat) : Option Instr :=
  if nbits = 32 then decoded (decodeControl (BitVec.ofNat 32 w))
  else if nbits = 96 then decoded (decodeLane (BitVec.ofNat 96 w))
  else none

end Sys2Proof
end

