-- ==== Sys2Proof/Machine/State.lean ====
section
/-! DEFINITION. The state of the machine as plain data: everything the manual gives one W64 module, the steps and inputs that wait, and the reset state. -/

namespace Sys2Proof.Machine

/-- A vector register's contents by shape (R46): one value, a base and a stride, or 32 lane values, lane 0 first. -/
inductive RegVal where
  | uniform (v : Word)
  | affine (b s : Word)
  | general (lanes : List Word)
  deriving DecidableEq, Repr

/-- A format tag: code in [7:3], codebook slot in [2:0] (R49). -/
abbrev Tag := BitVec 8

/-- A loop-stack entry (R32). -/
structure LoopEntry where
  /-- start address (02 R32). -/
  start : Dword := 0
  /-- end address (02 R32). -/
  stop : Dword := 0
  /-- remaining count, unsigned (02 R32). -/
  count : Word := 0
  deriving DecidableEq, Repr

/-- A lane block of a lane queue (R31): first lane instruction and number of instructions still to execute. -/
structure Block where
  /-- index of the next lane instruction (02 R31). -/
  off : Nat := 0
  /-- instructions left, 1 to 256 (02 R31). -/
  cnt : Nat := 0
  /-- its `lrun` closed its window: what it writes shows to the control stream only behind a further marked instruction (03 R63). -/
  late : Bool := false
  deriving DecidableEq, Repr

/-- A vector register of the main register file: contents by shape and format tag (R45, R46, R49). -/
structure GReg where
  /-- shape and lane values (03 R46). -/
  val : RegVal := .uniform 0
  /-- format code [7:3], slot [2:0] (03 R49). -/
  tag : Tag := 0
  deriving DecidableEq, Repr

/-- Why a stream waits without being at a blocking point: a full lane queue (R31), a register named by a lane block (R63) or still to be written by an access (R62), the split's lane queue alone (R105) or with its results (R149), matrix operations of the group, on a tile or a pair (R183, R185, R239), a full engine queue (R248), releases of the group, the split's own (R160) or acknowledgements (R125), a codebook slot (R184), virtual addresses that the walker or a slice cannot serve yet (R89, R103), panel bytes (R238), the rendezvous latch (R236), accesses of the group to bytes of the scratchpad or of memory that are still to be performed (R105, R107). -/
inductive Stall where
  | queueFull
  | laneBusy (reg : Nat)
  | writes (regs : List Nat)
  | queue
  | drain
  | matrix
  | tile (t : Nat)
  | pair (t : Nat)
  | engineFull
  | fence
  | release
  | acks (scope : Nat) (base len : Word)
  | codebook (slot : Nat)
  | memory (vas : List Nat)
  | panel (bytes : List Nat)
  | rendezvous
  | accesses (scratch virt : List Nat)
  deriving DecidableEq, Repr

/-- A wait condition (R41, R175): the blocking forms. -/
inductive Wait where
  | bar (addr phase : Word)
  | batch (n : Word)
  | tok (t : Word)
  | merge (site : Dword)
  | yld (cont : Dword) (expired : Bool)
  | engine (tag : Nat) (cont : Dword) (marked : Bool)
  deriving DecidableEq, Repr

/-- The control stream of a split: ready, parked (R61), stalled, or blocked on a wait condition (R41). -/
inductive CtlState where
  | ready
  | parked
  | stalled (w : Stall)
  | blocked (w : Wait)
  deriving DecidableEq, Repr

/-- An open window of a stream (R61, R62): instructions issued in it, the values that registers and masks written since its start held at its start, and what the control stream still sees of those that the block of a marked `lrun` has written (R63). -/
structure Window where
  n : Nat := 0
  vs : List (Nat × GReg) := []
  ms : List (Nat × Mask) := []
  hideVs : List (Nat × GReg) := []
  hideMs : List (Nat × Mask) := []
  deriving DecidableEq, Repr

/-- The sixteen trap-state registers 0x30–0x3F of a split (R351). -/
structure TrapRec where
  /-- trap.cause (18 R352). -/
  cause : Word := 0
  /-- trap.pc (18 R351). -/
  pc : Word := 0
  /-- trap.pc.hi (18 R351). -/
  pcHi : Word := 0
  /-- trap.lane (18 R352). -/
  lane : Word := 0
  /-- trap.insn0 (18 R351). -/
  insn0 : Word := 0
  /-- trap.insn1 (18 R351). -/
  insn1 : Word := 0
  /-- trap.insn2 (18 R351). -/
  insn2 : Word := 0
  /-- trap.addr (18 R353). -/
  addr : Word := 0
  /-- trap.addr.hi (18 R353). -/
  addrHi : Word := 0
  /-- trap.info (18 R353). -/
  info : Word := 0
  /-- trap.x0 (18 R353). -/
  x0 : Word := 0
  /-- trap.x1 (18 R353). -/
  x1 : Word := 0
  /-- trap.x2 (18 R353). -/
  x2 : Word := 0
  /-- trap.x3 (18 R353). -/
  x3 : Word := 0
  /-- trap.aux (18 R353). -/
  aux : Word := 0
  /-- trap.depth (18 R351). -/
  depth : Word := 0
  deriving DecidableEq, Repr

/-- A split of a group (R27). -/
structure Split where
  /-- control PC (02 R27). -/
  pc : Dword := 0
  /-- active mask, read as m0 (02 R27). -/
  active : Mask := 0
  /-- first operand of the last ucmp (condition codes) (12 R290). -/
  cmpA : Word := 0
  /-- second operand of the last ucmp (12 R290). -/
  cmpB : Word := 0
  /-- loop stack, top first (02 R31, R32). -/
  loops : List LoopEntry := []
  /-- lane queue, oldest first (02 R31). -/
  queue : List Block := []
  /-- window state: running, parked, stalled or blocked on a wait condition (03 R61, 02 R41). -/
  ctl : CtlState := .ready
  /-- the lane stream waits for outstanding results after a marked lane instruction (03 R61). -/
  laneParked : Bool := false
  /-- control-stream window: instructions issued and window-start values of registers written since (03 R62). -/
  cWin : Window := ({} : Window)
  /-- lane-stream window (03 R62). -/
  lWin : Window := ({} : Window)
  /-- registers whose last write in the open control window came from the control stream (03 R63). -/
  ctlLast : List Nat := []
  /-- ref.count.hi latched by the last read of ref.count (03 R59). -/
  refHi : Word := 0
  /-- in-handler bit (18 R350). -/
  inHandler : Bool := false
  /-- trap-state registers (18 R351). -/
  trap : TrapRec := ({} : TrapRec)
  /-- set-aside loop stack (18 R350). -/
  savedLoops : List LoopEntry := []
  /-- set-aside ucmp operand (18 R350). -/
  savedCmpA : Word := 0
  /-- set-aside ucmp operand (18 R350). -/
  savedCmpB : Word := 0
  /-- a trap whose entry waits for outstanding results (18 R350). -/
  trapDue : Option TrapRec := none
  /-- restart cursor of an interrupted ldm or stm (10 R228). -/
  cursor : Nat := 0
  /-- address of the ldm or stm in progress, from its first register on (10 R228). -/
  runAddr : Option Nat := none
  /-- set-aside address of an ldm or stm of which a register faulted (10 R228). -/
  savedRun : Option Nat := none
  /-- the lane block that executes, whole, until it has finished, and whether its last instruction has issued (03 R63). -/
  running : Option (Block × Bool) := none
  /-- what the registers and masks written by such a block held before (03 R63). -/
  late : Window := ({} : Window)
  /-- reference time at which the control stream last blocked (12 R293). -/
  waitSince : Nat := 0
  /-- why the lane stream is stalled (12 R286). -/
  laneStall : Option Stall := none
  /-- lane cycle at which the control stream last became ready or issued (12 R286). -/
  ctlSince : Nat := 0
  /-- lane cycle at which the lane stream last became ready or issued (12 R286). -/
  laneSince : Nat := 0
  deriving DecidableEq, Repr

/-- A tile's metadata word (R54). -/
structure TileMeta where
  /-- SILT (03 R54). -/
  silt : BitVec 16 := 0
  /-- THR (03 R54). -/
  thr : BitVec 16 := 0x7F80
  /-- PARTNER, accumulator-file index (03 R54). -/
  partner : BitVec 8 := 0
  /-- PEND (03 R54). -/
  pend : Bool := false
  /-- SKIP (03 R54). -/
  skip : Bool := false
  /-- SAT (03 R54). -/
  sat : Bool := false
  /-- TAG 0 f32, 1 i32, 2 f64, 3 wide (03 R54). -/
  tag : BitVec 2 := 0
  deriving DecidableEq, Repr

/-- A tile of the accumulator file: 512 elements and the metadata word (R54). -/
structure Tile where
  /-- element (row, col) at index row×64+col; unlisted reads +0 (03 R54). -/
  elems : Table Word := []
  /-- metadata word (03 R54). -/
  info : TileMeta := ({} : TileMeta)
  deriving DecidableEq, Repr

/-- The gang register (R58). -/
structure GangReg where
  /-- SEQ (03 R58). -/
  seq : BitVec 16 := 0
  /-- SIZE (03 R58). -/
  size : BitVec 3 := 0
  /-- MEMBER5…MEMBER0 (03 R58). -/
  members : BitVec 30 := 0
  deriving DecidableEq, Repr

/-- The operand-collector latch (R237). -/
structure Latch where
  /-- base register of the fragment (10 R237). -/
  base : Nat := 0
  /-- A format (10 R237). -/
  fmt : Nat := 0
  /-- latched fragment (10 R237). -/
  regs : List GReg := []
  /-- fragment registers written since it was latched (10 R237). -/
  dirty : List Nat := []
  deriving DecidableEq, Repr

/-- An attached acquire (R117). -/
structure Acq where
  /-- barrier address (06 R117). -/
  bar : Nat := 0
  /-- scope (06 R117). -/
  scope : Nat := 0
  /-- range base (06 R117). -/
  base : Word := 0
  /-- range length (06 R117). -/
  len : Word := 0
  deriving DecidableEq, Repr

/-- An unreported failed job of a group (R361). -/
structure FailedJob where
  /-- engine error log index, none when no entry was kept (18 R361). -/
  entry : Option Nat := none
  /-- job card (18 R361). -/
  card : List Word := []
  /-- reason, segment and space, as bytes 64-71 of the log entry hold them (11 R264). -/
  word : Nat := 0
  /-- address at fault (11 R264). -/
  addr : Dword := 0
  deriving DecidableEq, Repr

/-- A fence, or the ordering of an atomic, whose conditions are not met (R114, R116, R125, R174). -/
structure FenceWait where
  /-- its number among those of the group, which the accesses before it carry (06 R114). -/
  id : Nat := 0
  /-- job tags (sequence numbers) not yet acknowledged or refused (06 R125). -/
  jobs : List Nat := []
  /-- the issuing split (08 R174). -/
  split : Nat := 0
  /-- splits made by the issuing one meanwhile, whose accesses follow the fence too (02 R28). -/
  also : List Nat := []
  /-- scope (06 R114). -/
  scope : Nat := 0
  /-- kind: 1 acq, 2 rel, 3 full (06 R114). -/
  kind : Nat := 0
  /-- range base (06 R115). -/
  base : Word := 0
  /-- range length (06 R115). -/
  len : Word := 0
  /-- the accesses before it are performed, and its lines written back or invalidated (06 R114). -/
  met : Bool := false
  deriving DecidableEq, Repr

/-- A posted off-wafer nput (R124, R125). -/
structure Posted where
  /-- job tag: reticle, site, issuing sequence number (13 R304). -/
  job : Nat := 0
  /-- local source address (06 R125). -/
  src : Nat := 0
  /-- length (06 R125). -/
  len : Nat := 0
  /-- the source lies in the scratchpad (06 R125). -/
  scratch : Bool := false
  /-- packets not yet acknowledged or refused (13 R304). -/
  left : Nat := 0
  /-- a first NACK was handled (13 R304). -/
  refused : Bool := false
  /-- counted as done at the retransmission limit (20 R385). -/
  counted : Bool := false
  deriving DecidableEq, Repr

/-- One part of an access, a lane's or the whole of a tile image (R241): its address, the storage address of each byte, its operands (R219) or, of an image, its bytes, and which of its bytes are not yet performed (R106). -/
structure LaneAcc where
  lane : Nat := 0
  va : Nat := 0
  bytes : List Nat := []
  cached : Bool := false
  val : Word := 0
  valHi : Word := 0
  cmp : Word := 0
  data : List Byte := []
  left : List Nat := []
  deriving DecidableEq, Repr

/-- The kinds of an access that is performed after its issue (R222). -/
inductive AccessKind where
  | load
  | store
  | atomic
  | reduce
  | prefetch
  deriving DecidableEq, Repr

/-- An access that a group has issued and that is not yet performed (R222); `got` holds the bytes read so far, byte k of lane L at 8 L + k, or of an image byte k at k. `before` names further splits whose later accesses it precedes: those made by a `split` of its own, and the survivor of a merge (R28, R118). `due` numbers the fences that wait for it (R114). `run` is 1 more than its place in the registers of an `ldm` or `stm`, one of which is moved before the next, and 0 for every other access (R227); `tile` the tile that an `accld` fills, with the kind of its image (R241). -/
structure Access where
  kind : AccessKind := .load
  split : Nat := 0
  before : List Nat := []
  scratch : Bool := false
  lanes : List LaneAcc := []
  dst : Nat := 0
  size : Nat := 4
  signed : Bool := false
  uniform : Bool := false
  mask : Mask := 0
  tag : Tag := 0
  op : Nat := 0
  fmt : Nat := 0
  scope : Nat := 0
  run : Nat := 0
  tile : Option (Nat × Nat) := none
  due : List Nat := []
  got : List (Nat × Byte) := []
  deriving DecidableEq, Repr

/-- A resident group (R25). -/
structure Group where
  /-- the team (model's own key) (02 R25). -/
  team : Nat := 0
  /-- id.group (02 R36). -/
  gid : Nat := 0
  /-- id.role (02 R36). -/
  role : Nat := 0
  /-- first physical register of the run (03 R45). -/
  regBase : Nat := 0
  /-- register budget (03 R45). -/
  regN : Nat := 0
  /-- first tile of the ACC run (03 R54). -/
  accBase : Nat := 0
  /-- ACC (02 R33). -/
  accN : Nat := 0
  /-- POOL (02 R33). -/
  poolN : Nat := 0
  /-- COMM (02 R33). -/
  comm : Bool := false
  /-- POWER (02 R33). -/
  power : Bool := false
  /-- m1 to m15 (03 R53). -/
  masks : Table Word := []
  /-- BATCH (08 R176). -/
  batch : Word := 0
  /-- first batch that has not ended (08 R176). -/
  ended : Word := 0
  /-- join phase (02 R30). -/
  join : Word := 0
  /-- gang register (03 R58). -/
  gang : GangReg := ({} : GangReg)
  /-- staged runs of rgn (03 R60). -/
  staged : List (Option Nat) := []
  /-- last token issued (10 R246). -/
  token : Word := 0
  /-- issued, unobserved tokens and whether the job completed (10 R246). -/
  tokens : List (Word × Bool) := []
  /-- attached acquires (06 R117). -/
  acqs : List Acq := []
  /-- unreported failed jobs, oldest first (18 R361). -/
  failed : List FailedJob := []
  /-- operand-collector latch (10 R237). -/
  latch : Option Latch := none
  /-- accesses issued and not yet performed, oldest first (10 R222). -/
  pending : List Access := []
  /-- fences whose conditions are not met (08 R174). -/
  fences : List FenceWait := []
  /-- posted off-wafer nputs (06 R125). -/
  posted : List Posted := []
  /-- live splits by id (02 R27). -/
  splits : List (Nat × Split) := []
  /-- the last split has exited and matrix operations are awaited (02 R44). -/
  done : Bool := false
  /-- the group has ended; its storage stays until its team ends (02 R44). -/
  finished : Bool := false
  deriving DecidableEq, Repr

/-- A codebook slot (R57, R72). -/
structure Codebook where
  /-- the 16 bf16 entries (unlisted: +0) (03 R57). -/
  entries : List (BitVec 16) := []
  /-- emin (04 R72). -/
  emin : BitVec 8 := 127
  deriving DecidableEq, Repr

/-- A launch record, decoded (R33). -/
structure LaunchRec where
  /-- GRID (02 R33). -/
  grid : Word := 0
  /-- ARG0…ARG7 (02 R33). -/
  args : List Word := []
  /-- KEYBASE (02 R33). -/
  keyBase : Dword := 0
  /-- PART (02 R33). -/
  part : Nat := 0
  /-- IDEM (02 R33). -/
  idem : Bool := false
  /-- PRIO (02 R33). -/
  prio : Nat := 0
  /-- CLASS (02 R33). -/
  cls : Nat := 0
  /-- SCRATCH in 4 KiB units (02 R33). -/
  scratch : Nat := 0
  /-- ROLE0…ROLE3 (02 R33). -/
  roles : List Word := []
  /-- NTEAM_X (02 R33). -/
  nx : Nat := 0
  /-- NTEAM_Y (02 R33). -/
  ny : Nat := 0
  /-- NTEAM_Z (02 R33). -/
  nz : Nat := 0
  /-- TEAM_COUNT (02 R33). -/
  count : Nat := 0
  /-- TEAM_BASE (02 R33). -/
  base : Nat := 0
  /-- LBASE (02 R33). -/
  lbase : Dword := 0
  /-- ENTRY (02 R33). -/
  entry : Dword := 0
  deriving DecidableEq, Repr

/-- Where a team stands (R276, R281, R289); `away` is a team of a record read here whose home core lies on another wafer. -/
inductive TeamStage where
  | entry
  | held
  | resident
  | evicted
  | ended
  | away
  deriving DecidableEq, Repr

/-- The team-collective part of `drain` (R182): its operands, the groups that have issued it, and whether a sweep that another wafer asked for has read the team since all of them have (R272). -/
structure DrainJoin where
  addr : Nat := 0
  lo : Word := 0
  hi : Word := 0
  groups : List Nat := []
  swept : Bool := false
  deriving DecidableEq, Repr

/-- A pre-emption request: its source as R366 numbers it, when it was made, whether its overdue event is posted, and the reference time at which each group was last at a blocking point since. -/
structure Request where
  source : Nat := 0
  since : Nat := 0
  overdue : Bool := false
  reached : List (Nat × Nat) := []
  deriving DecidableEq, Repr

/-- A landing held for a team that is not resident (R266): place (a tile, none for the scratchpad), offset, bytes, the barrier and parity it counts into with its count, the arrivals of a drain that ended meanwhile, the admitted request that it answers (R379), the release of a grid barrier (R273), and the job whose landing it is, by core and number (R292). -/
structure Held where
  tile : Option Nat := none
  off : Nat := 0
  bytes : List Byte := []
  bar : Option (Nat × Nat) := none
  count : Nat := 0
  arrive : Nat := 0
  req : Option Packet := none
  release : Bool := false
  job : Option (Nat × Nat) := none
  deriving DecidableEq, Repr

/-- The context of an evicted team (R290): its groups, their registers and tiles in order, and the scratchpad image. -/
structure SavedTeam where
  groups : List Group := []
  regs : List (List GReg) := []
  tiles : List (List Tile) := []
  scratch : List Host.Cell := []
  deriving DecidableEq, Repr

/-- A team from its entry to its end (R25, R36, R290). -/
structure Team where
  /-- launch record (02 R33). -/
  lrec : LaunchRec := ({} : LaunchRec)
  /-- linear team id (02 R36). -/
  lin : Nat := 0
  /-- the launch (model's own key) it belongs to (12 R284). -/
  launch : Nat := 0
  /-- entry queued, held, resident, evicted or ended (12 R276). -/
  stage : TeamStage := .entry
  /-- core it runs on, or last ran on (12 R283). -/
  core : Nat := 0
  /-- home core (02 R39). -/
  home : Nat := 0
  /-- idempotent flag (02 R43). -/
  idem : Bool := false
  /-- first scratchpad byte of the allocation (05 R95). -/
  scratchBase : Nat := 0
  /-- SNT (11 R270). -/
  snt : BitVec 48 := 0
  /-- DON (11 R270). -/
  don : BitVec 48 := 0
  /-- k0 to k7 (03 R57). -/
  codebooks : Table Codebook := []
  /-- barrier of a grid barrier in collection (11 R274). -/
  gbar : Option Nat := none
  /-- the team's bus arrival has left (11 R273). -/
  gbarSent : Bool := false
  /-- drain operands and groups that have issued drain (11 R271). -/
  drainSet : Option DrainJoin := none
  /-- pre-emption request held (12 R289). -/
  request : Option Request := none
  /-- admission order (12 R280). -/
  admitted : Nat := 0
  /-- eviction order (12 R278). -/
  evictedAt : Nat := 0
  /-- arrival order of the entry (12 R278). -/
  arrived : Nat := 0
  /-- landings held while not resident, in landing order (11 R266). -/
  held : List Held := []
  /-- saved context of an evicted team (12 R290). -/
  saved : Option SavedTeam := none
  /-- save area: fabric address and units (12 R289). -/
  saveAt : Option (Nat × Nat) := none
  /-- coll jobs issued per rank set (13 R309). -/
  collCount : List (Dword × Nat) := []
  /-- ended by a fault (18 R357). -/
  byFault : Bool := false
  /-- engine jobs issued and not completed (02 R44). -/
  jobs : Nat := 0
  /-- since when the wait stood for which a probe started by itself (12 R293). -/
  probed : Nat := 0
  /-- wafer whose distributor sent its entry (12 R276). -/
  origin : Option Nat := none
  /-- groups that have arrived in the phase, by barrier address (12 R292). -/
  arrivals : List (Nat × List Nat) := []
  /-- abandoned by a command: it restarts once its jobs have completed (19 R372). -/
  abandoned : Bool := false
  /-- ended by fault while away from its cores: it ends once its jobs have completed (18 R357). -/
  ending : Bool := false
  deriving DecidableEq, Repr

/-- A launch record being served (R276, R284). -/
structure Launch where
  /-- the record (12 R276). -/
  lrec : LaunchRec := ({} : LaunchRec)
  /-- reticle whose distributor read it (12 R284). -/
  ret : Nat := 0
  /-- teams not yet ended (12 R284). -/
  left : Nat := 0
  /-- teams lost (12 R284). -/
  lost : Nat := 0
  /-- teams ended by a fault (12 R284). -/
  faulted : Nat := 0
  /-- its holdings have become reservations (12 R281). -/
  timedOut : Bool := false
  deriving DecidableEq, Repr

/-- A line of an L1 (R96). -/
structure L1Line where
  /-- fabric address div 128 (05 R96). -/
  line : Nat := 0
  /-- bytes (05 R96). -/
  data : Table Byte := []
  /-- valid bytes (05 R96). -/
  valid : BitVec 128 := 0
  /-- dirty bytes (05 R96). -/
  dirty : BitVec 128 := 0
  /-- leased to this core (05 R101). -/
  lease : Bool := false
  /-- way that holds it (05 R97). -/
  way : Nat := 0
  /-- virtual pages, bits [31:16] of their addresses, through which its bytes were reached (08 R148). -/
  pages : List Nat := []
  /-- team that last stored into it (11 R270). -/
  team : Nat := 0
  deriving DecidableEq, Repr

/-- A TLB entry (R89). -/
structure TlbEntry where
  /-- partition of the address space (05 R85). -/
  part : Nat := 0
  /-- virtual page number in 64 KiB units (05 R89). -/
  vpage : Nat := 0
  /-- 32 MiB page (05 R89). -/
  big : Bool := false
  /-- leaf entry (05 R87). -/
  pte : Dword := 0
  deriving DecidableEq, Repr

/-- A gang operation held in the rendezvous latch or queued at the matrix unit (R236). -/
structure GangOp where
  /-- member's group slot (10 R236). -/
  slot : Nat := 0
  /-- member's group index (10 R236). -/
  gid : Nat := 0
  /-- team (10 R236). -/
  team : Nat := 0
  /-- member's gang register at issue (10 R236). -/
  gang : GangReg := ({} : GangReg)
  /-- working tile D (10 R234). -/
  tile : Nat := 0
  /-- fragment values (10 R235). -/
  frag : List GReg := []
  /-- A-scale registers (10 R235). -/
  ascale : List GReg := []
  /-- B-scale registers (10 R235). -/
  bscale : List GReg := []
  /-- b value: panel scratchpad address (10 R235). -/
  panel : Nat := 0
  /-- A format (10 R234). -/
  fmt : Nat := 0
  /-- B format (10 R234). -/
  bf : Nat := 0
  /-- BS (10 R234). -/
  bs : Nat := 0
  /-- codebook slot of a cb4 fragment (10 R235). -/
  aslot : Nat := 0
  /-- rounding (10 R234). -/
  rnd : Nat := 0
  /-- kofs (10 R234). -/
  kofs : Nat := 0
  /-- kofsb (10 R234). -/
  kofsb : Nat := 0
  /-- mmas (10 R234). -/
  scaled : Bool := false
  /-- batch it joined (08 R176). -/
  batch : Word := 0
  /-- issuing split (10 R234). -/
  split : Nat := 0
  /-- the word, for a gang-mismatch record (18 R351). -/
  insn : BitVec 96 := 0
  /-- first register of the fragment (10 R237). -/
  base : Nat := 0
  /-- REUSE (10 R234). -/
  reuse : Bool := false
  /-- the panel bytes as they stood at the rendezvous (10 R235). -/
  buffer : List Byte := []
  /-- the panel has been read and the operation runs (10 R235). -/
  started : Bool := false
  deriving DecidableEq, Repr

/-- How a job's end is observed (R246). -/
inductive Completion where
  | barrier (addr parity : Nat)
  | token (t : Word)
  | yield (cont : Dword)
  deriving DecidableEq, Repr

/-- The space of a footprint range (R262): virtual, scratchpad of a team, or tiles of a team's groups, tile t of group g at (128 g + t) × 2,048. -/
inductive Space where
  | virt
  | scratch (team : Nat)
  | tiles (team : Nat)
  deriving DecidableEq, Repr

/-- A footprint range, widened to 128-byte units: first byte and one past the last (R262). -/
structure Range where
  space : Space := .virt
  lo : Nat := 0
  hi : Nat := 0
  deriving DecidableEq, Repr

/-- A started segment: the bytes of the job's data from `lo` to `hi`, its number (R264), whether it is the job's own segment or what has come from elsewhere for it (R310), the slot index and start of a slot that has found it running (R261, R392), the parts of it still to be read or, of an `nget` or `natom`, to be answered, and the pieces read and still to be written, each an offset in the data, a space, an address and bytes, by offset (R122, R260). -/
structure Landing where
  lo : Nat := 0
  hi : Nat := 0
  num : Nat := 0
  own : Bool := true
  late : Option (Nat × Nat) := none
  reads : List (Nat × Nat) := []
  pieces : List (Nat × Space × Nat × List Byte) := []
  deriving DecidableEq, Repr

/-- Why a job stopped (R264): reason, SPACE and address. -/
structure JobError where
  reason : Nat := 0
  space : Nat := 3
  addr : Dword := 0
  deriving DecidableEq, Repr

/-- An engine job (R245, R248). -/
structure Job where
  /-- issuing sequence number at the core (13 R304). -/
  id : Nat := 0
  /-- the 64-byte job card (10 R245). -/
  card : List Word := []
  /-- CMD (10 R245). -/
  cmd : Nat := 0
  /-- VAR (10 R245). -/
  var : Nat := 0
  /-- issuing group's slot (10 R245). -/
  slot : Nat := 0
  /-- SPLIT (10 R245). -/
  split : Nat := 0
  /-- GROUP (10 R245). -/
  gid : Nat := 0
  /-- issuing team (10 R245). -/
  team : Nat := 0
  /-- completion (10 R246). -/
  compl : Completion := .token 0
  /-- descriptor words (10 R245). -/
  words : List Word := []
  /-- read ranges (11 R262). -/
  reads : List Range := []
  /-- write ranges (11 R262). -/
  writes : List Range := []
  /-- jobs it waits for (11 R262). -/
  after : List Nat := []
  /-- passed to its reticle unit (11 R259). -/
  forwarded : Bool := false
  /-- bytes (of a coll: chunks) whose segment has started (11 R260). -/
  pos : Nat := 0
  /-- segment index (11 R264). -/
  seg : Nat := 0
  /-- started segments not yet landed, ascending (11 R260). -/
  flight : List Landing := []
  /-- part of the count C already subtracted (11 R267). -/
  counted : Nat := 0
  /-- error met (11 R264). -/
  error : Option JobError := none
  /-- requests of an nget or natom not yet answered (11 R253). -/
  acks : Nat := 0
  /-- route bank in force when the command issued (10 R257). -/
  bank : Bool := false
  /-- path of an .ord job: 0 the mesh, p + 1 port p; none not yet chosen (13 R298). -/
  path : Option Nat := none
  /-- an nput whose target lies on another wafer, and so is posted (06 R124). -/
  far : Bool := false
  /-- ordinal of a coll on its rank set (13 R309). -/
  coll : Nat := 0
  /-- groups that have issued a team-collective command (10 R255). -/
  issued : List Nat := []
  /-- tokens given to each group (10 R255). -/
  tokens : List (Nat × Word) := []
  /-- the card of each group's command, for a team-collective one (10 R255). -/
  cards : List (Nat × List Word) := []
  deriving DecidableEq, Repr

/-- A collective in progress at one rank (R308, R309). -/
structure CollState where
  /-- issuing core (13 R308). -/
  core : Nat := 0
  /-- job id (13 R308). -/
  job : Nat := 0
  /-- team (13 R308). -/
  team : Nat := 0
  /-- rank of the team (10 R256). -/
  rank : Nat := 0
  /-- linear team ids by rank (10 R256). -/
  ranks : List Nat := []
  /-- contributions held by the owner of their units (13 R308). -/
  parts : List Packet := []
  /-- folded units not yet sent to every rank (13 R340). -/
  folded : List Packet := []
  /-- chunks of folded units sent (16 R340). -/
  out : Nat := 0
  /-- silts and roundings of the units landed (10 R255). -/
  notes : List CollTag := []
  /-- result bytes landed (13 R308). -/
  landed : Nat := 0
  deriving DecidableEq, Repr

/-- A line that its home slice holds: its tag state (R100, R102) and whether its data differs from DRAM (R98). -/
structure SliceTag where
  /-- grit (05 R100). -/
  grit : Nat := 0
  /-- last core that sent an atomic, as its place of R38 (05 R100). -/
  last : Option Nat := none
  /-- core holding the lease (05 R101). -/
  lessee : Option Nat := none
  /-- written since it was fetched from DRAM (19 R375). -/
  dirty : Bool := false
  deriving DecidableEq, Repr

/-- A cache slice (R98, R376, R377). -/
structure Slice where
  /-- lines held, by line index, most recent first (their bytes stand in State.mem) (05 R98, R99). -/
  lines : List (Nat × SliceTag) := []
  /-- lost-line table (19 R376). -/
  lost : Table Dword := []
  /-- memory error log (19 R377). -/
  melog : Table (List Byte) := []
  /-- MELOG_HEAD (19 R377). -/
  melogHead : Word := 0
  /-- next line to scrub (19 R374). -/
  scrubAt : Nat := 0
  deriving DecidableEq, Repr

/-- A reservation (R279): the team and when it was taken. -/
structure Reserve where
  team : Nat := 0
  since : Nat := 0
  deriving DecidableEq, Repr

/-- A core site (R13). -/
structure Core where
  /-- main register file (00 R3, 05 R93). -/
  mrf : Table GReg := []
  /-- accumulator file with metadata (00 R3, 05 R93). -/
  acc : Table Tile := []
  /-- scratchpad bytes by scratchpad address (05 R95). -/
  scratch : List Host.Cell := []
  /-- ways serving as L1, 4 to 16 (05 R95). -/
  l1ways : Nat := 4
  /-- L1 lines, most recent first (05 R96). -/
  l1 : List L1Line := []
  /-- TLB, most recent first (05 R89). -/
  tlb : List TlbEntry := []
  /-- resident groups by slot (12 R277). -/
  groups : List (Nat × Group) := []
  /-- rendezvous latch (10 R236). -/
  held : List GangOp := []
  /-- matrix unit: released gang operations, members not yet worked (10 R238). -/
  mxq : List (List GangOp) := []
  /-- engine sequencer queue (10 R248). -/
  jobs : List Job := []
  /-- issuing sequence counter (13 R304). -/
  jobSeq : Nat := 0
  /-- engine error log (11 R264). -/
  elog : Table (List Byte) := []
  /-- ELOG_HEAD (11 R264). -/
  elogHead : Word := 0
  /-- fault log (18 R358). -/
  flog : Table (List Byte) := []
  /-- FLOG_HEAD (18 R358). -/
  flogHead : Word := 0
  /-- probe log (19 R370). -/
  plog : List (List Byte) := []
  /-- PLOG_HEAD (19 R370). -/
  plogHead : Word := 0
  /-- memory error log (19 R377). -/
  melog : Table (List Byte) := []
  /-- MELOG_HEAD (19 R377). -/
  melogHead : Word := 0
  /-- TAGIDX (05 R93). -/
  tagidx : BitVec 13 := 0
  /-- forwarding entries: team, core (12 R283). -/
  forwards : List (Nat × Nat) := []
  /-- reservation (12 R279). -/
  reserve : Option Reserve := none
  /-- highest-ranked candidate that does not fit, and since when (12 R279). -/
  misfit : Option (Nat × Nat) := none
  /-- last control pick, slot × 4 + split (12 R286). -/
  rrCtl : Nat := 0
  /-- last lane pick (12 R286). -/
  rrLane : Nat := 0
  /-- lane cycle of the last control issue, plus 1 (12 R286). -/
  ctlCycle : Nat := 0
  /-- lane cycle of the last lane issue, plus 1 (12 R286). -/
  laneCycle : Nat := 0
  /-- split that took the first lane slot of that cycle (slot × 4 + split) (12 R286). -/
  laneFirst : Nat := 0
  /-- both lane slots of that cycle are taken (12 R286). -/
  laneBoth : Bool := false
  /-- lane cycle up to which the matrix unit is occupied (12 R287). -/
  mxUntil : Nat := 0
  deriving DecidableEq, Repr

/-- A cluster (R13, R287, R315–R323). -/
structure Cluster where
  /-- CUR_REC (12 R287). -/
  curRec : BitVec 24 := 0
  /-- charges of the current lane cycle (12 R287). -/
  recAdd : Nat := 0
  /-- lane cycles run (00 R7). -/
  laneAt : Nat := 0
  /-- part of the next lane cycle, in millionths (00 R7). -/
  laneRest : Nat := 0
  /-- reference time up to which lane cycles are counted (00 R7). -/
  clockAt : Nat := 0
  /-- a core has issued a lane instruction in the current lane cycle (14 R321). -/
  laneUsed : Bool := false
  /-- stall cycles of the current sample period (14 R321). -/
  stalls : Nat := 0
  /-- lane cycle at the start of the current sample period (14 R321). -/
  sampleAt : Nat := 0
  /-- CUR_HWM (12 R287). -/
  curHwm : BitVec 24 := 0x14000
  /-- TGT (14 R319). -/
  tgt : Nat := 2
  /-- CUR (14 R319). -/
  cur : Nat := 2
  /-- BUSY (14 R319). -/
  busy : Bool := false
  /-- the change in progress is a lowering that the region started (14 R320). -/
  byRegion : Bool := false
  /-- GOV (14 R319). -/
  gov : Bool := true
  /-- voltage in mV (14 R316). -/
  mv : Nat := 620
  /-- lane clock in kHz (14 R316). -/
  khz : Nat := 2000000
  /-- clock steps left of a ramp (14 R320). -/
  ramp : Nat := 0
  /-- clock in kHz at the start of the ramp (14 R320). -/
  oldKhz : Nat := 2000000
  /-- units reserved for the cluster (14 R319). -/
  unitsHeld : Nat := 32
  /-- STALL_SMP (14 R321). -/
  smp : Nat := 0
  /-- length of the current run of high samples (14 R321). -/
  run : Nat := 0
  /-- clock-gated islands: 0–3 lane quarters, 4 matrix (14 R322). -/
  gated : List Nat := []
  /-- reference time of the last use of each island (14 R322). -/
  used : Table Nat := []
  /-- ballast that runs: reference time of its start, and the units it reserves now (20 R391) (14 R323). -/
  ballast : Option (Nat × Nat) := none
  /-- team entries in arrival order (12 R276). -/
  entries : List Nat := []
  /-- last cluster asked for work (12 R282). -/
  askedLast : Nat := 0
  /-- a steal request is outstanding (12 R282). -/
  asking : Bool := false
  /-- empty answers in this round (12 R282). -/
  askRound : Nat := 0
  /-- when it became idle (12 R282). -/
  idleSince : Option Nat := none
  deriving DecidableEq, Repr

/-- An optical port (R307, R311). -/
structure PortState where
  /-- ST (13 R311). -/
  st : Nat := 0
  /-- LIT (13 R311). -/
  lit : BitVec 4 := 0
  /-- PEER (13 R311). -/
  peer : Word := 0
  /-- waking lanes and wake time (13 R307). -/
  waking : List (Nat × Nat) := []
  /-- lanes marked failed (20 R383). -/
  failedLanes : List Nat := []
  /-- transmit queue (13 R298). -/
  queue : List Packet := []
  /-- paused by the peer (14 R326). -/
  paused : Bool := false
  /-- the peer's lit set, from control flits (13 R307). -/
  peerLit : BitVec 4 := 0
  /-- failed replays of the current flit (13 R306). -/
  replays : Nat := 0
  /-- short retrains failed in a row (20 R381). -/
  retrains : Nat := 0
  /-- topology change it belongs to (13 R311). -/
  change : Option Nat := none
  /-- peer before the change (20 R387). -/
  oldPeer : Word := 0
  /-- packets sent (13 R311). -/
  psnSent : Nat := 0
  /-- packets acknowledged (13 R311). -/
  psnAcked : Nat := 0
  /-- sums of the last drain sweep of the port (13 R311). -/
  sweep : Option (Nat × Nat) := none
  /-- time of the last flit per lane (13 R307). -/
  lastFlit : Table Nat := []
  deriving DecidableEq, Repr

/-- A key table entry (R299). -/
structure KeyEntry where
  /-- TEAM (13 R299). -/
  team : Nat := 0
  /-- GRID (13 R299). -/
  grid : Word := 0
  /-- VBASE (13 R299). -/
  vbase : Nat := 0
  /-- LEN (13 R299). -/
  len : Nat := 0
  /-- INFLIGHT (13 R299). -/
  inflight : Nat := 0
  /-- GEN (13 R299). -/
  gen : Nat := 0
  /-- PART (13 R299). -/
  part : Nat := 0
  /-- KIND (13 R299). -/
  kind : Nat := 0
  /-- RIGHTS (13 R299). -/
  rights : BitVec 3 := 0
  /-- STATE 0 free, 1 live, 2 draining (13 R299). -/
  state : Nat := 0
  /-- translations locked in the walker: 64 KiB page, leaf (05 R91). -/
  locked : List TlbEntry := []
  /-- deregistration records to answer at the drain (13 R302). -/
  records : List Nat := []
  deriving DecidableEq, Repr

/-- A queue's registers: launch, event or system queue (R275). -/
structure Ring where
  /-- BASE (12 R275). -/
  base : Dword := 0
  /-- LOG2N (12 R275). -/
  log2n : Nat := 0
  /-- EN (12 R275). -/
  en : Bool := false
  /-- HEAD (12 R275). -/
  head : Word := 0
  /-- TAIL (12 R275). -/
  tail : Word := 0
  deriving DecidableEq, Repr

/-- A partition descriptor as held by a service core (R294, R329). -/
structure PartDesc where
  /-- partition id (13 R294). -/
  id : Nat := 0
  /-- x0 (13 R294). -/
  x0 : Nat := 0
  /-- y0 (13 R294). -/
  y0 : Nat := 0
  /-- w (13 R294). -/
  w : Nat := 1
  /-- h (13 R294). -/
  h : Nat := 1
  /-- route right (14 R329). -/
  route : Bool := false
  /-- wafer set (13 R294). -/
  wafers : List Nat := []
  deriving DecidableEq, Repr

/-- A packet sent and not yet acknowledged (R305). -/
structure TxPacket where
  /-- the packet (13 R305). -/
  pkt : Packet := ({} : Packet)
  /-- attempt (13 R305). -/
  attempt : Nat := 1
  /-- issuing core (13 R304). -/
  core : Nat := 0
  /-- card of the job as issued (13 R304). -/
  card : List Word := []
  /-- port chosen; none for the mesh or when held (13 R297). -/
  port : Option Nat := none
  /-- path of a packet of an ordered job: 0 the mesh, p + 1 port p; none while no path is chosen (13 R298). -/
  path : Option Nat := none
  /-- its job's one engine error log entry is written (20 R385). -/
  logged : Bool := false
  deriving DecidableEq, Repr

/-- A reticle record of the defect map (R394). -/
structure DefectRec where
  /-- byte 0 (20 R394). -/
  live : Bool := true
  /-- failed stitched boundaries (20 R394). -/
  boundaries : BitVec 4 := 0
  /-- failed ports (20 R394). -/
  ports : BitVec 2 := 0
  /-- own regulator failed (20 R394). -/
  regulator : Bool := false
  /-- failed sites (20 R394). -/
  failed : BitVec 72 := 0
  /-- enabled sites (20 R394). -/
  enabled : BitVec 72 := 0
  /-- fastest operating point per cluster (20 R394). -/
  points : BitVec 144 := 0
  /-- failed cache slices (20 R394). -/
  slices : BitVec 80 := 0
  deriving DecidableEq, Repr

/-- A reticle (R12, R13). -/
structure Reticle where
  /-- live (01 R12). -/
  live : Bool := false
  /-- partition descriptor (13 R294). -/
  part : Option PartDesc := none
  /-- XLAT_ROOT (05 R86). -/
  xlatRoot : Dword := 0
  /-- route bank 0 (13 R296). -/
  route0 : Table Dword := []
  /-- route bank 1 (13 R296). -/
  route1 : Table Dword := []
  /-- ROUTE_BANK[0], bank in force (13 R314). -/
  bank : Bool := false
  /-- ROUTE_BANK[1] (13 R314). -/
  armed : Bool := false
  /-- bank a topology change is arming (13 R311). -/
  arming : Option Nat := none
  /-- wafer port 2i (13 R311). -/
  portA : PortState := ({} : PortState)
  /-- wafer port 2i+1 (13 R311). -/
  portB : PortState := ({} : PortState)
  /-- key table (13 R299). -/
  keys : Table KeyEntry := []
  /-- refusal log (20 R380). -/
  rlog : Table (List Byte) := []
  /-- RLOG_HEAD (20 R380). -/
  rlogHead : Word := 0
  /-- unacknowledged packets of the endpoint (13 R305). -/
  tx : List TxPacket := []
  /-- next packet of each ordered job that sends here, by source and tag (13 R305). -/
  rod : List (Nat × Nat) := []
  /-- packets already admitted (source wafer, reticle, sequence number) (13 R305). -/
  rxSeen : List (Nat × Nat × Nat) := []
  /-- packets refused (source wafer, reticle, sequence number) (13 R305, 20 R378). -/
  rxRefused : List (Nat × Nat × Nat) := []
  /-- next packet sequence number (13 R305). -/
  psn : Nat := 0
  /-- site of the core whose job the endpoint engine took last, in round-robin order (11 R259). -/
  epLast : Nat := 71
  /-- upper-level entries that the walker's caches hold, by their fabric address (05 R89). -/
  walkCache : List (Nat × Dword) := []
  /-- addresses logged by the reticle's units (05 R92). -/
  logged : List Dword := []
  /-- launch queue of priority 0 (12 R275). -/
  lq0 : Ring := ({} : Ring)
  /-- launch queue of priority 1 (12 R275). -/
  lq1 : Ring := ({} : Ring)
  /-- launch queue of priority 2 (12 R275). -/
  lq2 : Ring := ({} : Ring)
  /-- launch queue of priority 3 (12 R275). -/
  lq3 : Ring := ({} : Ring)
  /-- SAVE_BASE (12 R275). -/
  saveBase : Dword := 0
  /-- SAVE_SIZE (12 R275). -/
  saveSize : Nat := 0
  /-- save runs in use: first unit, units (12 R289). -/
  saveUsed : List (Nat × Nat) := []
  /-- PREEMPT_WIN (12 R275). -/
  preemptWin : Nat := 1000000
  /-- teams of the current record whose entries are not yet sent (12 R276). -/
  unsent : List Nat := []
  /-- queue of the record whose entries are being sent (12 R276). -/
  serving : Option Nat := none
  /-- EQ_BASE, EQ_CTRL, EQ_HEAD, EQ_TAIL (13 R313). -/
  eq : Ring := ({} : Ring)
  /-- EQ_LOST (13 R313). -/
  eqLost : Word := 0
  /-- sequence number of the next event (13 R313). -/
  eqSeq : Word := 0
  /-- event records that wait for the DRAM of their ring (14 R326). -/
  eqHeld : List (List Byte) := []
  /-- LOAN (14 R315). -/
  loan : Int := 0
  /-- units lent to neighbours: reticle, units (14 R317). -/
  loans : List (Nat × Nat) := []
  /-- loans being recalled: reticle, units not yet returned (14 R317). -/
  recalls : List (Nat × Nat) := []
  /-- free units that a denied raise needs, while an exchange for it runs (14 R317). -/
  wants : Nat := 0
  /-- neighbours still to be asked in the exchange (14 R317). -/
  asks : List Nat := []
  /-- CAPSH (14 R315). -/
  capsh : Nat := 1840
  /-- PWR_DEBT (20 R391). -/
  debt : Nat := 0
  /-- time up to which DEBT is accounted (20 R391). -/
  debtAt : Nat := 0
  /-- the debt has reached 0 and its cap event is still to be posted (20 R391). -/
  debtDone : Bool := false
  /-- last accepted cap message (20 R389). -/
  capMsg : Option CapMsg := none
  /-- end of the lease (14 R318). -/
  capUntil : Option Nat := none
  /-- clusters (01 R13). -/
  clusters : Table Cluster := []
  /-- cache slices (01 R13). -/
  slices : Table Slice := []
  /-- collective unit: collectives in progress (11 R259). -/
  colls : List CollState := []
  /-- chunks waiting for a team that has not issued (13 R309). -/
  chunks : List Packet := []
  /-- the reticle's reference counter less the model's time (00 R7). -/
  refOffset : Dword := 0
  /-- slot index of the next or current slot (14 R324). -/
  slotN : Nat := 0
  /-- start of the next or current slot (14 R324). -/
  slotAt : Nat := 0
  /-- INSLOT (08 R170). -/
  inSlot : Bool := false
  /-- end of the slot in progress (08 R170). -/
  slotEnd : Nat := 0
  /-- housekeeping step running late: step, its end (none known: 0) (20 R392). -/
  lateStep : Option (Nat × Nat) := none
  /-- abandoned steps to retry at the next major slot (20 R392). -/
  retry : List Nat := []
  /-- the endpoint pauses its peers and holds transmissions (14 R326). -/
  pausing : Bool := false
  /-- START_ERR (20 R396). -/
  startErr : BitVec 26 := 0
  /-- defect-map record as of the last start (20 R394). -/
  defect : DefectRec := ({} : DefectRec)
  /-- defects held in the fuses since manufacture (20 R397). -/
  fuses : DefectRec := ({} : DefectRec)
  /-- stored defects, retirements recorded since included (14 R327). -/
  retired : DefectRec := ({} : DefectRec)
  /-- own regulator in band (01 R18). -/
  regOk : Bool := true
  /-- fabric rail: 0 stopped, 1 half, 2 full rate (20 R388). -/
  fabric : Nat := 2
  /-- stitched boundaries down: 0 north, 1 south, 2 west, 3 east (20 R384). -/
  holes : List Nat := []
  /-- boundaries whose broadcast-bus wires failed (20 R384). -/
  busDown : List Nat := []
  /-- sites whose bus switch is closed (01 R22). -/
  bypass : BitVec 72 := 0
  /-- sampled loads of its two ports: queue in 4 KiB units, lit lanes (13 R298). -/
  sampled : List (Nat × Nat) := []
  /-- reference time of its last start (14 R327). -/
  startAt : Nat := 0
  /-- sampled output queues of its stitched links, north, south, west, east, in 4 KiB units (13 R297). -/
  sampledMesh : List Nat := []
  deriving DecidableEq, Repr

/-- A host link (R330). -/
structure HostLink where
  /-- SQ_BASE, SQ_CTRL, SQ_HEAD, SQ_TAIL (14 R330). -/
  sq : Ring := ({} : Ring)
  /-- LINK_ROLE (14 R330). -/
  role : Nat := 0
  /-- MGMT_APER (14 R330). -/
  aper : Dword := 0
  /-- CAP_MSG as last written (14 R318). -/
  capMsg : CapMsg := ({} : CapMsg)
  deriving DecidableEq, Repr

/-- The split or unit whose step is executed: core, group slot, split id, team, reticle and an index (a job, port, cluster, slice, link … as the step's row says), the fetched word (lane words in 96 bits, control words in the low 32), and the packet that a step of a grid barrier or a drain detection brings from another wafer (R273, R304). -/
structure Cur where
  core : Nat := 0
  slot : Nat := 0
  split : Nat := 0
  team : Nat := 0
  ret : Nat := 0
  idx : Nat := 0
  insn : BitVec 96 := 0
  pkt : Option Packet := none
  deriving DecidableEq, Repr

/-- A device step that waits to happen: the unit it concerns and the step. -/
structure Pend where
  unit : Cur := {}
  ins : Instr
  deriving DecidableEq, Repr

/-- A drain detection (R271): grid, rank set, partition, the grid's first two extents, member teams on this wafer, those of other wafers by linear id, those of them that have joined since the sweep in progress asked, the sums of the last sweep, and, where the set spans wafers, whether a sweep has asked the others and the sums of those that have answered. -/
structure Detect where
  grid : Word := 0
  lo : Word := 0
  hi : Word := 0
  part : Nat := 0
  nx : Nat := 0
  ny : Nat := 0
  members : List Nat := []
  away : List Nat := []
  fresh : List Nat := []
  last : Option (Nat × Nat) := none
  asked : Bool := false
  answers : List (Nat × Nat × Nat) := []
  deriving DecidableEq, Repr

/-- A grid barrier on the buses (R273): its grid and partition, the teams whose arrival is counted, those of other wafers whose arrival has come (wafer, reticle, linear id), the teams not yet released, and, of a grid whose team 0 lies on another wafer, the place there and the teams whose arrival has been sent to it. -/
structure GridBar where
  grid : Word := 0
  part : Nat := 0
  total : Nat := 0
  arrived : List Nat := []
  away : List (Nat × Nat × Nat) := []
  release : List Nat := []
  home : Option (Nat × Nat) := none
  sent : List Nat := []
  deriving DecidableEq, Repr

/-- A probe in flight (R293): its key, originating team, copies not yet dropped, whether a cycle was reported, and the record that started it. -/
structure ProbeRun where
  id : Nat := 0
  team : Nat := 0
  copies : Nat := 0
  found : Bool := false
  record : Option Nat := none
  deriving DecidableEq, Repr

/-- A topology change in progress (R311): ports in command order, bank, partition, and its record's address. -/
structure TopoChange where
  ports : List Nat := []
  bank : Nat := 0
  part : Nat := 0
  record : Nat := 0
  deriving DecidableEq, Repr

/-- The machine: one W64 module (R1). -/
structure State where
  /-- the model's reference time (log 3) (00 R7). -/
  now : Nat := 0
  /-- the split or unit whose step is being executed (model's own, log 2) (-). -/
  cur : Cur := ({} : Cur)
  /-- DRAM bytes by fabric address (own wafer and others) (05 R92). -/
  mem : List Host.Cell := []
  /-- cores by reticle × 72 + site (01 R13). -/
  cores : Table Core := []
  /-- reticles (01 R11). -/
  rets : Table Reticle := []
  /-- teams (02 R25). -/
  teams : List (Nat × Team) := []
  /-- launch records in service (12 R276). -/
  launches : List (Nat × Launch) := []
  /-- next team or launch key (model's own) (-). -/
  nextId : Nat := 1
  /-- drain detections running (11 R271). -/
  detects : List Detect := []
  /-- grid barriers on the buses (11 R273). -/
  gbars : List GridBar := []
  /-- probes in flight, for command 0x08 (12 R293). -/
  probes : List ProbeRun := []
  /-- topology changes in progress (13 R311). -/
  changes : List (Nat × TopoChange) := []
  /-- wafer id in force (14 R331). -/
  wafer : Nat := 0
  /-- stored wafer id (14 R331). -/
  waferNext : Nat := 0
  /-- the module's order grade (00 R2). -/
  gradeA : Bool := true
  /-- GRADE met (20 R396). -/
  grade : Nat := 0
  /-- START_STAT[1:0] (14 R327). -/
  startKind : Nat := 0
  /-- START_STAT[7:4] (14 R327). -/
  startStep : Nat := 0
  /-- START_STAT[8] (14 R327). -/
  started : Bool := false
  /-- host link 0 (14 R330). -/
  link0 : HostLink := ({} : HostLink)
  /-- host link 1 (14 R330). -/
  link1 : HostLink := { role := 1 }
  /-- staged enable masks (14 R329). -/
  staged : List (Nat × BitVec 72) := []
  /-- the firmware image that starts run (14 R327). -/
  firmware : List Byte := []
  /-- SHA-256 of the firmware stored at the last verified cold start (14 R327). -/
  measured : Option (List Byte) := none
  /-- CAP_SAFE (20 R390). -/
  capSafe : Nat := 24000
  /-- stored partition descriptors by reticle (14 R327). -/
  storedParts : List (Nat × PartDesc) := []
  /-- ring: position, wafer, core of every live enabled core (02 R38). -/
  ring : List (Nat × Nat × Nat) := []
  /-- packets that have left through ports, newest first (seen by peers) (13 R304). -/
  outbox : List Packet := []
  /-- acknowledgements that have left through ports: wafer, reticle, packet sequence number (seen by peers) (13 R305). -/
  ackbox : List (Nat × Nat × Nat) := []
  /-- ends of teams that another wafer launched: that wafer, GRID, linear team id, lost, by fault (12 R284). -/
  endsOut : List (Nat × Word × Nat × Bool × Bool) := []
  /-- pauses and resumptions sent through ports to their peers, newest first (14 R326). -/
  pausesOut : List (Nat × Bool) := []
  /-- team entries that have left for another wafer: wafer, linear team id, record (12 R276). -/
  entriesOut : List (Nat × Nat × List Byte) := []
  /-- inputs of the outside world still to come, oldest first (model's own) (-). -/
  inbox : List Pend := [{ ins := .coldStart [] }]
  /-- device steps that wait to happen (model's own) (-). -/
  agenda : List Pend := []
  /-- device steps due at a time (model's own) (-). -/
  timers : List (Nat × Pend) := []
  /-- counter of free values drawn (model's own) (-). -/
  freeCount : Nat := 0
  deriving DecidableEq, Repr

/-- Who stops the machine. -/
inductive Fault where
  /-- A control or lane instruction was executed while `cur` names no live split, or a lane instruction while the split has no lane block: an instruction only ever runs in a split (R27), a lane instruction from its queue (R31), and step issues no other; raised by `State.control` and `State.lanes` when exec is asked for such a state. Safe. -/
  | noIssuer
  deriving DecidableEq, Repr

/-- Why an instruction has no meaning. -/
inductive Refusal where
  /-- The constructor's arm is rejected by name: not modelled. Safe. -/
  | notModelled (mnemonic : String)
  deriving DecidableEq, Repr

/-- The machine right after power-on: every register at its reset value, nothing resident, and the cold start of R327 as the one input that is still to come. -/
def State.reset : State := {}

end Sys2Proof.Machine
end

