-- ==== Sys2Proof/Machine/Access.lean ====
section
/-! DEFINITION. Reading and writing the parts of the state: cores, reticles, groups, splits, teams, and what waits. -/

namespace Sys2Proof.Machine

/-- The split or unit of a step. -/
abbrev Here := Cur

/-- The core at reticle × 72 + site. -/
def State.core (s : State) (c : Nat) : Core := tget {} s.cores c

def State.setCore (s : State) (c : Nat) (k : Core) : State := { s with cores := tset {} s.cores c k }

def State.modCore (s : State) (c : Nat) (f : Core → Core) : State := s.setCore c (f (s.core c))

/-- The reticle of index `r`. -/
def State.ret (s : State) (r : Nat) : Reticle := tget {} s.rets r

def State.setRet (s : State) (r : Nat) (x : Reticle) : State := { s with rets := tset {} s.rets r x }

def State.modRet (s : State) (r : Nat) (f : Reticle → Reticle) : State := s.setRet r (f (s.ret r))

/-- The reticle of a core. -/
def retOf (c : Nat) : Nat := c / 72

/-- The site of a core within its reticle (R10). -/
def siteOf (c : Nat) : Nat := c % 72

/-- The cluster of a core within its reticle (R13). -/
def clusterOf (c : Nat) : Nat := siteOf c / 2

def Reticle.cluster (r : Reticle) (k : Nat) : Cluster := tget {} r.clusters k

def State.cluster (s : State) (ret k : Nat) : Cluster := (s.ret ret).cluster k

def State.modCluster (s : State) (ret k : Nat) (f : Cluster → Cluster) : State :=
  s.modRet ret fun r => { r with clusters := tset {} r.clusters k (f (r.cluster k)) }

def State.slice (s : State) (ret k : Nat) : Slice := tget {} (s.ret ret).slices k

def State.modSlice (s : State) (ret k : Nat) (f : Slice → Slice) : State :=
  s.modRet ret fun r => { r with slices := tset {} r.slices k (f (tget {} r.slices k)) }

/-- The port of a wafer port number: the two ports of reticle i are 2i and 2i + 1 (R17). -/
def State.port (s : State) (p : Nat) : PortState :=
  if p % 2 = 0 then (s.ret (p / 2)).portA else (s.ret (p / 2)).portB

def State.setPort (s : State) (p : Nat) (x : PortState) : State :=
  s.modRet (p / 2) fun r => if p % 2 = 0 then { r with portA := x } else { r with portB := x }

def State.modPort (s : State) (p : Nat) (f : PortState → PortState) : State := s.setPort p (f (s.port p))

/-- A team by its key. -/
def State.team? (s : State) (t : Nat) : Option Team := aget s.teams t

def State.team (s : State) (t : Nat) : Team := tget {} s.teams t

def State.setTeam (s : State) (t : Nat) (x : Team) : State := { s with teams := aput s.teams t x }

/-- A change to a team, where the team is. -/
def State.modTeam (s : State) (t : Nat) (f : Team → Team) : State :=
  match s.team? t with
  | some x => s.setTeam t (f x)
  | none => s

/-- A resident group by core and slot. -/
def State.group? (s : State) (c g : Nat) : Option Group := aget (s.core c).groups g

def State.group (s : State) (c g : Nat) : Group := tget {} (s.core c).groups g

def State.setGroup (s : State) (c g : Nat) (x : Group) : State :=
  s.modCore c fun k => { k with groups := aput k.groups g x }

/-- A change to a group, where the group is. -/
def State.modGroup (s : State) (c g : Nat) (f : Group → Group) : State :=
  match s.group? c g with
  | some x => s.setGroup c g (f x)
  | none => s

/-- A live split. -/
def State.split? (s : State) (c g p : Nat) : Option Split :=
  match s.group? c g with
  | some x => aget x.splits p
  | none => none

def Group.setSplit (x : Group) (p : Nat) (y : Split) : Group := { x with splits := aput x.splits p y }

def State.setSplit (s : State) (c g p : Nat) (y : Split) : State := s.modGroup c g fun x => x.setSplit p y

/-- A change to a split, where the split is. -/
def State.modSplit (s : State) (c g p : Nat) (f : Split → Split) : State :=
  match s.split? c g p with
  | some y => s.setSplit c g p (f y)
  | none => s

/-- The group of the step. -/
def State.here (s : State) : Group := s.group s.cur.core s.cur.slot

/-- The split of the step, if it is live. -/
def State.me? (s : State) : Option Split := s.split? s.cur.core s.cur.slot s.cur.split

def State.me (s : State) : Split := (s.me?).getD {}

/-- The team of the group of the step. -/
def State.myTeam (s : State) : Team := s.team s.here.team

def State.modHere (s : State) (f : Group → Group) : State := s.modGroup s.cur.core s.cur.slot f

def State.modMe (s : State) (f : Split → Split) : State := s.modSplit s.cur.core s.cur.slot s.cur.split f

def State.modMyTeam (s : State) (f : Team → Team) : State := s.modTeam s.here.team f

/-- A step that happens once earlier ones are done. -/
def State.post (s : State) (u : Cur) (i : Instr) : State := { s with agenda := s.agenda ++ [⟨u, i⟩] }

/-- A step that the agenda does not already hold. -/
def State.postOnce (s : State) (u : Cur) (i : Instr) : State :=
  if s.agenda.contains ⟨u, i⟩ then s else s.post u i

/-- A step due `d` reference cycles from now. -/
def State.postIn (s : State) (d : Nat) (u : Cur) (i : Instr) : State :=
  { s with timers := insertBy (fun a b => decide (a.1 < b.1)) (s.now + d, ⟨u, i⟩) s.timers }

/-- A drawn free value (log 9 to 12): the counter advances. -/
def State.draw (s : State) : BitVec 32 × State := (Config.freeBits s.freeCount, { s with freeCount := s.freeCount + 1 })

/-- One of `n` things, as the part takes it (log 2); no value is drawn where there is no choice. -/
def State.choose (s : State) (n : Nat) : Nat × State :=
  if n ≤ 1 then (0, s) else (Config.pick s.freeCount % n, { s with freeCount := s.freeCount + 1 })

/-- The reticle's reference counter (R7, R59). -/
def State.refCount (s : State) (r : Nat) : Dword := BitVec.ofNat 64 s.now + (s.ret r).refOffset

/-- The length of slot `n` in reference cycles (R324). -/
def slotLength (n : Nat) : Nat := if n % 16 = 0 then 10000 else 1600

/-- Reference cycles until the next slot starts, 0 during a slot (R170). -/
def State.slotNext (s : State) (r : Nat) : Nat := if (s.ret r).inSlot then 0 else (s.ret r).slotAt - s.now

/-- The length of that slot, or what remains of the slot in progress (R170). -/
def State.slotLen (s : State) (r : Nat) : Nat :=
  if (s.ret r).inSlot then (s.ret r).slotEnd - s.now else slotLength (s.ret r).slotN

/-- The slot word (R170): `INSLOT` in [1], `MAJOR` in [0]. -/
def State.slotWord (s : State) (r : Nat) : Nat :=
  (if (s.ret r).inSlot then 2 else 0) + (if (s.ret r).slotN % 16 = 0 then 1 else 0)

/-- The lane cycle of a core's cluster (R7). -/
def State.cycleOf (s : State) (c : Nat) : Nat := (s.cluster (retOf c) (clusterOf c)).laneAt

/-- The lane cycle of the step's core. -/
def State.cycle (s : State) : Nat := s.cycleOf s.cur.core

/-- The 64-bit packing of a core's place (R38). -/
def State.place (s : State) (c : Nat) : Nat := s.wafer * 8192 + retOf c * 128 + siteOf c

end Sys2Proof.Machine
end

