-- ==== Sys2Proof/Machine/Memory.lean ====
section
/-! DEFINITION. Memory: the fields of page tables (R85, R87), the fabric map and the core windows (R92–R94), the L1 and the scratchpad (R95, R96), home slices, leases and grit (R98–R102), lost lines (R376). -/

namespace Sys2Proof.Machine

/-- A fault and its detail (R352, R353); `fa` is the fabric address of an access error, which a unit logs (R92). -/
structure Flt where
  code : Nat := 0
  field : Nat := 0
  laneAt : Nat := 0
  addr : Nat := 0
  info : Nat := 0
  x0 : Nat := 0
  x1 : Nat := 0
  x2 : Nat := 0
  x3 : Nat := 0
  aux : Nat := 0
  fa : Nat := 0
  deriving DecidableEq, Repr

/-! ### Plain bytes -/

/-- A byte of DRAM by fabric address; a byte that nothing has written reads 0 (log 5). -/
def State.memByte (s : State) (a : Nat) : Byte := tget 0 s.mem a

/-- Writes a byte of DRAM, keeping the canonical form. -/
def State.setMem (s : State) (a : Nat) (b : Byte) : State := { s with mem := tset 0 s.mem a b }

/-- The memory is in canonical form: addresses strictly rise and no entry equals what an unlisted address reads. -/
abbrev Memory.wf (m : List Host.Cell) : Bool := twf (0 : Byte) m

/-- A scratchpad byte of a core (R95). -/
def State.scratchByte (s : State) (c a : Nat) : Byte := tget 0 (s.core c).scratch a

def State.setScratch (s : State) (c a : Nat) (b : Byte) : State :=
  s.modCore c fun k => { k with scratch := tset 0 k.scratch a b }

/-- `n` bytes from `f`, starting at `a`. -/
def readN (f : Nat → Byte) (a : Nat) : Nat → List Byte
  | 0 => []
  | n + 1 => f a :: readN f (a + 1) n

/-- Bytes written one by one from address `a`. -/
def writeN (w : State → Nat → Byte → State) (s : State) (a : Nat) : List Byte → State
  | [] => s
  | b :: l => writeN w (w s a b) (a + 1) l

/-! ### Fabric addresses (R92) -/

def faWafer (a : Nat) : Nat := bitsOf a 55 42
def faRet (a : Nat) : Nat := bitsOf a 41 36
def faOff (a : Nat) : Nat := a % 2 ^ 36

/-- A fabric address of a reticle of the own wafer. -/
def State.fa (s : State) (ret off : Nat) : Nat := s.wafer * 2 ^ 42 + ret * 2 ^ 36 + off

/-- Where a fabric address leads (R92, R93). -/
inductive Target where
  | dram
  | window (core off : Nat)
  | privileged
  | unassigned
  deriving DecidableEq, Repr

/-- A core-window offset that is assigned and not privileged (R93), for a core with `sp` bytes of scratchpad. -/
def windowAssigned (sp off : Nat) : Bool :=
  decide (off < 0x100000) || (decide (0x100000 ≤ off) && decide (off < 0x100000 + sp))
  || (decide (0x200000 ≤ off) && decide (off < 0x241000))

/-- The target of a fabric address. A window of another wafer lies outside the module (log 1): what is written to it is kept like memory. -/
def State.target (s : State) (a : Nat) : Target :=
  let o := faOff a
  if o < 0xC00000000 then .dram
  else if o < 0xF00000000 then .unassigned
  else if o < 0xF12000000 then
    let n := (o - 0xF00000000) / 0x400000
    let w := (o - 0xF00000000) % 0x400000
    let c := faRet a * 72 + n
    if 0x300000 ≤ w ∧ w < 0x310000 then .privileged
    else if windowAssigned ((16 - (s.core c).l1ways) * 65536) w then
      (if faWafer a = s.wafer then .window c w else .dram)
    else .unassigned
  else if o < 0xF12700000 then .privileged
  else .unassigned

/-! ### Core windows (R93, R94) -/

/-- Lane L of a register's contents (R46). -/
def RegVal.lane (v : RegVal) (l : Nat) : Word :=
  match v with
  | .uniform w => w
  | .affine b s => b + BitVec.ofNat 32 l * s
  | .general ws => ws.getD l 0

/-- A register's 32 lane values. -/
def RegVal.words (v : RegVal) : List Word := lanes32.map v.lane

/-- The shape code of R46. -/
def RegVal.shape : RegVal → Nat
  | .uniform _ => 0
  | .affine _ _ => 1
  | .general _ => 2

/-- The tag word of R51. -/
def GReg.tagWord (g : GReg) : Word := BitVec.ofNat 32 (g.val.shape * 256 + g.tag.toNat)

def Core.reg (k : Core) (i : Nat) : GReg := tget {} k.mrf i
def Core.setReg (k : Core) (i : Nat) (g : GReg) : Core := { k with mrf := tset {} k.mrf i g }
def Core.tile (k : Core) (i : Nat) : Tile := tget {} k.acc i
def Core.setTile (k : Core) (i : Nat) (t : Tile) : Core := { k with acc := tset {} k.acc i t }

/-- The metadata word of a tile (R54). -/
def TileMeta.word (m : TileMeta) : Dword :=
  BitVec.ofNat 64 (m.tag.toNat + (if m.sat then 0x100 else 0) + (if m.skip then 0x200 else 0)
    + (if m.pend then 0x400 else 0) + m.partner.toNat * 2 ^ 16 + m.thr.toNat * 2 ^ 32 + m.silt.toNat * 2 ^ 48)

/-- A metadata word as fields; reserved bits are dropped. -/
def TileMeta.ofWord (w : Dword) : TileMeta :=
  { silt := w.extractLsb' 48 16, thr := w.extractLsb' 32 16, partner := w.extractLsb' 16 8, pend := w.getLsbD 10, skip := w.getLsbD 9, sat := w.getLsbD 8, tag := w.extractLsb' 0 2 }

/-- A word with byte `k` replaced. -/
def putByte (w : Word) (k : Nat) (b : Byte) : Word :=
  BitVec.ofNat 32 (natLE (setAt (bytesLE 4 w.toNat) k b))

/-- A byte of a core window (R93). -/
def Core.windowByte (k : Core) (off : Nat) : Byte :=
  if off < 0x100000 then byteOf ((k.reg (off / 128)).val.lane (off % 128 / 4)) (off % 4)
  else if off < 0x200000 then tget 0 k.scratch (off - 0x100000)
  else if off < 0x240000 then
    byteOf (tget 0 (k.tile ((off - 0x200000) / 2048)).elems (off % 2048 / 4)) (off % 4)
  else if off < 0x240400 then
    BitVec.ofNat 8 ((k.tile ((off - 0x240000) / 8)).info.word.toNat / 256 ^ (off % 8))
  else if off < 0x240408 then BitVec.ofNat 8 (k.tagidx.toNat / 256 ^ (off % 8))
  else if off < 0x240410 then BitVec.ofNat 8 ((k.reg k.tagidx.toNat).tagWord.toNat / 256 ^ (off % 8))
  else 0

/-- A byte written to a core window (R94): a register is first expanded to general; the tag word is read only; reserved ranges ignore writes. R94 says that a write of a metadata word replaces it whole, and no rule says what a write of some of its bytes does: the bytes written stand in the old word (log 81, a choice of the model). -/
def Core.setWindowByte (k : Core) (off : Nat) (b : Byte) : Core :=
  if off < 0x100000 then
    let g := k.reg (off / 128)
    let ws := g.val.words
    let l := off % 128 / 4
    k.setReg (off / 128) { g with val := .general (setAt ws l (putByte (ws.getD l 0) (off % 4) b)) }
  else if off < 0x200000 then { k with scratch := tset 0 k.scratch (off - 0x100000) b }
  else if off < 0x240000 then
    let j := (off - 0x200000) / 2048
    let t := k.tile j
    let e := off % 2048 / 4
    k.setTile j { t with elems := tset 0 t.elems e (putByte (tget 0 t.elems e) (off % 4) b) }
  else if off < 0x240400 then
    let j := (off - 0x240000) / 8
    let t := k.tile j
    k.setTile j { t with info := TileMeta.ofWord (BitVec.ofNat 64 (natLE (setAt (bytesLE 8 t.info.word.toNat) (off % 8) b))) }
  else if off < 0x240408 then
    { k with tagidx := BitVec.ofNat 13 (natLE (setAt (bytesLE 8 k.tagidx.toNat) (off % 8) b)) }
  else k

/-! ### Translation (R85–R91) -/

/-- The outcome of a translation: a fabric address with its leaf, the level at fault (R353), or the error response that the walker took where it read an entry (R376, R388). -/
inductive Xlt where
  | ok (fa : Nat) (pte : Dword)
  | fault (level : Nat)
  | error (fa : Nat)
  deriving DecidableEq, Repr

/-- An entry with no reserved bit set and an assigned ATTR (R88); FADDR reaches bit 16. -/
def pteSound (e : Dword) : Bool :=
  e.getLsbD 0 && decide (e.toNat / 2 ^ 56 = 0) && decide (bitsOf e.toNat 15 10 = 0)
  && !e.getLsbD 6 && !e.getLsbD 2 && decide (bitsOf e.toNat 9 8 < 2)

/-- The fabric address that an entry names (R87). -/
def pteAddr (e : Dword) : Nat := bitsOf e.toNat 55 16 * 65536

/-- The index bits of a level (R85). -/
def levelIndex (level va : Nat) : Nat :=
  match level with
  | 3 => bitsOf va 56 47
  | 2 => bitsOf va 46 36
  | 1 => bitsOf va 35 25
  | _ => bitsOf va 24 16

/-- The bytes of a table of a level (R85). -/
def tableSize (level : Nat) : Nat :=
  match level with
  | 3 => 8192
  | 2 => 16384
  | 1 => 16384
  | _ => 4096

/-- The partition of a reticle; none is 256. -/
def State.partOf (s : State) (r : Nat) : Nat :=
  match (s.ret r).part with
  | some p => p.id
  | none => 256

/-- A TLB entry covers a virtual address (R89). -/
def TlbEntry.hits (e : TlbEntry) (part va : Nat) : Bool :=
  decide (e.part = part) && (if e.big then decide (e.vpage / 512 = va / 2 ^ 25) else decide (e.vpage = va / 65536))

/-! ### Partitions at the source (R295) -/

/-- Reticle `r` lies in the rectangle of a partition (R294). -/
def PartDesc.holds (p : PartDesc) (r : Nat) : Bool :=
  let x := r % 8
  let y := r / 8
  decide (p.x0 ≤ x) && decide (x < p.x0 + p.w) && decide (p.y0 ≤ y) && decide (y < p.y0 + p.h)

/-- A fabric address lies inside the partition of reticle `r` (R294, R295): its wafer is of the wafer set, and its reticle of the rectangle, which is the same on each wafer. -/
def State.inPart (s : State) (r fa : Nat) : Bool :=
  match (s.ret r).part with
  | none => false
  | some p => p.holds (faRet fa) && (decide (faWafer fa = s.wafer) || p.wafers.contains (faWafer fa))

/-! ### Lost lines (R376) -/

/-- The home slice of a DRAM offset (R98). -/
def sliceOf (fa : Nat) : Nat := faOff fa / 128 % 80

/-- The first fabric address of a line. -/
def lineBase (line : Nat) : Nat := line * 128

/-- The reticle answers requests: it is live and its own regulator is in band (R388). -/
def Reticle.answers (r : Reticle) : Bool := r.live && r.regOk

/-- The reticle of an address is not live or has lost its compute rail: its slices and DRAM do not serve (R12), and its routers answer with errors (R388). -/
def State.dark (s : State) (fa : Nat) : Bool := decide (faWafer fa = s.wafer) && !((s.ret (faRet fa)).live && (s.ret (faRet fa)).regOk)

/-- An access to the line takes an error response: the line is listed, the slice's table is full (R376), or nothing answers there. -/
def State.lost (s : State) (fa : Nat) : Bool :=
  s.dark fa || decide (faWafer fa = s.wafer) && (
    let t := (s.slice (faRet fa) (sliceOf fa)).lost
    decide (64 ≤ t.length) || t.any (fun e => decide (e.2.toNat = faOff fa / 128 * 128 + 1)))

/-- The line leaves its slice's lost-line table (R376). -/
def State.unlose (s : State) (fa : Nat) : State :=
  s.modSlice (faRet fa) (sliceOf fa) fun x =>
    { x with lost := x.lost.filter (fun e => decide (e.2.toNat ≠ faOff fa / 128 * 128 + 1)) }

/-- A memory error log entry (R377). -/
def melogEntry (addr storage status bit : Nat) (time : Dword) (grid : Word) (team : Nat) : List Byte :=
  bytesLE 8 addr ++ bytesLE 1 storage ++ bytesLE 1 status ++ bytesLE 2 bit ++ bytesLE 8 time.toNat
    ++ bytesLE 4 grid.toNat ++ bytesLE 4 team ++ bytesLE 4 0

/-- GRID and linear team id of the group of the step, or 0 and all ones (R377). -/
def State.whoseAccess (s : State) : Word × Nat :=
  match s.group? s.cur.core s.cur.slot with
  | some g => ((s.team g.team).lrec.grid, (s.team g.team).lin)
  | none => (0, 0xFFFFFFFF)

/-- An entry of a slice's memory error log (R377). -/
def State.logSlice (s : State) (fa storage status bit : Nat) : State :=
  let w := s.whoseAccess
  s.modSlice (faRet fa) (sliceOf fa) fun x =>
    { x with melog := aput x.melog (x.melogHead.toNat % 32) (melogEntry fa storage status bit (s.refCount (faRet fa)) w.1 w.2), melogHead := x.melogHead + 1 }

/-- An entry of a core's memory error log (R377). -/
def State.logCoreError (s : State) (c off storage status bit : Nat) : State :=
  let w := s.whoseAccess
  s.modCore c fun k =>
    { k with melog := aput k.melog (k.melogHead.toNat % 32) (melogEntry off storage status bit (s.refCount (retOf c)) w.1 w.2), melogHead := k.melogHead + 1 }

/-! ### Lines in a slice (R98, R99) -/

/-- The tag of a line in its home slice: of one that the slice does not hold, that of a new tag (R100). -/
def State.lineTag (s : State) (fa : Nat) : SliceTag :=
  if faWafer fa = s.wafer then tget {} (s.slice (faRet fa) (sliceOf fa)).lines (faOff fa / 128) else {}

/-- The line's home slice, on this wafer, holds it. -/
def State.held (s : State) (fa : Nat) : Bool :=
  decide (faWafer fa = s.wafer) && (aget (s.slice (faRet fa) (sliceOf fa)).lines (faOff fa / 128)).isSome

/-- A change to the tag of a line that its slice holds. -/
def State.modTag (s : State) (fa : Nat) (f : SliceTag → SliceTag) : State :=
  if s.held fa then
    s.modSlice (faRet fa) (sliceOf fa) fun x => { x with lines := x.lines.map fun e => if e.1 = faOff fa / 128 then (e.1, f e.2) else e }
  else s

/-- The `n`-byte words of a line. -/
def wordsOf (n : Nat) (l : List Byte) : List Nat := (List.range (128 / n)).map fun i => natLE ((l.drop (n * i)).take n)

/-- Every word is one base plus a signed delta of `d` bits, modulo 2^w; the base is any word (log 82). -/
def deltas (w d : Nat) (l : List Nat) : Bool :=
  l.any fun low => l.all fun (x : Nat) => decide ((x + 2 ^ w - low) % 2 ^ w < 2 ^ d)

/-- The base-delta encodings of R99: the condition on the line, and the bytes it is stored in. -/
def encodings : List ((List Byte → Bool) × Nat) :=
  [(fun l => l.all fun b => decide (b = 0), 0),
   (fun l => let w := wordsOf 8 l; w.all fun x => decide (x = w.headD 0), 8),
   (fun l => deltas 64 8 (wordsOf 8 l), 24),
   (fun l => deltas 32 8 (wordsOf 4 l), 36),
   (fun l => deltas 64 16 (wordsOf 8 l), 40)]

/-- The bytes in which a slice stores a line: those of its first encoding, or all 128 (R99). -/
def storedBytes (l : List Byte) : Nat :=
  match encodings.find? fun e => e.1 l with
  | some e => e.2
  | none => 128

/-- The fabric address of a line of a reticle's DRAM. -/
def State.lineAt (s : State) (ret line : Nat) : Nat := s.fa ret (line * 128)

/-- The data entries that the lines of a slice take: two lines of 64 stored bytes or less share one (R99). -/
def State.dataEntries (s : State) (ret : Nat) (l : List (Nat × SliceTag)) : Nat :=
  let small := (l.filter fun e => decide (storedBytes (readN s.memByte (s.lineAt ret e.1) 128) ≤ 64)).length
  l.length - small + (small + 1) / 2

/-- The lines fit: 10,240 tags, and 5,120 data entries of 128 bytes (R98, R99). -/
def State.sliceFits (s : State) (ret : Nat) (l : List (Nat × SliceTag)) : Bool :=
  decide (l.length ≤ 5120) || (decide (l.length ≤ 10240) && decide (s.dataEntries ret l ≤ 5120))

/-- Bytes of one line performed at its home slice. A lost line takes them only when they cover it whole, which ends its listing; otherwise they are dropped and logged (R376). -/
def State.putLine (s : State) (line : Nat) (l : List (Nat × Byte)) : State :=
  if s.dark (lineBase line) then s
  else if !s.lost (lineBase line) then l.foldl (fun s e => s.setMem e.1 e.2) s
  else if (List.range 128).all (fun i => l.any fun e => decide (e.1 = lineBase line + i)) then
    l.foldl (fun s e => s.setMem e.1 e.2) (s.unlose (lineBase line))
  else s.logSlice (lineBase line) 11 2 0xFFFF

/-- The dirty bytes of a line, with their places in the line. -/
def L1Line.dirtyBytes (l : L1Line) : List (Nat × Byte) :=
  (List.range 128).filterMap fun i => if l.dirty.getLsbD i then some (i, tget 0 l.data i) else none

/-- A line's bytes leave core `c` for another reticle or wafer, and are performed there: sent and done for the team that stored them (R270; log 83). -/
def State.countLine (s : State) (c t line : Nat) : State :=
  if faRet (lineBase line) = retOf c ∧ faWafer (lineBase line) = s.wafer then s
  else s.modTeam t fun x => { x with snt := x.snt + 1, don := x.don + 1 }

def Core.line? (k : Core) (line : Nat) : Option L1Line := k.l1.find? (fun l => decide (l.line = line))

def Core.dropLine (k : Core) (line : Nat) : Core := { k with l1 := k.l1.filter (fun l => decide (l.line ≠ line)) }

/-- The line becomes the core's most recent one. -/
def Core.putLine (k : Core) (l : L1Line) : Core := { k with l1 := l :: (k.dropLine l.line).l1 }

/-- A lease is recalled (R102): dirty bytes written back, the L1 copy dropped, grit plus 4 saturating at 15 (R100). -/
def State.recallLease (s : State) (fa : Nat) : State :=
  match (s.lineTag fa).lessee with
  | none => s
  | some c =>
    let wrote := match (s.core c).line? (fa / 128) with
      | some l => decide (l.dirty ≠ 0)
      | none => false
    let s := match (s.core c).line? (fa / 128) with
      | some l =>
        let s := if l.dirty = 0 then s else (s.countLine c l.team l.line).putLine l.line (l.dirtyBytes.map fun (e : Nat × Byte) => (lineBase l.line + e.1, e.2))
        s.modCore c fun k => k.dropLine l.line
      | none => s
    s.modTag fa fun t => { t with lessee := none, grit := min 15 (t.grit + 4), dirty := t.dirty || wrote }

/-- A line leaves its slice: a lease on it is recalled first, and its tag is gone with it (R100, R102). -/
def State.dropFromSlice (s : State) (fa : Nat) : State :=
  (s.recallLease fa).modSlice (faRet fa) (sliceOf fa) fun x => { x with lines := adel x.lines (faOff fa / 128) }

/-- Lines leave a slice, at most `n` of them, until the rest fit; which goes is the part's choice among all but the most recent (log 82). -/
def State.trimSlice (s : State) (ret k : Nat) : Nat → State
  | 0 => s
  | n + 1 =>
    let l := (s.slice ret k).lines
    if s.sliceFits ret l then s
    else
      let old := (l.drop 1).map Prod.fst
      match old[Config.sliceVictim old % old.length]? with
      | some x => (s.dropFromSlice (s.lineAt ret x)).trimSlice ret k n
      | none => s

/-- An access reaches a line of DRAM at its home slice, which holds it from then on as its most recent (R98). -/
def State.cacheLine (s : State) (fa : Nat) (write : Bool) : State :=
  if faWafer fa = s.wafer ∧ faOff fa < 0xC00000000 ∧ s.dark fa = false then
    let t := s.lineTag fa
    let s := s.modSlice (faRet fa) (sliceOf fa) fun x =>
      { x with lines := (faOff fa / 128, { t with dirty := t.dirty || write }) :: adel x.lines (faOff fa / 128) }
    s.trimSlice (faRet fa) (sliceOf fa) (s.slice (faRet fa) (sliceOf fa)).lines.length
  else s

/-- Bytes performed at their home slices, line by line. -/
def State.putBytes (s : State) (l : List (Nat × Byte)) : State :=
  ((l.map fun e => e.1 / 128).eraseDups).foldl (fun s line => (s.putLine line (l.filter fun e => decide (e.1 / 128 = line))).cacheLine (lineBase line) true) s

/-- The slice serves an access to a line by an agent: a core, or none for every other agent. A lease of another core is recalled first (R102). -/
def State.serve (s : State) (agent : Option Nat) (fa : Nat) : State :=
  (match (s.lineTag fa).lessee with
    | none => s
    | some c => if agent = some c then s else s.recallLease fa).cacheLine fa false

/-- The slices serve an access to the lines of several bytes. -/
def State.serveAll (s : State) (agent : Option Nat) (l : List Nat) : State :=
  ((l.map (· / 128)).eraseDups).foldl (fun s line => s.serve agent (lineBase line)) s

/-- The dirty bytes of a line of core `c` reach their home slice (R96), which recalls a lease of another core first (R102). -/
def State.writeBackBytes (s : State) (c : Nat) (l : L1Line) : State :=
  if l.dirty = 0 then s
  else ((s.serve (some c) (lineBase l.line)).countLine c l.team l.line).putBytes (l.dirtyBytes.map fun e => (lineBase l.line + e.1, e.2))

/-- A byte read where it lives: DRAM, or window storage. -/
def State.homeByte (s : State) (fa : Nat) : Byte :=
  match s.target fa with
  | .window c off => (s.core c).windowByte off
  | _ => s.memByte fa

/-- A fabric address leads to window storage. -/
def State.isWindow (s : State) (fa : Nat) : Bool :=
  match s.target fa with
  | .window _ _ => true
  | _ => false

/-- A byte of window storage written. -/
def State.setWindow (s : State) (fa : Nat) (b : Byte) : State :=
  match s.target fa with
  | .window c off => if s.dark fa then s else s.modCore c fun k => k.setWindowByte off b
  | _ => s

/-- The byte that an agent's read at home gives: where another core leases the line, what its recall leaves (R102). -/
def State.seenByte (s : State) (agent : Option Nat) (fa : Nat) : Byte :=
  match (s.lineTag fa).lessee with
  | none => s.homeByte fa
  | some c =>
    if agent = some c then s.homeByte fa
    else match (s.core c).line? (fa / 128) with
      | some l => if l.dirty.getLsbD (fa % 128) then tget 0 l.data (fa % 128) else s.homeByte fa
      | none => s.homeByte fa

/-- Bytes as they stand at home; those of another wafer come from it, and are free (log 1). -/
def State.readHomes (s : State) : List Nat → List Byte × State
  | [] => ([], s)
  | a :: l =>
    let d : Byte × State := if faWafer a = s.wafer then (s.homeByte a, s) else (s.draw.1.setWidth 8, s.draw.2)
    let r := d.2.readHomes l
    (d.1 :: r.1, r.2)

/-- Bytes read at home by an agent, leases recalled first. -/
def State.homeReads (s : State) (agent : Option Nat) (l : List Nat) : List Byte × State := (s.serveAll agent l).readHomes l

/-- Bytes written where they live by an agent, leases recalled first. -/
def State.homeWrites (s : State) (agent : Option Nat) (l : List (Nat × Byte)) : State :=
  let s := s.serveAll agent (l.map Prod.fst)
  let s := (l.filter fun e => s.isWindow e.1).foldl (fun s e => s.setWindow e.1 e.2) s
  s.putBytes (l.filter fun e => !s.isWindow e.1)

/-- A DRAM access that would wait in its slice: the reticle is in a maintenance slot, and the slice does not hold the line (R103, R326). -/
def State.slotWaits (s : State) (fa : Nat) : Bool :=
  decide (faWafer fa = s.wafer) && decide (faOff fa < 0xC00000000) && (s.ret (faRet fa)).inSlot && !s.held fa

/-! ### The L1 (R96) -/

/-- The lines an L1 holds: 512 for each way. -/
def Core.l1Lines (k : Core) : Nat := k.l1ways * 512

/-- The least recently used line leaves a full L1, its dirty bytes written back and its lease ended (R96, R101). -/
def State.evictLine (s : State) (c : Nat) (l : L1Line) : State :=
  let s := (s.writeBackBytes c l).modCore c fun k => k.dropLine l.line
  if l.lease then s.modTag (lineBase l.line) fun t => { t with lessee := none } else s

def State.makeRoom (s : State) (c : Nat) : State :=
  let k := s.core c
  if k.l1.length < k.l1Lines then s
  else match k.l1.getLast? with
    | some l => s.evictLine c l
    | none => s

/-- The way that a new line takes: the first with room from the one that the part gives the line (R97; log 82). -/
def Core.freeWay (k : Core) (line : Nat) : Nat :=
  let w := ((List.range k.l1ways).map fun i => (Config.l1Way line + i) % k.l1ways).find? fun w => decide ((k.l1.filter fun l => decide (l.way = w)).length < 512)
  w.getD 0

/-- The core's line, present or new and empty, as its most recent (R96: a miss allocates without reading memory). -/
def State.touchLine (s : State) (c line : Nat) : State :=
  match (s.core c).line? line with
  | some l => s.modCore c fun k => k.putLine l
  | none => (s.makeRoom c).modCore c fun k => k.putLine { line := line, way := k.freeWay line }

/-- The data of a line with byte `i` valid. -/
def L1Line.fillByte (l : L1Line) (i : Nat) (b : Byte) : L1Line :=
  if l.dirty.getLsbD i then l else { l with data := tset 0 l.data i b }

/-- A line fetched from its home slice; the fill keeps the dirty bytes (R96). -/
def State.fillLine (s : State) (c line : Nat) : State :=
  let r := ((s.serve (some c) (lineBase line)).touchLine c line).readHomes ((List.range 128).map (lineBase line + ·))
  r.2.modCore c fun k =>
    match k.line? line with
    | some l =>
      k.putLine { ((List.range 128).zip r.1).foldl (fun l (e : Nat × Byte) => l.fillByte e.1 e.2) l with valid := BitVec.allOnes 128 }
    | none => k

/-- Every byte of the list that lies in the line is valid in the core's L1. -/
def Core.validBytes (k : Core) (bytes : List Nat) : Bool :=
  bytes.all fun a => match k.line? (a / 128) with
    | some l => l.valid.getLsbD (a % 128)
    | none => false

/-- The core's L1 holds every byte of the list, lines fetched where a requested byte is not valid (R96). -/
def State.ensure (s : State) (c : Nat) (bytes : List Nat) : State :=
  bytes.foldl (fun s a => if (s.core c).validBytes [a] then s.touchLine c (a / 128) else s.fillLine c (a / 128)) s

/-- A byte of the core's L1. -/
def Core.l1Byte (k : Core) (a : Nat) : Byte :=
  match k.line? (a / 128) with
  | some l => tget 0 l.data (a % 128)
  | none => 0

/-- A byte stored in the L1 for a team: written, valid and dirty (R96). -/
def State.l1Store (s : State) (c t a : Nat) (b : Byte) : State :=
  (s.touchLine c (a / 128)).modCore c fun k =>
    match k.line? (a / 128) with
    | some l =>
      let m : BitVec 128 := 1#128 <<< (a % 128)
      k.putLine { l with data := tset 0 l.data (a % 128) b, valid := l.valid ||| m, dirty := l.dirty ||| m, team := t }
    | none => k

/-- The line's dirty bytes reach home and are clean then (R96). -/
def State.cleanLine (s : State) (c : Nat) (l : L1Line) (keep : BitVec 128) : State :=
  let s := s.writeBackBytes c { l with dirty := l.dirty &&& ~~~keep }
  s.modCore c fun k => { k with l1 := k.l1.map fun x => if x.line = l.line then { x with dirty := x.dirty &&& keep } else x }

/-- A core's own copy of a line leaves its L1 before an access of the core that bypasses the L1, so that the two take effect in order (R107). -/
def State.bypass (s : State) (c fa : Nat) : State :=
  match (s.core c).line? (fa / 128) with
  | some l => s.evictLine c l
  | none => s

/-- Bytes read by a core: through its L1 on a cached page, at home otherwise (R96). -/
def State.loadBytes (s : State) (c : Nat) (cached : Bool) (bytes : List Nat) : List Byte × State :=
  if cached then
    let s := s.ensure c bytes
    (bytes.map (s.core c).l1Byte, s)
  else (bytes.foldl (fun s a => s.bypass c a) s).homeReads (some c) bytes

/-- The lines outside the core's reticle that bytes lie in. -/
def State.linesAway (s : State) (c : Nat) (bytes : List Nat) : Nat :=
  (((bytes.map (· / 128)).eraseDups).filter fun line => decide (faRet (lineBase line) ≠ retOf c) || decide (faWafer (lineBase line) ≠ s.wafer)).length

/-- Lines of uncached stores of a team leave its core, or are performed at home (R270). -/
def State.countSent (s : State) (t n : Nat) : State := if n = 0 then s else s.modTeam t fun x => { x with snt := x.snt + BitVec.ofNat 48 n }
def State.countDone (s : State) (t n : Nat) : State := if n = 0 then s else s.modTeam t fun x => { x with don := x.don + BitVec.ofNat 48 n }

/-- Bytes written by a core for a team. -/
def State.storeBytes (s : State) (c t : Nat) (cached : Bool) (bytes : List (Nat × Byte)) : State :=
  if cached then bytes.foldl (fun s e => s.l1Store c t e.1 e.2) s
  else (bytes.foldl (fun s e => s.bypass c e.1) s).homeWrites (some c) bytes

/-- The lines that bytes lie in were reached through the virtual page of `va` and the next: a range of virtual addresses covers them through it (R115, R148). -/
def State.notePages (s : State) (c va : Nat) (bytes : List Nat) : State :=
  let at' := bytes.mapIdx fun i a => (a / 128, (va + i) / 65536 % 65536)
  s.modCore c fun k => { k with l1 := k.l1.map fun l =>
    { l with pages := ((at'.filter fun (e : Nat × Nat) => decide (e.1 = l.line)).map Prod.snd).foldl (fun p v => if p.contains v then p else v :: p) l.pages } }

end Sys2Proof.Machine
end

