-- ==== Sys2Proof/Machine/Route.lean ====
section
/-! DEFINITION. The route selector: ports, mesh paths, loads and costs (R19, R296–R298). -/

namespace Sys2Proof.Machine

/-- Lanes in a lane set. -/
def laneCount (l : BitVec 4) : Nat := ((List.range 4).filter l.getLsbD).length

/-- A port whose state is up: 8, or 7 under the bank in force (R311). -/
def PortState.up (x : PortState) : Bool := (decide (x.st = 8) || decide (x.st = 7)) && decide (x.lit ≠ 0)

/-- A port that a packet of reticle `r` may choose (R295, R296). -/
def State.usable (s : State) (r p : Nat) : Bool :=
  (s.ret (p / 2)).live && decide (s.partOf (p / 2) = s.partOf r) && decide (s.partOf r ≠ 256) && (s.port p).up

/-- The ports of a route table entry (R296). -/
def entryPorts (e : Nat) : List Nat := ((List.range 4).filter fun n => bitOf e (56 + n)).map fun n => bitsOf e (34 + 7 * n) (28 + 7 * n)

/-- The usable ports of the lowest entry for a wafer in a bank (R296). -/
def State.portsTo (s : State) (r : Nat) (bank : Bool) (wafer : Nat) : List Nat :=
  let t := if bank then (s.ret r).route1 else (s.ret r).route0
  match (List.range 256).find? fun i => let e := (tget 0 t i).toNat; decide (e % 2 ^ 14 = wafer) && decide (bitsOf e 59 56 ≠ 0) with
  | some i => ((entryPorts (tget 0 t i).toNat).filter (s.usable r)).eraseDups
  | none => []

/-- Distance of two numbers. -/
def apart (a b : Nat) : Nat := (a - b) + (b - a)

/-- Mesh hops between reticles (R297). -/
def hops (a b : Nat) : Nat := apart (a % 8) (b % 8) + apart (a / 8) (b / 8)

/-- The reticles behind `u` on the straight way to `v`, in steps of `k`. -/
def straight (u v k : Nat) : List Nat := (List.range (apart u v / k)).map fun i => if u < v then u + k * (i + 1) else u - k * (i + 1)

/-- The path along the row first, or along the column first (R297). -/
def meshPath (rowFirst : Bool) (a b : Nat) : List Nat :=
  let c := if rowFirst then b % 8 + a / 8 * 8 else a % 8 + b / 8 * 8
  a :: (if rowFirst then straight a c 1 ++ straight c b 8 else straight a c 8 ++ straight c b 1)

/-- The boundary of `a` towards its neighbour `b`: 0 north, 1 south, 2 west, 3 east. -/
def boundary (a b : Nat) : Nat := if b = a + 1 then 3 else if a = b + 1 then 2 else if a < b then 1 else 0

/-- Every router of a path runs and no boundary on it is a hole (R19, R297, R384). -/
def State.pathOk (s : State) : List Nat → Bool
  | [] => true
  | a :: l => decide ((s.ret a).fabric ≠ 0) && (match l with
    | b :: _ => !(s.ret a).holes.contains (boundary a b)
    | [] => true) && s.pathOk l

/-- The mesh carries a packet between two reticles (R297). -/
def State.meshOk (s : State) (a b : Nat) : Bool := s.pathOk (meshPath true a b) || s.pathOk (meshPath false a b)

/-- The sampled load of a port: its queue in 4 KiB units and its lit lanes (R298). -/
def State.portLoad (s : State) (p : Nat) : Nat × Nat :=
  ((s.ret (p / 2)).sampled[p % 2]?).getD (0, laneCount (s.port p).lit)

/-- The cost of a port from a reticle (R298). -/
def State.portCost (s : State) (r p : Nat) : Nat :=
  let q := s.portLoad p
  40 + 8 * hops r (p / 2) + 4 * q.1 / max 1 q.2

/-- The path that the mesh gives a packet: row first, or column first where that one is not usable (R297). -/
def State.meshWay (s : State) (a b : Nat) : List Nat :=
  if s.pathOk (meshPath true a b) then meshPath true a b else meshPath false a b

/-- The boundary by which a packet from `a` to `b` leaves its reticle: its first stitched link. -/
def State.firstLink (s : State) (a b : Nat) : Nat := boundary a (((s.meshWay a b)[1]?).getD a)

/-- The sampled occupancy, in 4 KiB units, of the output queue of the first stitched link on the way (R297). -/
def State.meshLoad (s : State) (a b : Nat) : Nat := ((s.ret a).sampledMesh[s.firstLink a b]?).getD 0

/-- Where a packet goes from its endpoint (R297). -/
inductive Route where
  | here
  | mesh
  | port (p : Nat)
  | held
  deriving DecidableEq, Repr

/-- The route selector (R297, R298): the least cost, the mesh before a port and the lower port on a tie. -/
def State.route (s : State) (r : Nat) (bank : Bool) (wafer ret : Nat) : Route :=
  if wafer = s.wafer ∧ ret = r then .here
  else
    let ports := (s.portsTo r bank wafer).map fun p => (s.portCost r p, p + 1)
    let mesh := if wafer = s.wafer ∧ s.meshOk r ret then [(8 * hops r ret + s.meshLoad r ret, 0)] else []
    match firstBy (fun (a b : Nat × Nat) => decide (a.1 < b.1) || (decide (a.1 = b.1) && decide (a.2 < b.2))) (mesh ++ ports) with
    | none => .held
    | some (_, 0) => .mesh
    | some (_, p + 1) => .port p

/-- An access of a core of reticle `r` can reach a fabric address: it lies on the reticle, or on another of the wafer to which a plane is usable (R103, R297). What carries it to another wafer is not modelled (log 1). -/
def State.reaches (s : State) (r fa : Nat) : Bool :=
  decide (faWafer fa ≠ s.wafer) || decide (faRet fa = r) || decide (s.route r (s.ret r).bank s.wafer (faRet fa) ≠ .held)

end Sys2Proof.Machine
end

