-- ==== Sys2Proof/Machine/Walker.lean ====
section
/-! DEFINITION. What an access waits for on its way home (R103, R297, R326), the walker and the TLBs (R85–R91), and the pages that map a line (R115). -/

namespace Sys2Proof.Machine

/-! ### Waiting for a home -/

/-- An agent of reticle `r` cannot have a byte at its home for now: it waits there for a slot to end, or no plane leads to it (R103, R326). -/
def State.homeWaits (s : State) (r fa : Nat) : Bool := s.slotWaits fa || !s.reaches r fa

/-- A line that core `c` does not hold would take the place of one whose dirty bytes cannot reach their home for now (R96, R103). -/
def State.roomWaits (s : State) (c line : Nat) : Bool :=
  let k := s.core c
  (k.line? line).isNone && decide (k.l1Lines ≤ k.l1.length) && (match k.l1.getLast? with
    | some l => decide (l.dirty ≠ 0) && s.homeWaits (retOf c) (lineBase l.line)
    | none => false)

/-! ### The walker -/

/-- Translation is enabled in a reticle (R86). -/
def State.xlatOn (s : State) (r : Nat) : Bool := (s.ret r).xlatRoot.getLsbD 0

/-- An entry as the walker reads it: from its caches of upper-level entries, or the eight bytes at their home slice (R87, R89); none where the home answers with an error (R376, R388). -/
def State.pte (s : State) (r table level idx : Nat) : Option Dword :=
  let a := table + idx * 8
  match (if level = 0 then none else aget (s.ret r).walkCache a) with
  | some e => some e
  | none => if s.lost a then none else some (BitVec.ofNat 64 (natLE (readN (s.seenByte none) a 8)))

/-- The walk from a table (R88) by the walker of reticle `r`, `n` levels still to read. An error response to the walker reaches the access that needed the walk (R376; log 96). -/
def State.walkFrom (s : State) (r va table : Nat) : Nat → Xlt
  | 0 => .fault 0
  | n + 1 =>
    if 0xC00000000 < faOff table + tableSize n then .fault n
    else match s.pte r table n (levelIndex n va) with
      | none => .error (table + levelIndex n va * 8)
      | some e =>
        if !pteSound e then .fault n
        else if e.getLsbD 1 then
          (if n = 0 then .ok (pteAddr e + va % 65536) e
           else if n = 1 ∧ bitsOf e.toNat 24 16 = 0 then .ok (pteAddr e + va % 2 ^ 25) e
           else .fault n)
        else if n = 0 then .fault 0
        else s.walkFrom r va (pteAddr e) n

/-- The root table of a reticle's walker (R86). -/
def State.rootTable (s : State) (r : Nat) : Nat := bitsOf (s.ret r).xlatRoot.toNat 55 13 * 8192

/-- The walk of a virtual address by the walker of reticle `r`, under its `XLAT_ROOT` (R85, R86). -/
def State.walk (s : State) (r va : Nat) : Xlt :=
  if 2 ^ 57 ≤ va then .fault 4
  else if !s.xlatOn r then .fault 5
  else s.walkFrom r va (s.rootTable r) 4

/-- The entries that a walk reads: level, address and value; of an entry that its home does not give, 0. -/
def State.walkTrace (s : State) (r va table : Nat) : Nat → List (Nat × Nat × Dword)
  | 0 => []
  | n + 1 =>
    let e := (s.pte r table n (levelIndex n va)).getD 0
    (n, table + levelIndex n va * 8, e) :: (if !pteSound e || e.getLsbD 1 then [] else s.walkTrace r va (pteAddr e) n)

/-- The trace of the walk of a virtual address. -/
def State.walked (s : State) (r va : Nat) : List (Nat × Nat × Dword) :=
  if 2 ^ 57 ≤ va ∨ s.xlatOn r = false then [] else s.walkTrace r va (s.rootTable r) 4

/-- The TLB entry of a core that a virtual address hits. -/
def State.tlbHit (s : State) (c va : Nat) : Option TlbEntry := (s.core c).tlb.find? fun e => e.hits (s.partOf (retOf c)) va

/-- The translation that a core uses: its TLB's, or a walk's (R89); with translation off, none (R86). -/
def State.translate (s : State) (c va : Nat) : Xlt :=
  if 2 ^ 57 ≤ va then .fault 4
  else if !s.xlatOn (retOf c) then .fault 5
  else
    match s.tlbHit c va with
    | some e => .ok (pteAddr e.pte + (if e.big then va % 2 ^ 25 else va % 65536)) e.pte
    | none => s.walk (retOf c) va

/-- A walk that the walker of a core's reticle has in flight. -/
def walkOf (c va : Nat) : Pend := ⟨{ core := c, ret := retOf c }, .tlbWalk c (BitVec.ofNat 64 (va / 65536 * 65536))⟩

/-- The virtual pages of the walks in flight in a reticle's walker; walks of one page merge (R89). -/
def State.walks (s : State) (r : Nat) : List Nat :=
  (s.agenda.filterMap fun e => match e.ins with
    | .tlbWalk c va => if retOf c = r then some (va.toNat / 65536) else none
    | _ => none).eraseDups

/-- An address needs a walk: it misses the TLB. -/
def State.misses (s : State) (c va : Nat) : Bool := decide (va < 2 ^ 57) && s.xlatOn (retOf c) && (s.tlbHit c va).isNone

/-- The pages of several addresses that the walker of a core's reticle would have to begin to walk. -/
def State.newWalks (s : State) (c : Nat) (vas : List Nat) : List Nat :=
  (((vas.filter (s.misses c)).map (· / 65536)).eraseDups).filter fun v => !(s.walks (retOf c)).contains v

/-- The walker has no room for the walks that several addresses need: it holds 512 (R89). -/
def State.walkerFull (s : State) (c : Nat) (vas : List Nat) : Bool :=
  let n := s.newWalks c vas
  !n.isEmpty && decide (512 < (s.walks (retOf c)).length + n.length)

/-- Translations that cannot be had yet: the walker is full (R89), or a table entry waits for its home (R103). -/
def State.walksWait (s : State) (c : Nat) (vas : List Nat) : Bool :=
  s.walkerFull c vas || vas.any fun va => s.misses c va && (s.walked (retOf c) va).any fun e => s.homeWaits (retOf c) e.2.1

/-- The translation of one address cannot be had yet. -/
def State.walkWaits (s : State) (c va : Nat) : Bool := s.walksWait c [va]

/-- A fetch of `n` bytes by a unit of reticle `r` waits for a table entry or for its bytes (R103, R326). -/
def State.unitFetchWaits (s : State) (r va n : Nat) : Bool :=
  ((s.walked r va).any fun e => s.homeWaits r e.2.1) || (match s.walk r va with
    | .ok fa _ => s.homeWaits r fa || s.homeWaits r (fa + n - 1)
    | _ => false)

/-- The home slices that a walk of reticle `r` reads entries at serve it (R87, R98, R102). -/
def State.serveWalk (s : State) (r va : Nat) : State := s.serveAll none ((s.walked r va).map fun e => e.2.1)

/-- A use of a translation: a TLB hit becomes the most recent entry, a miss asks the walker for one. -/
def State.useTlb (s : State) (c va : Nat) : State :=
  match s.tlbHit c va with
  | some e => s.modCore c fun k => { k with tlb := e :: k.tlb.erase e }
  | none => s.postOnce (walkOf c va).unit (walkOf c va).ins

/-- The TLB of core `c` serves the pages of several addresses (R89). -/
def State.useTlbs (s : State) (c : Nat) (vas : List Nat) : State :=
  ((vas.map (· / 65536 * 65536)).eraseDups).foldl (fun s va => s.useTlb c va) s

/-! ### The pages that map a line (R115) -/

/-- The addresses whose bytes may differ from 0: those listed in memory, those that a lessee holds dirty, and the entries in a walker's caches. -/
def State.spots (s : State) (r : Nat) : List Nat :=
  s.mem.map Prod.fst
  ++ (s.cores.flatMap fun k => (k.2.l1.filter L1Line.lease).flatMap fun l => l.dirtyBytes.map fun e => lineBase l.line + e.1)
  ++ (s.ret r).walkCache.map Prod.fst

/-- The entries of a table that may be other than 0, by index. -/
def tableSpots (spots : List Nat) (table level : Nat) : List Nat :=
  ((spots.filter fun a => decide (table ≤ a) && decide (a < table + tableSize level)).map fun a => (a - table) / 8).eraseDups

/-- The address bits below an index of a level (R85). -/
def levelShift (level : Nat) : Nat :=
  match level with
  | 3 => 47
  | 2 => 36
  | 1 => 25
  | _ => 16

/-- The virtual addresses at which a table, itself reached at `va`, maps the 64 KiB page of fabric address `fa`; `n` levels still to read. -/
def State.mapsFrom (s : State) (r : Nat) (spots : List Nat) (fa table va : Nat) : Nat → List Nat
  | 0 => []
  | n + 1 => (tableSpots spots table n).flatMap fun i =>
    let v := va + i * 2 ^ levelShift n
    match s.pte r table n i with
    | none => []
    | some e =>
      if !pteSound e then []
      else if e.getLsbD 1 then
        (if 2 ≤ n ∨ (n = 1 ∧ bitsOf e.toNat 24 16 ≠ 0) then []
         else if pteAddr e ≤ fa ∧ fa < pteAddr e + 2 ^ levelShift n then [v + (fa - pteAddr e) / 65536 * 65536]
         else [])
      else if n = 0 then []
      else s.mapsFrom r spots fa (pteAddr e) v n

/-- The virtual pages, bits [31:16] of their addresses, that map a fabric address in the partition of reticle `r` (R85, R115). -/
def State.pagesOf (s : State) (r fa : Nat) : List Nat :=
  if s.xlatOn r then ((s.mapsFrom r (s.spots r) fa (s.rootTable r) 0 4).map fun v => v / 65536 % 65536).eraseDups else []

end Sys2Proof.Machine
end

