-- ==== Sys2Proof/Machine/Ops.lean ====
section
/-! DEFINITION. The shared operations: registers and windows (R45–R63), taking an exception and returning from one (R347–R358), and the rules that every control instruction follows (R146–R150). -/

namespace Sys2Proof.Machine

/-! ### Registers, masks and windows -/

/-- A register of the group of the step as the register file holds it now (R45). -/
def State.regNow (s : State) (r : Nat) : GReg := (s.core s.cur.core).reg (s.here.regBase + r)

/-- The value of a register at the start of the control window (R62). -/
def State.ctlStart (s : State) (r : Nat) : GReg :=
  match aget s.me.cWin.vs r with
  | some g => g
  | none => s.regNow r

/-- A register as the control stream reads it: as it stood at the start of the control window, without what the block of a marked `lrun` has written that does not show yet (R62, R63). -/
def State.ctlReg (s : State) (r : Nat) : GReg :=
  match aget s.me.cWin.hideVs r with
  | some g => g
  | none => s.ctlStart r

/-- A register as the lane stream reads it: its value at the start of the lane window, and where the control stream wrote it last, at the start of the control window (R62, R63). -/
def State.laneReg (s : State) (r : Nat) : GReg :=
  match aget s.me.lWin.vs r with
  | some g => g
  | none => if s.me.ctlLast.contains r then s.ctlStart r else s.regNow r

/-- A mask register's stored value; m0 is the split's active mask (R53). -/
def State.maskNow (s : State) (k : Nat) : Mask := if k = 0 then s.me.active else tget 0 s.here.masks k

/-- A mask as the control stream reads it (R62, R63). -/
def State.ctlMask (s : State) (k : Nat) : Mask :=
  match aget s.me.cWin.hideMs k, aget s.me.cWin.ms k with
  | some m, _ => m
  | none, some m => m
  | none, none => s.maskNow k

def State.laneMask (s : State) (k : Nat) : Mask :=
  match aget s.me.lWin.ms k with
  | some m => m
  | none => s.maskNow k

/-- An entry that keeps the value it was first given. -/
def keepFirst {α : Type} (t : List (Nat × α)) (i : Nat) (v : α) : List (Nat × α) :=
  match aget t i with
  | some _ => t
  | none => aput t i v

/-- A latched fragment notes a write of register `r` (R237). -/
def latchWrite (r : Nat) : Option Latch → Option Latch
  | some l => if l.base ≤ r ∧ r < l.base + 24 then some { l with dirty := (r - l.base) :: l.dirty.erase (r - l.base) } else some l
  | none => none

/-- The register file takes a new value. -/
def State.putReg (s : State) (r : Nat) (g : GReg) : State :=
  let s := s.modHere fun x => { x with latch := latchWrite r x.latch }
  s.modCore s.cur.core fun k => k.setReg (s.here.regBase + r) g

/-- A write by the control stream (R48, R62, R63). -/
def State.ctlWrite (s : State) (r : Nat) (g : GReg) : State :=
  let old := s.regNow r
  (s.modMe fun x => { x with cWin := { x.cWin with vs := keepFirst x.cWin.vs r old }, ctlLast := r :: x.ctlLast.erase r }).putReg r g

/-- A write by the lane stream (R62, R63). -/
def State.laneWrite (s : State) (r : Nat) (g : GReg) : State :=
  let seen := s.laneReg r
  let old := s.regNow r
  (s.modMe fun x => { x with lWin := { x.lWin with vs := keepFirst x.lWin.vs r seen }, cWin := { x.cWin with vs := keepFirst x.cWin.vs r old }, ctlLast := x.ctlLast.erase r }).putReg r g

/-- A mask write (R53, R62). -/
def State.maskWrite (s : State) (k : Nat) (m : Mask) : State :=
  let seen := s.laneMask k
  let old := s.maskNow k
  (s.modMe fun x => { x with lWin := { x.lWin with ms := keepFirst x.lWin.ms k seen }, cWin := { x.cWin with ms := keepFirst x.cWin.ms k old } }).modHere fun x => { x with masks := tset 0 x.masks k m }

/-- Results that a split still waits for (R61, R222): loads and atomics. A store's has returned when its target accepts the bytes, at any time after its issue (log 22), and a reduction's is not waited for (R232). -/
def Group.outstanding (x : Group) (sp : Nat) : Bool := x.pending.any fun a => decide (a.split = sp) && decide (a.kind = .load ∨ a.kind = .atomic)

/-- The split's lane queue has drained and every outstanding result of both its streams has returned (R149). -/
def State.quiet (s : State) : Bool := s.me.queue.isEmpty && !s.here.outstanding s.cur.split

/-- The core and the budget that the step runs with. -/
def State.budget (s : State) : Nat := s.here.regN

/-- The working tiles of the group (R54). -/
def Group.workTiles (x : Group) : Nat := x.accN - x.poolN

/-- A working tile of the group of the step. -/
def State.tile (s : State) (t : Nat) : Tile := (s.core s.cur.core).tile (s.here.accBase + t)

def State.setTile (s : State) (t : Nat) (x : Tile) : State :=
  s.modCore s.cur.core fun k => k.setTile (s.here.accBase + t) x

/-- The bytes of the team's scratchpad allocation (R33, R95). -/
def State.scratchSize (s : State) : Nat := s.myTeam.lrec.scratch * 4096

/-! ### Instruction fetch (R128, R153) -/

/-- A fetch of `n` bytes at a translated address for a unit of reticle `r`, a core or none, through a page with `X` = 1; instructions are read at the home slice (log 14). -/
def State.fetchAt (s : State) (x : Xlt) (agent : Option Nat) (r va n : Nat) : Except Flt Nat :=
  match x with
  | .fault l => .error { code := 8, addr := va, info := l }
  | .error fa => .error { code := 10, addr := va, info := 4, fa := fa }
  | .ok fa pte =>
    let bad (i : Nat) : Except Flt Nat := .error { code := 10, addr := va, info := i, fa := fa }
    if !pte.getLsbD 5 then .error { code := 9, addr := va, info := 1 }
    else if !s.inPart r fa then bad 5
    else
      match s.target fa with
      | .dram => if s.lost fa || s.lost (fa + n - 1) then bad 4 else .ok (natLE (readN (s.seenByte agent) fa n))
      | .window _ _ => if bitsOf pte.toNat 9 8 = 0 then bad 3 else if s.dark fa then bad 4 else .ok (natLE (readN (s.seenByte agent) fa n))
      | .privileged => bad 2
      | .unassigned => bad 1

/-- A fetch by a core. -/
def State.fetch (s : State) (c va n : Nat) : Except Flt Nat := s.fetchAt (s.translate c va) (some c) (retOf c) va n

/-- What a core's fetch of `n` bytes does: its TLB and the home slices of the bytes serve it (R89, R98, R102). -/
def State.useFetch (s : State) (c va n : Nat) : State :=
  match s.translate c va with
  | .ok fa _ => (s.useTlb c va).serveAll (some c) ((List.range n).map (fa + ·))
  | _ => if s.xlatOn (retOf c) then s.useTlb c va else s

/-- A core's fetch of `n` bytes cannot be served yet (R89, R103). -/
def State.fetchWaits (s : State) (c va n : Nat) : Bool :=
  s.walksWait c [va, va + n - 1] || (match s.translate c va with
    | .ok fa _ => s.homeWaits (retOf c) fa || s.homeWaits (retOf c) (fa + n - 1)
    | _ => false)

/-- The control word at an address (R128). No rule bars a control PC that is not 4-byte aligned, which `eret` can leave, and none says what it fetches: the four bytes at the address are taken through the page of the first (log 84, a choice of the model). -/
def State.fetchControl (s : State) (c va : Nat) : Except Flt (BitVec 32) :=
  match s.fetch c va 4 with
  | .ok w => .ok (BitVec.ofNat 32 w)
  | .error f => .error f

/-- The virtual address of a lane instruction (R128). -/
def laneAddr (lbase : Dword) (n : Nat) : Nat := lbase.toNat + 12 * n

/-- The lane word of an index, read piecewise, since it can cross a page (R128). -/
def State.fetchLane (s : State) (c : Nat) (lbase : Dword) (n : Nat) : Except Flt (BitVec 96) :=
  match s.fetch c (laneAddr lbase n) 4, s.fetch c (laneAddr lbase n + 4) 4, s.fetch c (laneAddr lbase n + 8) 4 with
  | .ok a, .ok b, .ok d => .ok (BitVec.ofNat 96 (a + b * 2 ^ 32 + d * 2 ^ 64))
  | .error f, _, _ => .error { f with addr := laneAddr lbase n }
  | _, .error f, _ => .error { f with addr := laneAddr lbase n }
  | _, _, .error f => .error { f with addr := laneAddr lbase n }

/-! ### Traps -/

/-- `trap.cause` (R352). -/
def causeWord (f : Flt) (lane defer : Bool) : Word :=
  BitVec.ofNat 32 (f.code % 256 + (if lane then 0x100 else 0) + (if defer then 0x400 else 0) + f.laneAt % 32 * 2 ^ 16 + f.field % 8 * 2 ^ 24)

/-- A lane block as a queue word: off17 in [16:0], count8 in [24:17] (R352, R353). -/
def Block.word (b : Block) : Word := BitVec.ofNat 32 (b.off + (b.cnt - 1) * 2 ^ 17)

def Block.ofWord (w : Word) : Block := { off := w.toNat % 2 ^ 17, cnt := bitsOf w.toNat 24 17 + 1 }

/-- The detail registers of a fault outside the lane stream (R351, R353). -/
def Flt.record (f : Flt) (lane defer : Bool) (pc : Dword) (insn : BitVec 96) : TrapRec :=
  { cause := causeWord f lane defer, pc := loW pc, pcHi := hiW pc, insn0 := insn.setWidth 32, insn1 := (insn >>> 32).setWidth 32, insn2 := (insn >>> 64).setWidth 32, addr := BitVec.ofNat 32 f.addr, addrHi := BitVec.ofNat 32 (f.addr / 2 ^ 32), info := BitVec.ofNat 32 f.info, x0 := BitVec.ofNat 32 f.x0, x1 := BitVec.ofNat 32 f.x1, x2 := BitVec.ofNat 32 f.x2, x3 := BitVec.ofNat 32 f.x3, aux := BitVec.ofNat 32 f.aux }

/-- The record of a lane fault: the resume point of the head block and the queue words of the blocks behind it (R352, R353). -/
def Flt.laneRecord (f : Flt) (x : Split) (insn : BitVec 96) : TrapRec :=
  let rest := x.queue.tail
  let r := f.record true false x.pc insn
  { r with
    lane := match x.queue.head? with
      | some b => b.word
      | none => 0
    x0 := (rest[0]?.map Block.word).getD 0
    x1 := (rest[1]?.map Block.word).getD 0
    x2 := (rest[2]?.map Block.word).getD 0
    x3 := BitVec.ofNat 32 (rest.length % 4) }

/-- The sixteen trap-state registers in index order (R351). -/
def TrapRec.regs (t : TrapRec) : List Word :=
  [t.cause, t.pc, t.pcHi, t.lane, t.insn0, t.insn1, t.insn2, t.addr, t.addrHi, t.info, t.x0, t.x1, t.x2, t.x3, t.aux, t.depth]

/-- A trap record from its sixteen words. -/
def TrapRec.ofRegs (l : List Word) : TrapRec :=
  { cause := l.getD 0 0, pc := l.getD 1 0, pcHi := l.getD 2 0, lane := l.getD 3 0, insn0 := l.getD 4 0, insn1 := l.getD 5 0, insn2 := l.getD 6 0, addr := l.getD 7 0, addrHi := l.getD 8 0, info := l.getD 9 0, x0 := l.getD 10 0, x1 := l.getD 11 0, x2 := l.getD 12 0, x3 := l.getD 13 0, aux := l.getD 14 0, depth := l.getD 15 0 }

/-- An entry of the core's fault log (R358). -/
def State.logFault (s : State) (c : Nat) (rec : List Byte) (t : Team) (gid sp reason : Nat) : State :=
  s.modCore c fun k =>
    { k with flog := aput k.flog (k.flogHead.toNat % 16) (rec ++ bytesLE 4 t.lrec.grid.toNat ++ bytesLE 4 t.lin ++ bytesLE 1 gid ++ bytesLE 1 sp ++ bytesLE 1 reason ++ List.replicate 53 0), flogHead := k.flogHead + 1 }

/-- A group whose team has ended: no split issues again; its gang register, latch and fences are moot (R357). -/
def Group.stop (x : Group) : Group := { x with splits := [], done := true, fences := [] }

/-- The team ends by fault (R357): every split stops, and its group operations still held for a rendezvous are dropped; the group and team ends follow (R44). -/
def State.killTeam (s : State) (t : Nat) : State :=
  let s := s.modTeam t fun x => { x with byFault := true, idem := false, request := none, abandoned := false }
  s.modCore (s.team t).core fun k =>
    { k with groups := k.groups.map fun e => if e.2.team = t then (e.1, e.2.stop) else e, held := k.held.filter fun o => decide (o.team ≠ t) }

/-- An access error is logged (R92, R220, R295): at the reticle of its target, or at the source where the firewall refused it or the target lies on another wafer; an access to a lost line also by its slice (R376). -/
def State.report (s : State) (r : Nat) (f : Flt) : State :=
  if f.code ≠ 10 then s
  else
    let own := decide (faWafer f.fa = s.wafer) && decide (f.info ≠ 5)
    let s := s.modRet (if own then faRet f.fa else r) fun x => { x with logged := BitVec.ofNat 64 f.fa :: x.logged }
    if own && decide (f.info = 4) && !s.dark f.fa && !s.isWindow f.fa then s.logSlice f.fa 10 2 0xFFFF else s

/-- The trap descriptor of a grid: 16 bytes ending at `LBASE` − 1, read as an instruction fetch (R349). Gives the handler, or why there is none (R358): 1 no handler, 3 descriptor unreadable. -/
def State.handler (s : State) (c : Nat) (lbase : Dword) : Except Nat Dword :=
  let a := (lbase - 16).toNat
  match s.fetch c a 8, s.fetch c (a + 8) 8 with
  | .ok lo, .ok hi =>
    if hi = 0 ∧ bitOf lo 63 ∧ bitsOf lo 62 57 = 0 ∧ lo % 4 = 0 then .ok (BitVec.ofNat 64 (lo % 2 ^ 57)) else .error 1
  | _, _ => .error 3

/-- What the fetch of a trap descriptor does besides giving its bytes: the TLB and the home slices serve it (R89, R98, R102), and an error response is logged (R92). -/
def State.readDescriptor (s : State) (c : Nat) (lbase : Dword) : State :=
  let a := (lbase - 16).toNat
  let t := (s.useFetch c a 8).useFetch c (a + 8) 8
  match s.fetch c a 8, s.fetch c (a + 8) 8 with
  | .error f, _ => t.report (retOf c) f
  | _, .error f => t.report (retOf c) f
  | _, _ => t

/-- What a fetch by a unit of reticle `r` does besides giving its bytes: the home slices serve the walk and the bytes (R87, R98, R102), and an error response is logged (R92). -/
def State.useUnitFetch (s : State) (r va n : Nat) : State :=
  match s.walk r va, s.fetchAt (s.walk r va) none r va n with
  | .ok fa _, .ok _ => (s.serveWalk r va).serveAll none ((List.range n).map (fa + ·))
  | _, .error f => (s.serveWalk r va).report r f
  | _, _ => s.serveWalk r va

/-- The split at the entry of its handler (R350): record written, loop stack and condition operands set aside, every window closed (R355). -/
def Split.inTrap (x : Split) (r : TrapRec) (h : Dword) : Split :=
  { x with trap := { r with depth := BitVec.ofNat 32 x.loops.length }, savedLoops := x.loops, savedCmpA := x.cmpA, savedCmpB := x.cmpB, inHandler := true, pc := h, loops := [], queue := [], cmpA := 0, cmpB := 0, ctl := .ready, laneParked := false, cWin := {}, lWin := {}, ctlLast := [], late := {}, trapDue := none, cursor := 0, runAddr := none, savedRun := x.runAddr, running := none, laneStall := none }

/-- TAKING AN EXCEPTION (R350, R357): the split continues at the handler with its record written, or its team ends by fault and the fault log gains an entry. -/
def State.enterTrap (s : State) (c g p : Nat) (r : TrapRec) : State :=
  match s.group? c g, s.split? c g p with
  | some x, some y =>
    let t := s.team x.team
    let fatal (s : State) (reason : Nat) : State :=
      (s.logFault c ((TrapRec.regs { r with depth := BitVec.ofNat 32 y.loops.length }).flatMap fun w => bytesLE 4 w.toNat) t x.gid p reason).killTeam x.team
    if y.inHandler then fatal s 2
    else
      let u := s.readDescriptor c t.lrec.lbase
      match s.handler c t.lrec.lbase with
      | .ok h => u.setSplit c g p (y.inTrap r h)
      | .error e => fatal u e
  | _, _ => s

/-- A register of an `ldm` or `stm` of a split has issued and is not yet transferred (R227). -/
def Group.moving (x : Group) (p : Nat) : Bool := x.pending.any fun a => decide (a.split = p) && decide (a.run ≠ 0)

/-- A trap of a split cannot be entered yet: a result of its streams is outstanding (R350 step 1), a register below the cursor of a spill is not yet written (R228), or the trap descriptor waits for its home (R103). -/
def State.trapWaits (s : State) (c g p : Nat) : Bool :=
  match s.group? c g, s.split? c g p with
  | some x, some y => x.outstanding p || x.moving p || (!y.inHandler && s.fetchWaits c ((s.team x.team).lrec.lbase - 16).toNat 16)
  | _, _ => false

/-- A trap is taken once nothing keeps it waiting; until then its record waits (R350). -/
def State.takeTrap (s : State) (c g p : Nat) (r : TrapRec) : State :=
  if s.trapWaits c g p then s.modSplit c g p fun x => { x with trapDue := some r } else s.enterTrap c g p r

/-- A trap of the split of the step. -/
def State.raise (s : State) (r : TrapRec) : State := s.takeTrap s.cur.core s.cur.slot s.cur.split r

/-- A fault of the lane stream. An access error is logged by the reporting unit (R220). -/
def State.raiseLane (s : State) (f : Flt) : State :=
  (s.report (retOf s.cur.core) f).raise (f.laneRecord s.me s.cur.insn)

/-- A fault of the control stream: the lane queue drains first, and a lane fault during the drain is recorded instead (R347). -/
def State.raiseCtl (s : State) (f : Flt) : State :=
  if !s.me.queue.isEmpty then s.modMe fun x => { x with ctl := .stalled .drain, ctlSince := s.cycle }
  else (s.report (retOf s.cur.core) f).raise (f.record false false s.me.pc s.cur.insn)

/-- THE RETURN FROM A HANDLER (R354): loop stack and condition operands restored, the lane queue rebuilt, the in-handler bit and the trap-state registers cleared. An `ldm` or `stm` of which a register faulted goes on at its cursor with the same address (R228). -/
def Split.eret (x : Split) : Split :=
  let t := x.trap
  let skip := t.cause.getLsbD 9
  let b := Block.ofWord t.lane
  let head : List Block := if skip then (if b.cnt ≤ 1 then [] else [{ off := b.off + 1, cnt := b.cnt - 1 }]) else [b]
  let rest := ([t.x0, t.x1, t.x2].take (t.x3.toNat % 4)).map Block.ofWord
  let y := { x with loops := x.savedLoops, cmpA := x.savedCmpA, cmpB := x.savedCmpB, pc := mkD t.pcHi t.pc, inHandler := false, trap := {}, savedLoops := [], savedCmpA := 0, savedCmpB := 0, savedRun := none }
  if t.cause.getLsbD 8 then
    let run := if skip then none else x.savedRun
    { y with queue := head ++ rest, cursor := if run.isSome then t.aux.toNat else 0, runAddr := run }
  else y

/-! ### Control instructions -/

/-- How a control instruction ends (R32, R149, R150): done in line, at another address, not issued and held, issued and blocked, at a fault, or with the split gone. -/
inductive Act where
  | done (s : State)
  | jump (s : State) (t : Dword)
  | hold (w : Stall)
  | block (s : State) (w : Wait)
  | trap (s : State) (f : Flt)
  | gone (s : State)

/-- The loop-end check of R32: the next PC and the stack, after the instruction at `pc` has issued and is not a taken branch. -/
def loopEnd (pc : Dword) : List LoopEntry → Dword × List LoopEntry
  | [] => (pc + 4, [])
  | e :: l =>
    if pc = e.stop then
      (if 1 < e.count.toNat then (e.start, { e with count := e.count - 1 } :: l) else loopEnd pc l)
    else (pc + 4, e :: l)

/-- The pops of a taken branch to `t` (R32). -/
def unwind (t : Dword) : List LoopEntry → List LoopEntry
  | [] => []
  | e :: l => if e.start.toNat ≤ t.toNat ∧ t.toNat ≤ e.stop.toNat then e :: l else unwind t l

/-- An instruction closes its window: it is marked, or the 32nd (R61). -/
def Split.closes (x : Split) (marked : Bool) : Bool := marked || decide (x.cWin.n + 1 = 32)

/-- A control instruction has issued: it counts in its window, which it closes when marked or the 32nd, and then the split parks (R61). -/
def Split.issued (x : Split) (marked : Bool) (now : Nat) : Split :=
  { x with cWin := { x.cWin with n := x.cWin.n + 1 }, ctl := if x.closes marked then .parked else .ready, ctlSince := now }

/-- Completion in line: the loop-end check gives the next PC (R32). -/
def Split.retire (x : Split) (marked : Bool) (now : Nat) : Split :=
  let e := loopEnd x.pc x.loops
  { x.issued marked now with pc := e.1, loops := e.2 }

/-- Every control instruction: it runs only in a live split, and its ending takes effect (R147–R150). -/
def State.control (s : State) (marked : Bool) (body : State → Act) : Host.Outcome State Fault Refusal :=
  match s.me? with
  | none => .fault .noIssuer
  | some _ =>
    match body s with
    | .done t => .next (t.modMe fun x => x.retire marked t.cycle)
    | .jump t a => .next (t.modMe fun x => { x.issued marked t.cycle with pc := a })
    | .hold w => .next (s.modMe fun x => { x with ctl := .stalled w, ctlSince := s.cycle })
    | .block t w => .next (t.modMe fun x => { x with ctl := .blocked w, ctlSince := t.cycle, waitSince := t.now, cWin := { x.cWin with n := x.cWin.n + 1 } })
    | .trap t f => .next (t.raiseCtl f)
    | .gone t => .next t

/-- What an instruction still has to do, or how it ended early. -/
abbrev Try (α : Type) := Except Act α

/-- A fault of the instruction. -/
def fail {α : Type} (s : State) (f : Flt) : Try α := .error (.trap s f)

/-- A fault where a condition holds. -/
def failIf (s : State) (b : Bool) (f : Flt) : Try Unit := if b then fail s f else .ok ()

/-- A stall where a condition holds. -/
def holdIf (b : Bool) (w : Stall) : Try Unit := if b then .error (.hold w) else .ok ()

/-- The end of a computation. -/
def Try.act (r : Try Act) : Act :=
  match r with
  | .ok a => a
  | .error a => a

/-- Instructions that act as marked issue only from a quiet split (R149). -/
def State.needQuiet (s : State) : Try Unit := holdIf (!s.quiet) .drain

/-- Fences, barrier operations, waits, engine commands and `exit` issue only after the lane instructions placed before them have issued their accesses (R105). -/
def State.needIssued (s : State) : Try Unit := holdIf (!s.me.queue.isEmpty) .queue

/-- A fence holds what the split of the step does next: one that it has issued, or that it inherited where it was made (R28, R114, R174). -/
def FenceWait.holds (f : FenceWait) (p : Nat) : Bool := decide (f.split = p) || f.also.contains p

/-- Engine commands behind a release of the split wait for its conditions (R114, R174). -/
def State.needReleases (s : State) : Try Unit := holdIf (s.here.fences.any fun f => decide (2 ≤ f.kind) && f.holds s.cur.split) .fence

/-- Barrier operations and accesses behind a fence of the split wait for its conditions (R114, R174). -/
def State.needFences (s : State) : Try Unit := holdIf (s.here.fences.any fun f => f.holds s.cur.split) .fence

/-- Pending accesses of the group of the step that something must follow: it waits until they are performed (R105, R107). -/
def State.heldBy (s : State) (f : Access → Bool) : Option Stall :=
  let l := s.here.pending.filter fun a => f a && decide (a.kind ≠ .prefetch)
  let at' (scratch : Bool) : List Nat := (l.filter fun a => decide (a.scratch = scratch)).flatMap fun a => a.lanes.flatMap fun l => l.left.map fun i => l.bytes.getD i 0
  if l.isEmpty then none else some (.accesses (at' true) (at' false))

/-- A control instruction waits for pending accesses. -/
def State.needPerformed (s : State) (f : Access → Bool) : Try Unit :=
  match s.heldBy f with
  | some w => .error (.hold w)
  | none => .ok ()

/-- Register range (R45): `n` registers from `r`; the record names the first one outside. -/
def State.inBudget (s : State) (field r n : Nat) : Try Unit :=
  failIf s (decide (s.budget < r + n)) { code := 2, field := field, info := max r s.budget }

/-- A tile in range (R54). -/
def State.tileRange (s : State) (field t : Nat) : Try Unit :=
  failIf s (decide (s.here.workTiles ≤ t)) { code := 2, field := field, info := t }

/-- Sets bits of the idempotent flag off (R43). -/
def State.clearIdem (s : State) : State := s.modMyTeam fun t => { t with idem := false }

end Sys2Proof.Machine
end

