-- ==== Sys2Proof/Machine/Operands.lean ====
section
/-! DEFINITION. Operand forms: the sources of control instructions (R147), the sources, modifiers, shapes and results of lane instructions (R47, R52, R188–R193), and the registers that a lane instruction names (R63). -/

namespace Sys2Proof.Machine

/-! ### Format tags (R49) -/

/-- The tag byte of a format code. -/
def tagOf (code : Nat) : Tag := BitVec.ofNat 8 (code * 8)

/-- The format code of a tag. -/
def code (t : Tag) : Nat := t.toNat / 8

def tBits : Tag := tagOf 0
def tI32 : Tag := tagOf 1
def tN32 : Tag := tagOf 2
def tF32 : Tag := tagOf 3
def tF64lo : Tag := tagOf 4
def tF64hi : Tag := tagOf 5

/-- A uniform register (R46). -/
def uni (w : Word) (t : Tag) : GReg := { val := .uniform w, tag := t }

/-! ### Control sources (R147) -/

/-- A source of a control instruction: its field, the register as read, and what the instruction accepts. -/
structure Opd where
  field : Nat
  g : GReg
  affine : Bool := false
  anyTag : Bool := false

/-- A source read by the control stream; `[first]` reads the lowest lane of m0 as a uniform value. -/
def State.src (s : State) (field : Nat) (r : BitVec 8) (first : Bool := false) : Opd :=
  let g := s.ctlReg r.toNat
  { field, g := if first then { g with val := .uniform (g.val.lane ((lowestLane s.me.active).getD 0)) } else g }

/-- The value of a uniform source. -/
def Opd.u (o : Opd) : Word := o.g.val.lane 0

/-- The source as affine: base and stride. -/
def RegVal.base (v : RegVal) : Word := v.lane 0
def RegVal.stride (v : RegVal) : Word :=
  match v with
  | .affine _ st => st
  | _ => 0

def RegVal.isUniform : RegVal → Bool
  | .uniform _ => true
  | _ => false

def RegVal.isAffine : RegVal → Bool
  | .affine _ _ => true
  | _ => false

/-- A shape-misuse fault (R353). -/
def shapeFault (field : Nat) (g : GReg) : Flt := { code := 3, field := field, info := g.val.shape }

/-- A tag-mismatch fault (R353). -/
def tagFault (field : Nat) (g : GReg) : Flt := { code := 4, field := field, info := g.tagWord.toNat }

/-- A format that a control value source may carry (R147): bits, i32 or n32. -/
def plainTag (t : Tag) : Bool := decide (t = tBits) || decide (t = tI32) || decide (t = tN32)

/-- The shape of a source is one that the instruction accepts. -/
def State.shapeOk (s : State) (o : Opd) : Try Unit :=
  failIf s (!(o.g.val.isUniform || (o.affine && o.g.val.isAffine))) (shapeFault o.field o.g)

/-- The tags of the sources: bits, i32 or n32, and not both of the last two; the later source is the one at fault. -/
def State.tagsOk (s : State) : Tag → List Opd → Try Unit
  | _, [] => .ok ()
  | t, o :: l =>
    if o.anyTag then s.tagsOk t l
    else if !plainTag o.g.tag || (o.g.tag ≠ tBits && t ≠ tBits && o.g.tag ≠ t) then fail s (tagFault o.field o.g)
    else s.tagsOk (if o.g.tag = tBits then t else o.g.tag) l

/-- The operative tag of R147. -/
def operative (l : List Opd) : Tag :=
  match l.find? (fun o => !o.anyTag && decide (o.g.tag ≠ tBits)) with
  | some o => o.g.tag
  | none => tBits

def State.rangesOk (s : State) : List (Nat × Nat × Nat) → Try Unit
  | [] => .ok ()
  | (f, r, n) :: l => match s.inBudget f r n with
    | .ok _ => s.rangesOk l
    | .error e => .error e

def State.shapesOk (s : State) : List Opd → Try Unit
  | [] => .ok ()
  | o :: l => match s.shapeOk o with
    | .ok _ => s.shapesOk l
    | .error e => .error e

/-- The checks of R150 up to the tags: register ranges (field, first register, count), then shapes, then tags. -/
def State.operands (s : State) (ranges : List (Nat × Nat × Nat)) (l : List Opd) : Try Unit := do
  s.rangesOk ranges
  s.shapesOk l
  s.tagsOk tBits l

/-- The registers named by the queued lane blocks of the split and by the one that executes, whole until it has finished, by `names` of each instruction (R63). -/
def State.queuedNames (s : State) (names : Instr → List Nat) : List Nat :=
  let lb := s.myTeam.lrec.lbase
  ((s.me.running.map Prod.fst).toList ++ s.me.queue).flatMap fun b => (List.range b.cnt).flatMap fun i =>
    match s.fetchLane s.cur.core lb (b.off + i) with
    | .ok w => match decodeLane w with
      | .ok ins => names ins
      | .error _ => []
    | .error _ => []

/-! ### Registers that lane instructions name (R63) -/

/-- `n` registers from `r`. -/
def regRun (r n : Nat) : List Nat := (List.range n).map (r + ·)

/-- One register, or a pair. -/
def regOrPair (pair : Bool) (r : BitVec 8) : List Nat := regRun r.toNat (if pair then 2 else 1)

/-- The registers of an `acccvt` or `accput` run by fmt (R242, R243). -/
def accRun (fmt : Nat) : Nat :=
  match fmt with
  | 4 => 32
  | 6 => 8
  | 7 => 8
  | 8 => 4
  | 10 => 4
  | 11 => 4
  | _ => 16

/-- fmt .f64 makes its data fields pairs (R193). -/
def isF64 (fmt : BitVec 5) : Bool := decide (fmt = 4)

/-- Registers of d, a, b and c, pairs under .f64. -/
def names4 (f : LaneOp) : List Nat := regOrPair (isF64 f.fmt) f.d ++ regOrPair (isF64 f.fmt) f.a ++ regOrPair (isF64 f.fmt) f.b ++ regOrPair (isF64 f.fmt) f.c
def names3 (f : LaneOp) : List Nat := regOrPair (isF64 f.fmt) f.d ++ regOrPair (isF64 f.fmt) f.a ++ regOrPair (isF64 f.fmt) f.b
def names2 (f : LaneOp) : List Nat := regOrPair (isF64 f.fmt) f.d ++ regOrPair (isF64 f.fmt) f.a
def namesImm (f : LaneImm) : List Nat := regOrPair (isF64 f.fmt) f.d ++ regOrPair (isF64 f.fmt) f.a
/-- Those of a memory instruction: data as d or c, a virtual address as a pair. -/
def namesMem (virt : Bool) (data : BitVec 8) (f64 : Bool) (a : BitVec 8) (b : List Nat) : List Nat :=
  regOrPair f64 data ++ regOrPair virt a ++ b

/-- The vector registers named as a source or destination by a lane instruction; none for every other instruction. -/
def laneNames : Instr → List Nat
  | .add f | .sub f | .mul f | .mulhi f | .minL f | .maxL f | .andL f | .orL f | .xor f | .shl f | .shr f | .sra f | .rot f => names3 f
  | .shfl f | .shcat f | .lut16 f | .fadd f | .fsub f | .fmul f | .fmin f | .fmax f | .fdiv f | .sel f | .pack f => names3 f
  | .fscale f => regOrPair (isF64 f.fmt) f.d ++ regOrPair (isF64 f.fmt) f.a ++ [f.b.toNat]
  | .mad f | .bfe f | .bfi f | .prm f | .fma f => names4 f
  | .absL f | .neg f | .notL f | .popc f | .clz f | .brev f | .shup f | .shdn f | .shxor f | .lscan f | .lred f => names2 f
  | .fabs f | .fneg f | .frcp f | .frsq f | .fsqrt f | .fexp2 f | .flog2 f | .fsin f | .fcos f | .frnd f => names2 f
  | .unpack f | .cbdec f | .tget f | .mov f => names2 f
  | .cvt f => regOrPair (isF64 f.fmt) f.d ++ regRun f.a.toNat 2
  | .tag f => regOrPair (isF64 f.fmt) f.d
  | .mcount f | .mprefix f => [f.d.toNat]
  | .cmp f => [f.a.toNat, f.b.toNat]
  | .fcmp f => regOrPair (isF64 f.fmt) f.a ++ regOrPair (isF64 f.fmt) f.b
  | .ballot f => [f.a.toNat]
  | .fcls f => regOrPair (isF64 f.fmt) f.a
  | .addImmediate f | .subImmediate f | .mulImmediate f | .minImmediate f | .maxImmediate f | .andImmediate f | .orImmediate f | .xorImmediate f => namesImm f
  | .shlImmediate f | .shrImmediate f | .sraImmediate f | .rotImmediate f | .faddImmediate f | .fsubImmediate f | .fmulImmediate f | .fminImmediate f | .fmaxImmediate f => namesImm f
  | .cmpImmediate f | .fcmpImmediate f => [f.a.toNat]
  | .movImmediate f => [f.d.toNat]
  | .ld f => namesMem true f.d (isF64 f.fmt) f.a [f.b.toNat]
  | .st f => namesMem true f.c (isF64 f.fmt) f.a [f.b.toNat]
  | .lds f => namesMem false f.d (isF64 f.fmt) f.a [f.b.toNat]
  | .sts f => namesMem false f.c (isF64 f.fmt) f.a [f.b.toNat]
  | .ldImmediate f | .stImmediate f => namesMem true f.d (isF64 f.fmt) f.a []
  | .ldsImmediate f | .stsImmediate f => namesMem false f.d (isF64 f.fmt) f.a []
  | .prf f => regRun f.a.toNat 2 ++ [f.b.toNat]
  | .prfImmediate f => regRun f.a.toNat 2
  | .ldm f => regRun f.d.toNat (f.ext.toNat % 32 + 1) ++ regRun f.a.toNat (if f.ext.getLsbD 8 then 1 else 2) ++ [f.b.toNat]
  | .stm f => regRun f.c.toNat (f.ext.toNat % 32 + 1) ++ regRun f.a.toNat (if f.ext.getLsbD 8 then 1 else 2) ++ [f.b.toNat]
  | .atom f => f.d.toNat :: regRun f.a.toNat 2 ++ f.b.toNat :: regRun f.c.toNat (if f.ext.toNat / 64 % 4 = 0 then 1 else 3)
  | .ared f => regRun f.a.toNat 2 ++ f.b.toNat :: regRun f.c.toNat (if f.ext.toNat / 64 % 4 = 0 then 1 else 3)
  | .atoms f => [f.d.toNat, f.a.toNat, f.b.toNat, f.c.toNat]
  | .mma f => regRun f.a.toNat 24 ++ [f.b.toNat]
  | .mmas f => regRun f.a.toNat 24 ++ f.b.toNat :: regRun f.c.toNat 14
  | .accld f | .accst f => regRun f.a.toNat (if f.ext.getLsbD 2 then 1 else 2) ++ [f.b.toNat]
  | .acccvt f | .accput f => f.c.toNat :: regRun f.a.toNat (accRun f.fmt.toNat)
  | .siltGet f => [f.d.toNat]
  | _ => []

/-- An access of the split still has to write one of the registers: a later instruction that names it waits, so that writes land in program order (R62). -/
def State.awaits (s : State) (rs : List Nat) : Bool :=
  s.here.pending.any fun a => decide (a.split = s.cur.split) && (rs.contains a.dst || (decide (a.size = 8) && rs.contains (a.dst + 1)))

/-- A control instruction that writes registers `ds` stalls while a queued or executing lane block of the split, or an access it has issued, names one (R63). -/
def State.needFree (s : State) (ds : List Nat) : Try Unit :=
  let busy := s.queuedNames laneNames
  match ds.find? (fun r => busy.contains r || s.awaits [r]) with
  | some r => .error (.hold (.laneBusy r))
  | none => .ok ()

/-! ### Lane sources -/

/-- How a lane instruction ends: issued, issued in part, so that it stays at the head of its block (R227), held for a reason, issued into the rendezvous latch where it stays (R236), or at a fault. -/
inductive LAct where
  | done (s : State)
  | part (s : State)
  | hold (w : Stall)
  | latched (s : State)
  | trap (s : State) (f : Flt)

abbrev LTry (α : Type) := Except LAct α

def lfail {α : Type} (s : State) (f : Flt) : LTry α := .error (.trap s f)

def lfailIf (s : State) (b : Bool) (f : Flt) : LTry Unit := if b then lfail s f else .ok ()

def LTry.act (r : LTry LAct) : LAct :=
  match r with
  | .ok a => a
  | .error a => a

/-- A lane source as read: the value of each lane (64 bits for a pair), whether it counts as uniform, base and stride where it is affine, its tag and, for a fault, its register. -/
structure LVal where
  field : Nat
  at' : Nat → Nat
  uniform : Bool
  aff : Option (Word × Word) := none
  tag : Tag
  tagHi : Tag := 0
  g : GReg
  isReg : Bool := true

/-- The effective execution mask (R188). -/
def State.execMask (s : State) (mask : BitVec 4) : Mask := s.laneMask mask.toNat &&& s.me.active

/-- The lane that a modifier reads, for lane `l` under E (R52). -/
def modLane (m : BitVec 7) (E : Mask) (l : Nat) : Nat :=
  match m.toNat / 32 with
  | 0 => l
  | 1 => m.toNat % 32
  | _ => (lowestLane E).getD 0

/-- A register or pair source (R46, R52, R193). -/
def State.lval (s : State) (E : Mask) (field : Nat) (r : BitVec 8) (m : BitVec 7) (pair : Bool) : LVal :=
  let g := s.laneReg r.toNat
  let h := s.laneReg (r.toNat + 1)
  { field,
    at' := fun l => (g.val.lane (modLane m E l)).toNat + (if pair then (h.val.lane (modLane m E l)).toNat * 2 ^ 32 else 0)
    uniform := m ≠ 0 || (g.val.isUniform && (!pair || h.val.isUniform))
    aff := if m = 0 && !pair && g.val.isAffine then some (g.val.base, g.val.stride) else none
    tag := g.tag, tagHi := h.tag, g }

/-- An immediate source: uniform, tagged with the instruction's fmt (R136). -/
def immVal (fmt : BitVec 5) (w : Word) : LVal :=
  { field := 6, at' := fun _ => w.toNat, uniform := true, tag := tagOf fmt.toNat, g := {}, isReg := false }

/-- Register ranges in order (field, first register, count) (R191). -/
def State.lranges (s : State) : List (Nat × Nat × Nat) → LTry Unit
  | [] => .ok ()
  | (f, r, n) :: l =>
    if s.budget < r + n then lfail s { code := 2, field := f, info := max r s.budget } else s.lranges l

/-- A source carries an accepted tag; one that carries `[first]` under an empty E is not read (R188). -/
def State.ltag (s : State) (E : Mask) (v : LVal) (m : BitVec 7) (ok : Tag → Bool) : LTry Unit :=
  lfailIf s (v.isReg && !(decide (E = 0) && decide (m = 64)) && !ok v.tag) (tagFault v.field v.g)

/-- The tags that a source listed as fmt may carry (R192, R193). -/
def fmtTag (fmt : Nat) (t : Tag) : Bool :=
  decide (t = tagOf fmt) || ((fmt = 1 || fmt = 2 || fmt = 10 || fmt = 11) && decide (t = tBits))

/-- The odd register of a source pair carries f64hi (R193). -/
def State.lodd (s : State) (E : Mask) (v : LVal) (m : BitVec 7) (r : BitVec 8) : LTry Unit :=
  lfailIf s (v.isReg && !(decide (E = 0) && decide (m = 64)) && v.tagHi ≠ tF64hi) (tagFault v.field (s.laneReg (r.toNat + 1)))

/-- A source listed as fmt: a pair under .f64 (R193). -/
def State.lfmt (s : State) (E : Mask) (v : LVal) (m : BitVec 7) (r : BitVec 8) (fmt : Nat) : LTry Unit := do
  s.ltag E v m (fmtTag fmt)
  if fmt = 4 then s.lodd E v m r

/-- The shape of a result (R47): uniform, affine or general. -/
inductive Shp where
  | uniform
  | affine (b st : Word)
  | general

/-- The result shape of R47 for sources that count as given; the affine pairings of `add` and `sub` are their own. -/
def shapeOf (E : Mask) (srcs : List LVal) : Shp :=
  if E = fullMask && srcs.all LVal.uniform then .uniform else .general

/-- A register's new contents: the result in the lanes of E, the old values elsewhere (R188). -/
def newVal (E : Mask) (sh : Shp) (old : RegVal) (f : Nat → Word) : RegVal :=
  match sh with
  | .uniform => .uniform (f 0)
  | .affine b st => .affine b st
  | .general => .general (lanes32.map fun l => if inMask E l then f l else old.lane l)

/-- A lane result into a register (R188); an empty E writes nothing. -/
def State.putLanes (s : State) (d : Nat) (E : Mask) (sh : Shp) (t : Tag) (f : Nat → Word) : State :=
  if E = 0 then s else s.laneWrite d { val := newVal E sh (s.regNow d).val f, tag := t }

/-- A lane result into a register or, under .f64, a pair (R193). -/
def State.putResult (s : State) (d : BitVec 8) (pair : Bool) (E : Mask) (sh : Shp) (t : Tag) (f : Nat → Nat) : State :=
  if pair then
    (s.putLanes d.toNat E sh tF64lo fun l => BitVec.ofNat 32 (f l)).putLanes (d.toNat + 1) E sh tF64hi fun l => BitVec.ofNat 32 (f l / 2 ^ 32)
  else s.putLanes d.toNat E sh t fun l => BitVec.ofNat 32 (f l)

/-- A mask result: the bits of E change (R53). -/
def State.putMask (s : State) (d : BitVec 8) (E : Mask) (f : Nat → Bool) : State :=
  if E = 0 then s else s.maskWrite d.toNat ((s.maskNow d.toNat &&& ~~~E) ||| (maskOf f &&& E))

/-- A mask destination: m0 is out of range (R53). -/
def State.maskDest (s : State) (d : BitVec 8) : LTry Unit := lfailIf s (d = 0) { code := 2, field := 1, info := 0 }

/-- The head block after one of its instructions has issued (R31, R61): the last instruction of a block, a marked one and the 32nd of a window close the window. -/
def Split.laneIssued (x : Split) (p : Bool) (now : Nat) : Split :=
  let n := x.lWin.n + 1
  match x.queue with
  | [] => x
  | b :: l =>
    let last := decide (b.cnt ≤ 1)
    { x with queue := if last then l else { b with off := b.off + 1, cnt := b.cnt - 1 } :: l, lWin := { x.lWin with n := n }, laneParked := p || last || n = 32, laneSince := now, laneStall := none, cursor := 0, runAddr := none, running := some (((x.running.map Prod.fst).getD b), last) }

/-- What a lane instruction of a block whose `lrun` was marked may write keeps, for the control stream, the value that it held before (R63): `s` and `t` are the states before and after it. -/
def State.noteLate (s : State) (i : Instr) (t : State) : State :=
  if s.me.queue.head?.any Block.late then
    t.modMe fun y => { y with late := { y.late with
      vs := (laneNames i).foldl (fun l r => keepFirst l r (s.regNow r)) y.late.vs
      ms := ((List.range 16).filter fun k => decide (s.maskNow k ≠ t.maskNow k)).foldl (fun l k => keepFirst l k (s.maskNow k)) y.late.ms } }
  else t

/-- Every lane instruction: it runs only in a live split with a lane block, behind accesses that write a register it names, and its ending takes effect (R188, R191). -/
def State.lanes (s : State) (i : Instr) (p : Bool) (body : State → LAct) : Host.Outcome State Fault Refusal :=
  match s.me? with
  | none => .fault .noIssuer
  | some x =>
    if x.queue.isEmpty then .fault .noIssuer
    else if s.awaits (laneNames i) then .next (s.modMe fun y => { y with laneStall := some (.writes (laneNames i)) })
    else
      match body s with
      | .done t => .next ((s.noteLate i t).modMe fun y => y.laneIssued p t.cycle)
      | .part t => .next (s.noteLate i t)
      | .hold w => .next (s.modMe fun y => { y with laneStall := some w })
      | .latched t => .next t
      | .trap t f => .next (t.raiseLane f)

end Sys2Proof.Machine
end

