-- ==== Sys2Proof/Machine/Uniform.lean ====
section
/-! DEFINITION. Uniform and affine arithmetic, compare, moves and immediate loads of the control stream (R162–R165). -/

namespace Sys2Proof.Machine

/-- No affine operand: the first affine one is at fault (R162). -/
def onlyUniform (a b : RegVal) : Option Nat := if a.isAffine then some 2 else if b.isAffine then some 3 else none

/-- Every pairing of uniform and affine. -/
def anyPair (_ _ : RegVal) : Option Nat := none

/-- An affine b is at fault. -/
def uniformB (_ b : RegVal) : Option Nat := if b.isAffine then some 3 else none

/-- Two affine operands are at fault. -/
def notBoth (a b : RegVal) : Option Nat := if a.isAffine && b.isAffine then some 3 else none

/-- Uniform where both are, affine with the given base and stride otherwise. -/
def uniOrAff (a b : RegVal) (base stride : Word) : RegVal :=
  if a.isAffine || b.isAffine then .affine base stride else .uniform base

/-- The checks of a pairing (R162): the operand at fault raises shape misuse. -/
def State.pairOk (s : State) (bad : Option Nat) (A B : Opd) : Try Unit :=
  match bad with
  | some 2 => fail s (shapeFault 2 A.g)
  | some _ => fail s (shapeFault 3 B.g)
  | none => .ok ()

/-- `op vd, va, vb` (R162): the result goes to all 32 lanes of vd with the operative tag. -/
def State.arith (s : State) (p : Bool) (d a b : BitVec 8) (x : Bool) (bad : RegVal → RegVal → Option Nat)
    (f : Tag → RegVal → RegVal → RegVal) : Host.Outcome State Fault Refusal :=
  s.control p fun s => Try.act do
    let A := { s.src 2 a with affine := true }
    let B := { s.src 3 b x with affine := true }
    s.needFree [d.toNat]
    s.rangesOk [(1, d.toNat, 1), (2, a.toNat, 1), (3, b.toNat, 1)]
    s.shapesOk [A, B]
    s.pairOk (bad A.g.val B.g.val) A B
    s.tagsOk tBits [A, B]
    let t := operative [A, B]
    return .done (s.ctlWrite d.toNat { val := f t A.g.val B.g.val, tag := t })

/-- A uniform function of two uniform words. -/
def onWords (f : Tag → Word → Word → Word) (t : Tag) (a b : RegVal) : RegVal := .uniform (f t a.base b.base)

def addVal (_ : Tag) (a b : RegVal) : RegVal := uniOrAff a b (a.base + b.base) (a.stride + b.stride)
def subVal (_ : Tag) (a b : RegVal) : RegVal := uniOrAff a b (a.base - b.base) a.stride
def mulVal (_ : Tag) (a b : RegVal) : RegVal :=
  uniOrAff a b (a.base * b.base) (if a.isAffine then a.stride * b.base else a.base * b.stride)

/-- A left shift, 0 from 32 on (R162). -/
def shlW (a b : Word) : Word := if 32 ≤ b.toNat then 0 else a <<< b.toNat
/-- A logical right shift, 0 from 32 on. -/
def shrW (a b : Word) : Word := if 32 ≤ b.toNat then 0 else a >>> b.toNat
/-- An arithmetic right shift, all sign from 32 on. -/
def sraW (a b : Word) : Word := a.sshiftRight (min b.toNat 32)

def shlVal (_ : Tag) (a b : RegVal) : RegVal := uniOrAff a b (shlW a.base b.base) (shlW a.stride b.base)

/-- Bits [63:32] of the 64-bit product, signed or not. -/
def mulhiW (sgn : Bool) (a b : Word) : Word :=
  if sgn then BitVec.ofInt 32 (a.toInt * b.toInt / 2 ^ 32) else BitVec.ofNat 32 (a.toNat * b.toNat / 2 ^ 32)

/-- The lesser of two words, signed or not. -/
def minW (sgn : Bool) (a b : Word) : Word := if (if sgn then a.sle b else a.ule b) then a else b
/-- The greater of two words, signed or not. -/
def maxW (sgn : Bool) (a b : Word) : Word := if (if sgn then a.sle b else a.ule b) then b else a

/-- T is i32: the operations that R162 calls signed are signed. -/
def isI32 (t : Tag) : Bool := decide (t = tI32)

def execUadd (p : Bool) (d a b : BitVec 8) (x : Bool) (s : State) : Host.Outcome State Fault Refusal :=
  s.arith p d a b x anyPair addVal

def execUsub (p : Bool) (d a b : BitVec 8) (x : Bool) (s : State) : Host.Outcome State Fault Refusal :=
  s.arith p d a b x uniformB subVal

def execUmul (p : Bool) (d a b : BitVec 8) (x : Bool) (s : State) : Host.Outcome State Fault Refusal :=
  s.arith p d a b x notBoth mulVal

def execUmulh (p : Bool) (d a b : BitVec 8) (x : Bool) (s : State) : Host.Outcome State Fault Refusal :=
  s.arith p d a b x onlyUniform (onWords fun t u v => mulhiW (isI32 t) u v)

/-- `umad` (R162): vd is a third source, whose tag enters T and whose stride is kept. -/
def execUmad (p : Bool) (d a b : BitVec 8) (x : Bool) (s : State) : Host.Outcome State Fault Refusal :=
  s.control p fun s => Try.act do
    let A := s.src 2 a
    let B := s.src 3 b x
    let D := { s.src 1 d with affine := true }
    s.needFree [d.toNat]
    s.rangesOk [(1, d.toNat, 1), (2, a.toNat, 1), (3, b.toNat, 1)]
    s.shapesOk [A, B, D]
    s.tagsOk tBits [A, B, D]
    let t := operative [A, B, D]
    let v := D.g.val.base + A.u * B.u
    return .done (s.ctlWrite d.toNat { val := if D.g.val.isAffine then .affine v D.g.val.stride else .uniform v, tag := t })

def execUshl (p : Bool) (d a b : BitVec 8) (x : Bool) (s : State) : Host.Outcome State Fault Refusal :=
  s.arith p d a b x uniformB shlVal

def execUshr (p : Bool) (d a b : BitVec 8) (x : Bool) (s : State) : Host.Outcome State Fault Refusal :=
  s.arith p d a b x onlyUniform (onWords fun _ u v => shrW u v)

def execUsra (p : Bool) (d a b : BitVec 8) (x : Bool) (s : State) : Host.Outcome State Fault Refusal :=
  s.arith p d a b x onlyUniform (onWords fun _ u v => sraW u v)

def execUand (p : Bool) (d a b : BitVec 8) (x : Bool) (s : State) : Host.Outcome State Fault Refusal :=
  s.arith p d a b x onlyUniform (onWords fun _ u v => u &&& v)

def execUor (p : Bool) (d a b : BitVec 8) (x : Bool) (s : State) : Host.Outcome State Fault Refusal :=
  s.arith p d a b x onlyUniform (onWords fun _ u v => u ||| v)

def execUxor (p : Bool) (d a b : BitVec 8) (x : Bool) (s : State) : Host.Outcome State Fault Refusal :=
  s.arith p d a b x onlyUniform (onWords fun _ u v => u ^^^ v)

def execUmin (p : Bool) (d a b : BitVec 8) (x : Bool) (s : State) : Host.Outcome State Fault Refusal :=
  s.arith p d a b x onlyUniform (onWords fun t u v => minW (isI32 t) u v)

def execUmax (p : Bool) (d a b : BitVec 8) (x : Bool) (s : State) : Host.Outcome State Fault Refusal :=
  s.arith p d a b x onlyUniform (onWords fun t u v => maxW (isI32 t) u v)

/-- `ucmp` (R163): the two values become the split's condition codes, whatever the windows (R147). -/
def execUcmp (p : Bool) (a b : BitVec 8) (x : Bool) (s : State) : Host.Outcome State Fault Refusal :=
  s.control p fun s => Try.act do
    let A := s.src 2 a
    let B := s.src 3 b x
    s.operands [(2, a.toNat, 1), (3, b.toNat, 1)] [A, B]
    return .done (s.modMe fun y => { y with cmpA := A.u, cmpB := B.u })

/-- `umov` (R164): value, shape and tag. -/
def execUmov (p : Bool) (d b : BitVec 8) (x : Bool) (s : State) : Host.Outcome State Fault Refusal :=
  s.control p fun s => Try.act do
    let B := { s.src 3 b x with affine := true, anyTag := true }
    s.needFree [d.toNat]
    s.operands [(1, d.toNat, 1), (3, b.toNat, 1)] [B]
    return .done (s.ctlWrite d.toNat B.g)

/-- `uaff` (R164): base va, stride vb. -/
def execUaff (p : Bool) (d a b : BitVec 8) (x : Bool) (s : State) : Host.Outcome State Fault Refusal :=
  s.control p fun s => Try.act do
    let A := s.src 2 a
    let B := s.src 3 b x
    s.needFree [d.toNat]
    s.operands [(1, d.toNat, 1), (2, a.toNat, 1), (3, b.toNat, 1)] [A, B]
    return .done (s.ctlWrite d.toNat { val := .affine A.u B.u, tag := operative [A, B] })

/-- `usel` (R164): copies vb into va when the condition holds on the codes as they then stand. -/
def execUsel (p : Bool) (cond : BitVec 4) (a b : BitVec 8) (first : Bool) (s : State) : Host.Outcome State Fault Refusal :=
  s.control p fun s => Try.act do
    let B := { s.src 3 b first with affine := true, anyTag := true }
    s.needFree [a.toNat]
    s.operands [(2, a.toNat, 1), (3, b.toNat, 1)] [B]
    return .done (if condHolds cond.toNat s.me.cmpA s.me.cmpB then s.ctlWrite a.toNat B.g else s)

/-- `ulim` (R165). -/
def execUlim (p : Bool) (d : BitVec 8) (imm : BitVec 17) (s : State) : Host.Outcome State Fault Refusal :=
  s.control p fun s => Try.act do
    s.needFree [d.toNat]
    s.rangesOk [(1, d.toNat, 1)]
    return .done (s.ctlWrite d.toNat (uni (imm.signExtend 32) tI32))

/-- `ulih` (R165): vd is a source of one of the three plain tags, which it keeps. -/
def execUlih (p : Bool) (d : BitVec 8) (imm : BitVec 16) (s : State) : Host.Outcome State Fault Refusal :=
  s.control p fun s => Try.act do
    let D := s.src 1 d
    s.needFree [d.toNat]
    s.operands [(1, d.toNat, 1)] [D]
    return .done (s.ctlWrite d.toNat (uni (imm ++ D.u.setWidth 16) D.g.tag))

end Sys2Proof.Machine
end

