-- ==== Sys2Proof/Machine/LaneAlu.lean ====
section
/-! DEFINITION. The shared course of a lane instruction that computes per lane (R188–R194): checks, result shape and tag, and the write of d. -/

namespace Sys2Proof.Machine

/-- What tags a lane source accepts (R192): the fmt's, any, any in the even register of a pair (R193), the plain ones of a control operand, or i32 and bits. -/
inductive Accept where
  | fmt
  | any
  | pair
  | plain
  | i32
  deriving DecidableEq, Repr

/-- A lane source with its modifier, its register and what it accepts. -/
structure LSrc where
  v : LVal
  m : BitVec 7 := 0
  r : BitVec 8 := 0
  ok : Accept := .fmt

/-- The fields of an immediate form as those of the register form, b and c unused. -/
def immOp (f : LaneImm) : LaneOp :=
  { p := f.p, d := f.d, a := f.a, mask := f.mask, moda := f.moda, rnd := f.rnd, fmt := f.fmt, ext := f.ext.setWidth 20 }

def State.srcA (s : State) (E : Mask) (f : LaneOp) (pair : Bool) (ok : Accept := .fmt) : LSrc :=
  { v := s.lval E 2 f.a f.moda pair, m := f.moda, r := f.a, ok }

/-- Operand b: a register, or the immediate (R136). -/
def State.srcB (s : State) (E : Mask) (f : LaneOp) (imm : Option Word) (pair : Bool) (ok : Accept := .fmt) : LSrc :=
  match imm with
  | some w => { v := immVal f.fmt w, ok := .any }
  | none => { v := s.lval E 3 f.b f.modb pair, m := f.modb, r := f.b, ok }

def State.srcC (s : State) (E : Mask) (f : LaneOp) (pair : Bool) (ok : Accept := .fmt) : LSrc :=
  { v := s.lval E 4 f.c f.modc pair, m := f.modc, r := f.c, ok }

/-- A source's tag is accepted (R192, R193). -/
def State.srcOk (s : State) (E : Mask) (fmt : Nat) (x : LSrc) : LTry Unit :=
  match x.ok with
  | .fmt => s.lfmt E x.v x.m x.r fmt
  | .any => .ok ()
  | .pair => s.lodd E x.v x.m x.r
  | .plain => s.ltag E x.v x.m plainTag
  | .i32 => s.ltag E x.v x.m fun t => decide (t = tI32) || decide (t = tBits)

def State.srcsOk (s : State) (E : Mask) (fmt : Nat) : List LSrc → LTry Unit
  | [] => .ok ()
  | x :: l => match s.srcOk E fmt x with
    | .ok _ => s.srcsOk E fmt l
    | .error e => .error e

/-- The registers of the sources, with the odd one of a pair (R191). -/
def srcRanges (pair : Bool) (l : List LSrc) : List (Nat × Nat × Nat) :=
  (l.filter fun x => x.v.isReg).map fun x => (x.v.field, x.r.toNat, if pair && (x.ok = .fmt || x.ok = .pair) then 2 else 1)

/-- The tag of R192 for bitwise, move, permute and shuffle instructions: that of the first register source when all are equal, bits otherwise. -/
def commonTag (l : List LSrc) : Tag :=
  match l.filter fun x => x.v.isReg with
  | [] => tBits
  | x :: r => if r.all (fun y => decide (y.v.tag = x.v.tag)) then x.v.tag else tBits

/-- A lane instruction with a register result: sources, result tag, an override of the shape rule, and the result of each lane. -/
def State.compute (s : State) (i : Instr) (f : LaneOp) (pair : Bool) (srcs : State → Mask → List LSrc)
    (tag : List LSrc → Tag) (shape : Mask → List LVal → Shp) (g : List LVal → Nat → Nat) :
    Host.Outcome State Fault Refusal :=
  s.lanes i f.p fun s => LTry.act do
    let E := s.execMask f.mask
    let l := srcs s E
    let vs := l.map LSrc.v
    s.lranges ((1, f.d.toNat, if pair then 2 else 1) :: srcRanges pair l)
    s.srcsOk E f.fmt.toNat l
    return .done (s.putResult f.d pair E (shape E vs) (tag l) (g vs))

/-- The value of the `k`-th source in a lane. -/
def val (vs : List LVal) (k l : Nat) : Nat :=
  match vs[k]? with
  | some v => v.at' l
  | none => 0

/-- One source. -/
def oneSrc (pair : Bool) (f : LaneOp) (ok : Accept) (s : State) (E : Mask) : List LSrc := [s.srcA E f pair ok]

/-- Two sources, b possibly an immediate. -/
def twoSrc (pair : Bool) (f : LaneOp) (imm : Option Word) (oka okb : Accept) (s : State) (E : Mask) : List LSrc :=
  [s.srcA E f pair oka, s.srcB E f imm pair okb]

/-- Three sources. -/
def threeSrc (pair : Bool) (f : LaneOp) (oka okb okc : Accept) (s : State) (E : Mask) : List LSrc :=
  [s.srcA E f pair oka, s.srcB E f none pair okb, s.srcC E f pair okc]

/-- The fmt's own tag. -/
def fmtTagOf (f : LaneOp) (_ : List LSrc) : Tag := tagOf f.fmt.toNat

/-- The tag of a (shifts, `rot`, `brev`). -/
def firstTag (l : List LSrc) : Tag :=
  match l with
  | x :: _ => x.v.tag
  | [] => tBits

/-- A lane instruction with a mask result (R53, R197, R198). -/
def State.computeMask (s : State) (i : Instr) (f : LaneOp) (pair : Bool) (srcs : State → Mask → List LSrc)
    (g : List LVal → Nat → Bool) : Host.Outcome State Fault Refusal :=
  s.lanes i f.p fun s => LTry.act do
    let E := s.execMask f.mask
    let l := srcs s E
    s.maskDest f.d
    s.lranges (srcRanges pair l)
    s.srcsOk E f.fmt.toNat l
    return .done (s.putMask f.d E (g (l.map LSrc.v)))

end Sys2Proof.Machine
end

