-- ==== Sys2Proof/Machine/LaneInt.lean ====
section
/-! DEFINITION. Integer, bit, compare, select and mask instructions of the lane stream (R195–R201). -/

namespace Sys2Proof.Machine

/-- The range of an integer format (R64): i32, n32, i8, n8. -/
def intRange (fmt : Nat) : Int × Int :=
  match fmt with
  | 1 => (-2147483648, 2147483647)
  | 10 => (-128, 127)
  | 11 => (0, 255)
  | _ => (0, 4294967295)

/-- The integer that an element's bits hold. -/
def intOf (fmt v : Nat) : Int :=
  match fmt with
  | 1 => signed 32 v
  | 10 => signed 8 v
  | 11 => (v % 256 : Nat)
  | _ => (v % 2 ^ 32 : Nat)

/-- The width of an integer element. -/
def intWidth (fmt : Nat) : Nat := if fmt = 10 ∨ fmt = 11 then 8 else 32

/-- Clamped to a range. -/
def clampTo (r : Int × Int) (x : Int) : Int := if x < r.1 then r.1 else if r.2 < x then r.2 else x

/-- An exact result narrowed: clamped under `.sat`, wrapped otherwise (R195). -/
def narrow (fmt : Nat) (sat : Bool) (x : Int) : Nat := wrap (intWidth fmt) (if sat then clampTo (intRange fmt) x else x)

/-- A function per element: the word, or each of its four bytes (R194). -/
def perElem (fmt : Nat) (g : Nat → Nat → Nat) (a b : Nat) : Nat :=
  if intWidth fmt = 8 then
    natLE ((List.range 4).map fun k => BitVec.ofNat 8 (g (a / 256 ^ k % 256) (b / 256 ^ k % 256)))
  else g a b

/-- An exact integer operation per element, narrowed. -/
def intOp (f : LaneOp) (g : Int → Int → Int) (a b : Nat) : Nat :=
  let fmt := f.fmt.toNat
  perElem fmt (fun x y => narrow fmt (f.ext.getLsbD 0) (g (intOf fmt x) (intOf fmt y))) a b

/-- Affine pairings of `add` (R47). -/
def addShape (f : LaneOp) (E : Mask) (vs : List LVal) : Shp :=
  if E = fullMask && f.ext.getLsbD 0 = false && f.fmt.toNat ≤ 2 then
    match vs with
    | [x, y] =>
      match x.aff, y.aff with
      | some (b, t), some (c, u) => .affine (b + c) (t + u)
      | some (b, t), none => if y.uniform then .affine (b + BitVec.ofNat 32 (y.at' 0)) t else .general
      | none, some (c, u) => if x.uniform then .affine (BitVec.ofNat 32 (x.at' 0) + c) u else .general
      | none, none => shapeOf E vs
    | _ => shapeOf E vs
  else shapeOf E vs

/-- Affine pairing of `sub` (R47): affine and uniform, affine first. -/
def subShape (f : LaneOp) (E : Mask) (vs : List LVal) : Shp :=
  if E = fullMask && f.ext.getLsbD 0 = false && f.fmt.toNat ≤ 2 then
    match vs with
    | [x, y] =>
      match x.aff with
      | some (b, t) => if y.uniform then .affine (b - BitVec.ofNat 32 (y.at' 0)) t else .general
      | none => shapeOf E vs
    | _ => shapeOf E vs
  else shapeOf E vs

/-- A two-source integer instruction whose sources are fmt. -/
def State.int2 (s : State) (i : Instr) (f : LaneOp) (imm : Option Word) (shape : Mask → List LVal → Shp) (g : Nat → Nat → Nat) : Host.Outcome State Fault Refusal :=
  s.compute i f false (twoSrc false f imm .fmt .fmt) (fmtTagOf f) shape fun vs l => g (val vs 0 l) (val vs 1 l)

def execAdd (f : LaneOp) (s : State) : Host.Outcome State Fault Refusal :=
  s.int2 (.add f) f none (addShape f) (intOp f (· + ·))
def execAddImmediate (f : LaneImm) (s : State) : Host.Outcome State Fault Refusal :=
  s.int2 (.addImmediate f) (immOp f) (some f.imm) (addShape (immOp f)) (intOp (immOp f) (· + ·))
def execSub (f : LaneOp) (s : State) : Host.Outcome State Fault Refusal :=
  s.int2 (.sub f) f none (subShape f) (intOp f (· - ·))
def execSubImmediate (f : LaneImm) (s : State) : Host.Outcome State Fault Refusal :=
  s.int2 (.subImmediate f) (immOp f) (some f.imm) (subShape (immOp f)) (intOp (immOp f) (· - ·))

/-- Bits [31:0] of a product. -/
def mulLow (a b : Nat) : Nat := a * b % 2 ^ 32

def execMul (f : LaneOp) (s : State) : Host.Outcome State Fault Refusal := s.int2 (.mul f) f none shapeOf mulLow
def execMulImmediate (f : LaneImm) (s : State) : Host.Outcome State Fault Refusal :=
  s.int2 (.mulImmediate f) (immOp f) (some f.imm) shapeOf mulLow
def execMulhi (f : LaneOp) (s : State) : Host.Outcome State Fault Refusal :=
  s.int2 (.mulhi f) f none shapeOf fun a b => (mulhiW (decide (f.fmt = 1)) (BitVec.ofNat 32 a) (BitVec.ofNat 32 b)).toNat
def execMad (f : LaneOp) (s : State) : Host.Outcome State Fault Refusal :=
  s.compute (.mad f) f false (threeSrc false f .fmt .fmt .fmt) (fmtTagOf f) shapeOf fun vs l =>
    (val vs 0 l * val vs 1 l + val vs 2 l) % 2 ^ 32

/-- The lesser or greater element. -/
def pick2 (f : LaneOp) (wantMax : Bool) (a b : Nat) : Nat :=
  let fmt := f.fmt.toNat
  perElem fmt (fun x y => if decide (intOf fmt x ≤ intOf fmt y) = wantMax then y else x) a b

def execMinL (f : LaneOp) (s : State) : Host.Outcome State Fault Refusal := s.int2 (.minL f) f none shapeOf (pick2 f false)
def execMinImmediate (f : LaneImm) (s : State) : Host.Outcome State Fault Refusal :=
  s.int2 (.minImmediate f) (immOp f) (some f.imm) shapeOf (pick2 (immOp f) false)
def execMaxL (f : LaneOp) (s : State) : Host.Outcome State Fault Refusal := s.int2 (.maxL f) f none shapeOf (pick2 f true)
def execMaxImmediate (f : LaneImm) (s : State) : Host.Outcome State Fault Refusal :=
  s.int2 (.maxImmediate f) (immOp f) (some f.imm) shapeOf (pick2 (immOp f) true)

/-- A one-source instruction. -/
def State.int1 (s : State) (i : Instr) (f : LaneOp) (ok : Accept) (tag : List LSrc → Tag) (g : Nat → Nat) : Host.Outcome State Fault Refusal :=
  s.compute i f false (oneSrc false f ok) tag shapeOf fun vs l => g (val vs 0 l)

def execAbsL (f : LaneOp) (s : State) : Host.Outcome State Fault Refusal :=
  s.int1 (.absL f) f .fmt (fmtTagOf f) fun a => intOp f (fun x _ => if x < 0 then -x else x) a 0
def execNeg (f : LaneOp) (s : State) : Host.Outcome State Fault Refusal :=
  s.int1 (.neg f) f .fmt (fmtTagOf f) fun a => intOp f (fun x _ => -x) a 0

/-- A bitwise instruction on any formats. -/
def State.bit2 (s : State) (i : Instr) (f : LaneOp) (imm : Option Word) (g : Nat → Nat → Nat) : Host.Outcome State Fault Refusal :=
  s.compute i f false (twoSrc false f imm .any .any) commonTag shapeOf fun vs l => g (val vs 0 l) (val vs 1 l)

def execAndL (f : LaneOp) (s : State) : Host.Outcome State Fault Refusal := s.bit2 (.andL f) f none (· &&& ·)
def execAndImmediate (f : LaneImm) (s : State) : Host.Outcome State Fault Refusal :=
  s.bit2 (.andImmediate f) (immOp f) (some f.imm) (· &&& ·)
def execOrL (f : LaneOp) (s : State) : Host.Outcome State Fault Refusal := s.bit2 (.orL f) f none (· ||| ·)
def execOrImmediate (f : LaneImm) (s : State) : Host.Outcome State Fault Refusal :=
  s.bit2 (.orImmediate f) (immOp f) (some f.imm) (· ||| ·)
def execXor (f : LaneOp) (s : State) : Host.Outcome State Fault Refusal := s.bit2 (.xor f) f none (· ^^^ ·)
def execXorImmediate (f : LaneImm) (s : State) : Host.Outcome State Fault Refusal :=
  s.bit2 (.xorImmediate f) (immOp f) (some f.imm) (· ^^^ ·)
def execNotL (f : LaneOp) (s : State) : Host.Outcome State Fault Refusal :=
  s.int1 (.notL f) f .any commonTag fun a => 2 ^ 32 - 1 - a

/-- A shift or rotation: a any, the count i32, n32 or bits, the result tagged as a. -/
def State.shift2 (s : State) (i : Instr) (f : LaneOp) (imm : Option Word) (g : Word → Word → Word) : Host.Outcome State Fault Refusal :=
  s.compute i f false (twoSrc false f imm .any .plain) firstTag shapeOf fun vs l =>
    (g (BitVec.ofNat 32 (val vs 0 l)) (BitVec.ofNat 32 (val vs 1 l))).toNat

/-- Rotation left by b mod 32. -/
def rotW (a b : Word) : Word := a.rotateLeft (b.toNat % 32)

def execShl (f : LaneOp) (s : State) : Host.Outcome State Fault Refusal := s.shift2 (.shl f) f none shlW
def execShlImmediate (f : LaneImm) (s : State) : Host.Outcome State Fault Refusal :=
  s.shift2 (.shlImmediate f) (immOp f) (some f.imm) shlW
def execShr (f : LaneOp) (s : State) : Host.Outcome State Fault Refusal := s.shift2 (.shr f) f none shrW
def execShrImmediate (f : LaneImm) (s : State) : Host.Outcome State Fault Refusal :=
  s.shift2 (.shrImmediate f) (immOp f) (some f.imm) shrW
def execSra (f : LaneOp) (s : State) : Host.Outcome State Fault Refusal := s.shift2 (.sra f) f none sraW
def execSraImmediate (f : LaneImm) (s : State) : Host.Outcome State Fault Refusal :=
  s.shift2 (.sraImmediate f) (immOp f) (some f.imm) sraW
def execRot (f : LaneOp) (s : State) : Host.Outcome State Fault Refusal := s.shift2 (.rot f) f none rotW
def execRotImmediate (f : LaneImm) (s : State) : Host.Outcome State Fault Refusal :=
  s.shift2 (.rotImmediate f) (immOp f) (some f.imm) rotW

def n32Tag (_ : List LSrc) : Tag := tN32

/-- Leading zero bits of a word. -/
def clzW (a : Nat) : Nat := if a = 0 then 32 else 31 - a.log2

/-- Bit k of the result is bit 31 − k of a. -/
def brevW (a : Nat) : Nat := (maskOf fun k => bitOf a (31 - k)).toNat

def execPopc (f : LaneOp) (s : State) : Host.Outcome State Fault Refusal :=
  s.int1 (.popc f) f .any n32Tag fun a => popcount (BitVec.ofNat 32 a)
def execClz (f : LaneOp) (s : State) : Host.Outcome State Fault Refusal := s.int1 (.clz f) f .any n32Tag clzW
def execBrev (f : LaneOp) (s : State) : Host.Outcome State Fault Refusal := s.int1 (.brev f) f .any firstTag brevW

/-- The field that `bfe` extracts (R196). -/
def bfeW (sgn : Bool) (a b c : Nat) : Nat :=
  let pos := b % 32
  let w := min (c % 64) (32 - pos)
  let v := a / 2 ^ pos % 2 ^ w
  if w = 0 then 0 else if sgn then wrap 32 (signed w v) else v

/-- b with the field that `bfi` replaces (R196). -/
def bfiW (a b c : Nat) : Nat :=
  let pos := c % 32
  let w := min (c / 256 % 64) (32 - pos)
  b - (b / 2 ^ pos % 2 ^ w) * 2 ^ pos + (a % 2 ^ w) * 2 ^ pos

def execBfe (f : LaneOp) (s : State) : Host.Outcome State Fault Refusal :=
  s.compute (.bfe f) f false (threeSrc false f .any .plain .plain) (fmtTagOf f) shapeOf fun vs l =>
    bfeW (decide (f.fmt = 1)) (val vs 0 l) (val vs 1 l) (val vs 2 l)
def execBfi (f : LaneOp) (s : State) : Host.Outcome State Fault Refusal :=
  s.compute (.bfi f) f false (threeSrc false f .any .any .plain) (fmtTagOf f) shapeOf fun vs l =>
    bfiW (val vs 0 l) (val vs 1 l) (val vs 2 l)

/-- `cmp` (R197). -/
def State.compareInt (s : State) (i : Instr) (f : LaneOp) (imm : Option Word) : Host.Outcome State Fault Refusal :=
  s.computeMask i f false (twoSrc false f imm .fmt .fmt) fun vs l =>
    condHolds (f.ext.toNat % 16) (BitVec.ofNat 32 (val vs 0 l)) (BitVec.ofNat 32 (val vs 1 l))

def execCmp (f : LaneOp) (s : State) : Host.Outcome State Fault Refusal := s.compareInt (.cmp f) f none
def execCmpImmediate (f : LaneImm) (s : State) : Host.Outcome State Fault Refusal :=
  s.compareInt (.cmpImmediate f) (immOp f) (some f.imm)

/-- `sel` (R199): both sources are any; under .f64 the odd register of each carries f64hi (R193). -/
def execSel (f : LaneOp) (s : State) : Host.Outcome State Fault Refusal :=
  let pair := isF64 f.fmt
  s.lanes (.sel f) f.p fun s => LTry.act do
    let E := s.execMask f.mask
    let l := [s.srcA E f pair (if pair then .pair else .any), s.srcB E f none pair (if pair then .pair else .any)]
    let k := s.laneMask f.c.toNat
    s.lranges ((1, f.d.toNat, if pair then 2 else 1) :: srcRanges pair l)
    s.srcsOk E f.fmt.toNat l
    let vs := l.map LSrc.v
    return .done (s.putResult f.d pair E .general (commonTag l) fun x => if inMask k x then val vs 0 x else val vs 1 x)

/-- Mask logic (R200): masks in a and b, the bits of E of md. -/
def State.maskOp (s : State) (i : Instr) (f : LaneOp) (g : Bool → Bool → Bool) : Host.Outcome State Fault Refusal :=
  s.lanes i f.p fun s => LTry.act do
    let E := s.execMask f.mask
    let a := s.laneMask f.a.toNat
    let b := s.laneMask f.b.toNat
    s.maskDest f.d
    return .done (s.putMask f.d E fun l => g (inMask a l) (inMask b l))

def execMand (f : LaneOp) (s : State) : Host.Outcome State Fault Refusal := s.maskOp (.mand f) f (· && ·)
def execMor (f : LaneOp) (s : State) : Host.Outcome State Fault Refusal := s.maskOp (.mor f) f (· || ·)
def execMxor (f : LaneOp) (s : State) : Host.Outcome State Fault Refusal := s.maskOp (.mxor f) f (· ^^ ·)
def execMnot (f : LaneOp) (s : State) : Host.Outcome State Fault Refusal := s.maskOp (.mnot f) f fun a _ => !a

def execBallot (f : LaneOp) (s : State) : Host.Outcome State Fault Refusal :=
  s.computeMask (.ballot f) f false (oneSrc false f .any) fun vs l => decide (val vs 0 l ≠ 0)

/-- `mcount` and `mprefix` (R201): set bits of the source mask within E. -/
def State.countMask (s : State) (i : Instr) (f : LaneOp) (shape : Mask → Shp) (g : Mask → Nat → Nat) : Host.Outcome State Fault Refusal :=
  s.lanes i f.p fun s => LTry.act do
    let E := s.execMask f.mask
    let m := s.laneMask f.a.toNat &&& E
    s.lranges [(1, f.d.toNat, 1)]
    return .done (s.putResult f.d false E (shape E) tN32 (g m))

def execMcount (f : LaneOp) (s : State) : Host.Outcome State Fault Refusal :=
  s.countMask (.mcount f) f (fun E => shapeOf E []) fun m _ => popcount m
def execMprefix (f : LaneOp) (s : State) : Host.Outcome State Fault Refusal :=
  s.countMask (.mprefix f) f (fun _ => .general) fun m l => popcount (m &&& BitVec.ofNat 32 (2 ^ l - 1))

end Sys2Proof.Machine
end

