-- ==== Sys2Proof/Machine/LaneFloat.lean ====
section
/-! DEFINITION. Floating-point instructions of the lane stream (R198, R207–R211). -/

namespace Sys2Proof.Machine

/-- The floating format of a fmt (R49): f32, f64, bf16, f16, e4m3, e2m1. -/
def floatFmt (fmt : Nat) : FFmt :=
  match fmt with
  | 4 => f64F
  | 6 => bf16F
  | 7 => f16F
  | 8 => e4m3F
  | 9 => e2m1F
  | _ => f32F

/-- A function on the patterns of one element: the lane's f32 or f64, or each of its two bf16 or f16 (R194). -/
def perFloat (fmt : Nat) (g : Nat → Nat → Nat → Nat) (a b c : Nat) : Nat :=
  if fmt = 6 ∨ fmt = 7 then
    g (a % 65536) (b % 65536) (c % 65536) + 65536 * g (a / 65536 % 65536) (b / 65536 % 65536) (c / 65536 % 65536)
  else g a b c

/-- An exact operation on values, rounded once (R207). -/
def rounded (f : LaneOp) (g : FVal → FVal → FVal → FVal) : Nat → Nat → Nat → Nat :=
  let F := floatFmt f.fmt.toNat
  fun a b c => roundF F f.rnd.toNat (g (F.decode a) (F.decode b) (F.decode c))

/-- A one-, two- or three-source floating instruction. -/
def State.float1 (s : State) (i : Instr) (f : LaneOp) (g : Nat → Nat) : Host.Outcome State Fault Refusal :=
  let pair := isF64 f.fmt
  s.compute i f pair (oneSrc pair f .fmt) (fmtTagOf f) shapeOf fun vs l => perFloat f.fmt.toNat (fun a _ _ => g a) (val vs 0 l) 0 0

def State.float2 (s : State) (i : Instr) (f : LaneOp) (imm : Option Word) (g : Nat → Nat → Nat) : Host.Outcome State Fault Refusal :=
  let pair := isF64 f.fmt
  s.compute i f pair (twoSrc pair f imm .fmt .fmt) (fmtTagOf f) shapeOf fun vs l => perFloat f.fmt.toNat (fun a b _ => g a b) (val vs 0 l) (val vs 1 l) 0

/-- The sum and the difference of values. -/
def sumOf (f : LaneOp) : Nat → Nat → Nat := fun a b => rounded f (fun x y _ => faddV f.rnd.toNat x y) a b 0
def diffOf (f : LaneOp) : Nat → Nat → Nat := fun a b => rounded f (fun x y _ => faddV f.rnd.toNat x y.negate) a b 0
def prodOf (f : LaneOp) : Nat → Nat → Nat := fun a b => rounded f (fun x y _ => fmulV x y) a b 0
def lesserOf (f : LaneOp) : Nat → Nat → Nat := fminmax (floatFmt f.fmt.toNat) false
def greaterOf (f : LaneOp) : Nat → Nat → Nat := fminmax (floatFmt f.fmt.toNat) true

def execFadd (f : LaneOp) (s : State) : Host.Outcome State Fault Refusal := s.float2 (.fadd f) f none (sumOf f)
def execFaddImmediate (f : LaneImm) (s : State) : Host.Outcome State Fault Refusal :=
  s.float2 (.faddImmediate f) (immOp f) (some f.imm) (sumOf (immOp f))
def execFsub (f : LaneOp) (s : State) : Host.Outcome State Fault Refusal := s.float2 (.fsub f) f none (diffOf f)
def execFsubImmediate (f : LaneImm) (s : State) : Host.Outcome State Fault Refusal :=
  s.float2 (.fsubImmediate f) (immOp f) (some f.imm) (diffOf (immOp f))
def execFmul (f : LaneOp) (s : State) : Host.Outcome State Fault Refusal := s.float2 (.fmul f) f none (prodOf f)
def execFmulImmediate (f : LaneImm) (s : State) : Host.Outcome State Fault Refusal :=
  s.float2 (.fmulImmediate f) (immOp f) (some f.imm) (prodOf (immOp f))

def execFma (f : LaneOp) (s : State) : Host.Outcome State Fault Refusal :=
  let pair := isF64 f.fmt
  s.compute (.fma f) f pair (threeSrc pair f .fmt .fmt .fmt) (fmtTagOf f) shapeOf fun vs l =>
    perFloat f.fmt.toNat (rounded f (fmaV f.rnd.toNat)) (val vs 0 l) (val vs 1 l) (val vs 2 l)

def execFmin (f : LaneOp) (s : State) : Host.Outcome State Fault Refusal := s.float2 (.fmin f) f none (lesserOf f)
def execFminImmediate (f : LaneImm) (s : State) : Host.Outcome State Fault Refusal :=
  s.float2 (.fminImmediate f) (immOp f) (some f.imm) (lesserOf (immOp f))
def execFmax (f : LaneOp) (s : State) : Host.Outcome State Fault Refusal := s.float2 (.fmax f) f none (greaterOf f)
def execFmaxImmediate (f : LaneImm) (s : State) : Host.Outcome State Fault Refusal :=
  s.float2 (.fmaxImmediate f) (immOp f) (some f.imm) (greaterOf (immOp f))

def execFabs (f : LaneOp) (s : State) : Host.Outcome State Fault Refusal :=
  s.float1 (.fabs f) f fun a => rounded f (fun x _ _ => x.mag) a 0 0
def execFneg (f : LaneOp) (s : State) : Host.Outcome State Fault Refusal :=
  s.float1 (.fneg f) f fun a => rounded f (fun x _ _ => x.negate) a 0 0

/-- An approximating instruction: a fixed function of the input (R210). -/
def State.approx (s : State) (i : Instr) (f : LaneOp) (g : Word → Word) : Host.Outcome State Fault Refusal :=
  s.float1 i f fun a => (g (BitVec.ofNat 32 a)).toNat

def execFrcp (f : LaneOp) (s : State) : Host.Outcome State Fault Refusal := s.approx (.frcp f) f fun a => frcpW (Config.frcp a) a
def execFrsq (f : LaneOp) (s : State) : Host.Outcome State Fault Refusal := s.approx (.frsq f) f fun a => frsqW (Config.frsq a) a
def execFexp2 (f : LaneOp) (s : State) : Host.Outcome State Fault Refusal := s.approx (.fexp2 f) f fun a => fexp2W (Config.fexp2 a) a
def execFlog2 (f : LaneOp) (s : State) : Host.Outcome State Fault Refusal := s.approx (.flog2 f) f fun a => flog2W (Config.flog2 a) a
def execFsin (f : LaneOp) (s : State) : Host.Outcome State Fault Refusal := s.approx (.fsin f) f fun a => trigW 0 (Config.fsin a) a
def execFcos (f : LaneOp) (s : State) : Host.Outcome State Fault Refusal := s.approx (.fcos f) f fun a => trigW 1 (Config.fcos a) a

def execFsqrt (f : LaneOp) (s : State) : Host.Outcome State Fault Refusal :=
  s.float1 (.fsqrt f) f fun a => rounded f (fun x _ _ => fsqrtV x) a 0 0
def execFdiv (f : LaneOp) (s : State) : Host.Outcome State Fault Refusal :=
  s.float2 (.fdiv f) f none fun a b => rounded f (fun x y _ => fdivV x y) a b 0
def execFrnd (f : LaneOp) (s : State) : Host.Outcome State Fault Refusal :=
  s.float1 (.frnd f) f fun a => rounded f (fun x _ _ => frndV f.rnd.toNat x) a 0 0

/-- `fscale` (R207): b is a signed 32-bit count, the same for both elements of a lane, and never a pair. -/
def execFscale (f : LaneOp) (s : State) : Host.Outcome State Fault Refusal :=
  let pair := isF64 f.fmt
  s.compute (.fscale f) f pair (fun s E => [s.srcA E f pair, s.srcB E f none false .i32]) (fmtTagOf f) shapeOf fun vs l =>
    let n := signed 32 (val vs 1 l)
    perFloat f.fmt.toNat (rounded f fun x _ _ => fscaleV x n) (val vs 0 l) 0 0

/-- `fcmp` (R198). -/
def State.compareFloat (s : State) (i : Instr) (f : LaneOp) (imm : Option Word) : Host.Outcome State Fault Refusal :=
  let pair := isF64 f.fmt
  let F := floatFmt f.fmt.toNat
  s.computeMask i f pair (twoSrc pair f imm .fmt .fmt) fun vs l =>
    fcondHolds (f.ext.toNat % 16) (F.decode (val vs 0 l)) (F.decode (val vs 1 l))

def execFcmp (f : LaneOp) (s : State) : Host.Outcome State Fault Refusal := s.compareFloat (.fcmp f) f none
def execFcmpImmediate (f : LaneImm) (s : State) : Host.Outcome State Fault Refusal :=
  s.compareFloat (.fcmpImmediate f) (immOp f) (some f.imm)

def execFcls (f : LaneOp) (s : State) : Host.Outcome State Fault Refusal :=
  let pair := isF64 f.fmt
  s.computeMask (.fcls f) f pair (oneSrc pair f .fmt) fun vs l =>
    f.ext.getLsbD (fclass (floatFmt f.fmt.toNat) (val vs 0 l))

end Sys2Proof.Machine
end

