-- ==== Sys2Proof/Machine/LaneMove.lean ====
section
/-! DEFINITION. Values moved between lanes, byte permutes and lookups, scans and reductions (R202–R206). -/

namespace Sys2Proof.Machine

/-- Lane `l` of a source, as a source of the instruction reads it (R202: lanes outside E included). -/
def execShfl (f : LaneOp) (s : State) : Host.Outcome State Fault Refusal :=
  s.compute (.shfl f) f false (twoSrc false f none .any .plain) commonTag shapeOf fun vs l => val vs 0 (val vs 1 l % 32)

def execShup (f : LaneOp) (s : State) : Host.Outcome State Fault Refusal :=
  let n := f.ext.toNat
  s.compute (.shup f) f false (oneSrc false f .any) commonTag shapeOf fun vs l => val vs 0 (if n ≤ l then l - n else l)

def execShdn (f : LaneOp) (s : State) : Host.Outcome State Fault Refusal :=
  let n := f.ext.toNat
  s.compute (.shdn f) f false (oneSrc false f .any) commonTag shapeOf fun vs l => val vs 0 (if l + n ≤ 31 then l + n else l)

def execShxor (f : LaneOp) (s : State) : Host.Outcome State Fault Refusal :=
  let n := f.ext.toNat
  s.compute (.shxor f) f false (oneSrc false f .any) commonTag shapeOf fun vs l => val vs 0 (l ^^^ n)

/-- Byte `k` of the stream S of R203: vb in the first 128 bytes, va behind it. -/
def streamByte (vs : List LVal) (k : Nat) : Byte :=
  let v := if k < 128 then val vs 1 (k / 4) else val vs 0 ((k - 128) / 4)
  BitVec.ofNat 8 (v / 256 ^ (k % 4))

/-- `shcat` (R203): with both sources uniform, shape misuse; one that is not read takes no part in the check (R188). Since they count as uniform, `trap.info` records shape code 0, also where a modifier makes a general source count so (log 18, a choice of the model). -/
def execShcat (f : LaneOp) (s : State) : Host.Outcome State Fault Refusal :=
  let n := f.ext.toNat
  s.lanes (.shcat f) f.p fun s => LTry.act do
    let E := s.execMask f.mask
    let l := twoSrc false f none .any .any s E
    let vs := l.map LSrc.v
    s.lranges ((1, f.d.toNat, 1) :: srcRanges false l)
    lfailIf s (l.all fun x => x.v.uniform && !(decide (E = 0) && decide (x.m = 64))) (shapeFault 2 (uni 0 tBits))
    return .done (s.putResult f.d false E .general (commonTag l) fun x =>
      natLE ((List.range 4).map fun k => streamByte vs (128 + 4 * x + k - n)))

/-- One byte of a permute (R204). -/
def prmByte (a b sel : Nat) : Nat :=
  if 128 ≤ sel then 0 else
    let i := sel % 8
    if i < 4 then a / 256 ^ i % 256 else b / 256 ^ (i - 4) % 256

def execPrm (f : LaneOp) (s : State) : Host.Outcome State Fault Refusal :=
  s.compute (.prm f) f false (threeSrc false f .any .any .any) commonTag shapeOf fun vs l =>
    natLE ((List.range 4).map fun k => BitVec.ofNat 8 (prmByte (val vs 0 l) (val vs 1 l) (val vs 2 l / 256 ^ k % 256)))

/-- `lut16` (R205): the table is lanes 0 to 3 of vb, which counts as uniform (R189). -/
def execLut16 (f : LaneOp) (s : State) : Host.Outcome State Fault Refusal :=
  let hi := f.ext.getLsbD 0
  s.compute (.lut16 f) f false (twoSrc false f none .any .any) commonTag (fun E vs => shapeOf E (vs.take 1)) fun vs l =>
    natLE ((List.range 4).map fun k =>
      let x := val vs 0 l / 256 ^ k % 256
      let i := if hi then x / 16 else x % 16
      BitVec.ofNat 8 (val vs 1 (i / 4) / 256 ^ (i % 4)))

/-- combine(x, y) of a scan or reduction (R206). -/
def combine (f : LaneOp) (x y : Nat) : Nat :=
  let fmt := f.fmt.toNat
  match f.ext.toNat with
  | 0 => if fmt = 3 then roundF f32F f.rnd.toNat (faddV f.rnd.toNat (f32F.decode x) (f32F.decode y)) else (x + y) % 2 ^ 32
  | 1 => if fmt = 3 then fminmax f32F false x y else if intOf fmt x ≤ intOf fmt y then x else y
  | 2 => if fmt = 3 then fminmax f32F true x y else if intOf fmt x ≤ intOf fmt y then y else x
  | 3 => x &&& y
  | 4 => x ||| y
  | _ => x ^^^ y

/-- combine over an ascending list. -/
def foldLanes (f : LaneOp) : List Nat → Nat
  | [] => 0
  | x :: l => l.foldl (combine f) x

/-- A present value passes a level alone unchanged (R206). -/
def pairUp (f : LaneOp) : List (Option Nat) → List (Option Nat)
  | x :: y :: l =>
    (match x, y with
      | some a, some b => some (combine f a b)
      | some a, none => some a
      | none, y => y) :: pairUp f l
  | l => l

/-- The fixed tree over 32 slots (R206). -/
def treeReduce (f : LaneOp) (l : List (Option Nat)) : Nat :=
  ((pairUp f (pairUp f (pairUp f (pairUp f (pairUp f l))))).headD none).getD 0

/-- A source as read, with E at hand: scans and reductions read only the lanes of E. -/
def State.scanOp (s : State) (i : Instr) (f : LaneOp) (shape : Mask → List LVal → Shp) (g : Mask → List LVal → Nat → Nat) : Host.Outcome State Fault Refusal :=
  s.lanes i f.p fun s => LTry.act do
    let E := s.execMask f.mask
    let l := oneSrc false f .fmt s E
    let vs := l.map LSrc.v
    s.lranges ((1, f.d.toNat, 1) :: srcRanges false l)
    s.srcsOk E f.fmt.toNat l
    return .done (s.putResult f.d false E (shape E vs) (tagOf f.fmt.toNat) (g E vs))

def execLscan (f : LaneOp) (s : State) : Host.Outcome State Fault Refusal :=
  s.scanOp (.lscan f) f (fun _ _ => .general) fun E vs x => foldLanes f (((active E).filter fun l => decide (l ≤ x)).map (val vs 0))

def execLred (f : LaneOp) (s : State) : Host.Outcome State Fault Refusal :=
  s.scanOp (.lred f) f shapeOf fun E vs _ => treeReduce f (lanes32.map fun l => if inMask E l then some (val vs 0 l) else none)

end Sys2Proof.Machine
end

