-- ==== Sys2Proof/Machine/LaneConv.lean ====
section
/-! DEFINITION. Conversions between formats, tags and moves (R212–R218). -/

namespace Sys2Proof.Machine

/-- An integer as an exact value. -/
def intV (i : Int) : FVal := .fin (decide (i < 0)) i.natAbs 0

/-- The value of an element of a format code (R64, R65). -/
def valueOf (fmt v : Nat) : FVal :=
  if fmt = 1 ∨ fmt = 2 ∨ fmt = 10 ∨ fmt = 11 then intV (intOf fmt v) else (floatFmt fmt).decode v

/-- round_M(x, T) for any format T (R69). -/
def roundTo (fmt mode : Nat) (x : FVal) : Nat :=
  if fmt = 1 ∨ fmt = 2 ∨ fmt = 10 ∨ fmt = 11 then
    wrap (intWidth fmt) (roundInt mode (intRange fmt).1 (intRange fmt).2 x)
  else roundF (floatFmt fmt) mode x

/-- `cvt` (R212): the source format is that of va's tag, and f64lo makes va a pair, also an odd va, which fmt .f64 alone bars (R193; log 20). -/
def execCvt (f : LaneOp) (s : State) : Host.Outcome State Fault Refusal :=
  let pair := isF64 f.fmt
  s.lanes (.cvt f) f.p fun s => LTry.act do
    let E := s.execMask f.mask
    let src := code (s.laneReg f.a.toNat).tag
    let wide := decide (src = 4)
    let a := s.srcA E f wide .any
    let unread := decide (E = 0) && decide (f.moda = 64)
    s.lranges [(1, f.d.toNat, if pair then 2 else 1), (2, f.a.toNat, if wide then 2 else 1)]
    lfailIf s (!unread && !(decide (src = 1) || decide (src = 2) || decide (src = 3) || wide)) (tagFault 2 a.v.g)
    lfailIf s (!unread && wide && a.v.tagHi ≠ tF64hi) (tagFault 2 (s.laneReg (f.a.toNat + 1)))
    return .done (s.putResult f.d pair E (shapeOf E [a.v]) (tagOf f.fmt.toNat) fun l =>
      roundTo f.fmt.toNat f.rnd.toNat (valueOf src (a.v.at' l)))

/-- The sources and the element of `pack` (R213). -/
def packTags (fmt : Nat) (t u : Tag) : Bool :=
  match fmt with
  | 6 => decide (t = tF32) && decide (u = tF32)
  | 7 => decide (t = tF32) && decide (u = tF32)
  | 8 => (decide (t = tagOf 6) || decide (t = tagOf 7)) && decide (u = t)
  | 9 => decide (t = tagOf 8) && decide (u = tagOf 8)
  | 10 => decide (t = tI32) && decide (u = tI32)
  | _ => decide (t = tN32) && decide (u = tN32)

/-- Element `k` of a packed word whose elements have `w` bits. -/
def elemAt (w v k : Nat) : Nat := v / 2 ^ (w * k) % 2 ^ w

/-- The packed word of elements of `w` bits, element 0 first. -/
def packElems (w : Nat) (l : List Nat) : Nat := l.foldr (fun e acc => e + 2 ^ w * acc) 0

/-- The lanes of `pack`: `old` is vd's lane for the byte formats. -/
def packLane (f : LaneOp) (srcFmt a b old : Nat) : Nat :=
  let fmt := f.fmt.toNat
  let m := f.rnd.toNat
  let cv (sf v : Nat) := roundTo fmt m (valueOf sf v)
  match fmt with
  | 6 => packElems 16 [cv 3 a, cv 3 b]
  | 7 => packElems 16 [cv 3 a, cv 3 b]
  | 8 => packElems 8 [cv srcFmt (elemAt 16 a 0), cv srcFmt (elemAt 16 a 1), cv srcFmt (elemAt 16 b 0), cv srcFmt (elemAt 16 b 1)]
  | 9 => packElems 4 ((List.range 4).map (fun k => cv 8 (elemAt 8 a k)) ++ (List.range 4).map fun k => cv 8 (elemAt 8 b k))
  | _ =>
    let h := f.ext.toNat % 2
    let sf := if fmt = 10 then 1 else 2
    let x := cv sf a
    let y := cv sf b
    if h = 0 then packElems 8 [x, y, elemAt 8 old 2, elemAt 8 old 3] else packElems 8 [elemAt 8 old 0, elemAt 8 old 1, x, y]

/-- `pack` (R213). For the byte formats vd is a third source: i8x4 or n8x4 to match, or bits. -/
def execPack (f : LaneOp) (s : State) : Host.Outcome State Fault Refusal :=
  s.lanes (.pack f) f.p fun s => LTry.act do
    let E := s.execMask f.mask
    let l := twoSrc false f none .any .any s E
    let vs := l.map LSrc.v
    let D := s.lval E 1 f.d 0 false
    let bytes := decide (10 ≤ f.fmt.toNat)
    let t := (s.laneReg f.a.toNat).tag
    let u := (s.laneReg f.b.toNat).tag
    let na := decide (E = 0) && decide (f.moda = 64)
    let nb := decide (E = 0) && decide (f.modb = 64)
    s.lranges ((1, f.d.toNat, 1) :: srcRanges false l)
    lfailIf s (!na && !packTags f.fmt.toNat t (if f.fmt.toNat = 8 then t else match f.fmt.toNat with | 9 => tagOf 8 | 10 => tI32 | 11 => tN32 | _ => tF32)) (tagFault 2 (s.laneReg f.a.toNat))
    lfailIf s (!nb && !packTags f.fmt.toNat (if f.fmt.toNat = 8 then (if na then u else t) else match f.fmt.toNat with | 9 => tagOf 8 | 10 => tI32 | 11 => tN32 | _ => tF32) u) (tagFault 3 (s.laneReg f.b.toNat))
    lfailIf s (bytes && D.tag ≠ tagOf f.fmt.toNat && D.tag ≠ tBits) (tagFault 1 D.g)
    return .done (s.putResult f.d false E (shapeOf E (if bytes then vs ++ [D] else vs)) (tagOf f.fmt.toNat) fun x =>
      packLane f (code t) (val vs 0 x) (val vs 1 x) (D.at' x))

/-- The source formats of `unpack` (R214). -/
def unpackTag (fmt src : Nat) : Bool :=
  match fmt with
  | 3 => decide (src = 6) || decide (src = 7) || decide (src = 13)
  | 7 => decide (src = 8)
  | 8 => decide (src = 9)
  | 1 => decide (src = 10)
  | _ => decide (src = 11)

/-- 2^(e − 127), and NaN for 0xFF (R67). -/
def scaleV (e : Nat) : FVal := if e = 255 then .nan else .fin false 1 ((e : Int) - 127)

/-- One lane of `unpack` (R214). -/
def unpackLane (f : LaneOp) (src v : Nat) : Nat :=
  let e := f.ext.toNat
  match f.fmt.toNat with
  | 3 => roundTo 3 0 (if src = 13 then scaleV (elemAt 8 v (e % 4)) else valueOf src (elemAt 16 v (e % 2)))
  | 7 => packElems 16 ((List.range 2).map fun k => roundTo 7 0 (valueOf 8 (elemAt 8 v (2 * (e % 2) + k))))
  | 8 => packElems 8 ((List.range 4).map fun k => roundTo 8 0 (valueOf 9 (elemAt 4 v (4 * (e % 2) + k))))
  | 1 => wrap 32 (signed 8 (elemAt 8 v (e % 4)))
  | _ => elemAt 8 v (e % 4)

/-- `unpack` (R214): ext[1] with a bf16x2 or f16x2 source is an illegal encoding. A va beyond the budget, or one that is not read (R52, R188), has no tag to tell: no illegal encoding is raised for it then (log 100, a choice of the model). -/
def execUnpack (f : LaneOp) (s : State) : Host.Outcome State Fault Refusal :=
  s.lanes (.unpack f) f.p fun s => LTry.act do
    let E := s.execMask f.mask
    let a := s.srcA E f false .any
    let src := code a.v.tag
    lfailIf s (f.ext.getLsbD 1 && f.fmt = 3 && decide (f.a.toNat < s.budget) && !(decide (E = 0) && decide (f.moda = 64)) && (decide (src = 6) || decide (src = 7))) { code := 1 }
    s.lranges [(1, f.d.toNat, 1), (2, f.a.toNat, 1)]
    s.ltag E a.v a.m fun t => unpackTag f.fmt.toNat (code t) && decide (t.toNat % 8 = 0)
    return .done (s.putResult f.d false E (shapeOf E [a.v]) (tagOf f.fmt.toNat) fun l => unpackLane f src (a.v.at' l))

/-- A codebook entry as bf16 (R72, R215): the stored entry, either zero as +0. -/
def Codebook.bf16 (k : Codebook) (i : Nat) : Nat :=
  let e := (k.entries.getD i 0).toNat
  if e % 32768 = 0 then 0 else e

/-- `cbdec` (R215). -/
def execCbdec (f : LaneOp) (s : State) : Host.Outcome State Fault Refusal :=
  s.lanes (.cbdec f) f.p fun s => LTry.act do
    let E := s.execMask f.mask
    let a := s.srcA E f false .any
    let cb := tget {} s.myTeam.codebooks (a.v.tag.toNat % 8)
    let p := f.ext.toNat
    s.lranges [(1, f.d.toNat, 1), (2, f.a.toNat, 1)]
    s.ltag E a.v a.m fun t => decide (code t = 12)
    return .done (s.putResult f.d false E (shapeOf E [a.v]) (tagOf 6) fun l =>
      packElems 16 ((List.range 2).map fun e => cb.bf16 (elemAt 4 (a.v.at' l) (2 * p + e))))

/-- The format tag of a register, whatever E holds (R216). -/
def State.retag (s : State) (r : Nat) (t : Tag) : State := s.laneWrite r { s.regNow r with tag := t }

/-- `tag` (R216): a slot with a format other than cb4 is a tag mismatch. The instruction has no source, and R353 names no other word for `trap.info`: that of vd is recorded (log 18, a choice of the model). -/
def execTag (f : LaneOp) (s : State) : Host.Outcome State Fault Refusal :=
  let pair := isF64 f.fmt
  s.lanes (.tag f) f.p fun s => LTry.act do
    s.lranges [(1, f.d.toNat, if pair then 2 else 1)]
    lfailIf s (f.fmt ≠ 12 && f.ext.toNat ≠ 0) (tagFault 6 (s.laneReg f.d.toNat))
    return .done (if pair then (s.retag f.d.toNat tF64lo).retag (f.d.toNat + 1) tF64hi
      else s.retag f.d.toNat (BitVec.ofNat 8 (f.fmt.toNat * 8 + f.ext.toNat)))

/-- `tget` (R217): the tag word of va, which counts as uniform (R189). -/
def execTget (f : LaneOp) (s : State) : Host.Outcome State Fault Refusal :=
  s.lanes (.tget f) f.p fun s => LTry.act do
    let E := s.execMask f.mask
    let w := (s.laneReg f.a.toNat).tagWord
    s.lranges [(1, f.d.toNat, 1), (2, f.a.toNat, 1)]
    return .done (s.putResult f.d false E (shapeOf E []) tN32 fun _ => w.toNat)

/-- The shape that `mov` keeps under a full mask (R47): a modified source counts as uniform. -/
def movShape (E : Mask) (vs : List LVal) : Shp :=
  match vs with
  | [v] => match v.aff with
    | some (b, t) => if E = fullMask then .affine b t else .general
    | none => shapeOf E vs
  | _ => shapeOf E vs

/-- `mov` (R218): the source is any; under .f64 its odd register carries f64hi (R193), and each register of the pair keeps an affine shape when both have one. -/
def execMov (f : LaneOp) (s : State) : Host.Outcome State Fault Refusal :=
  let pair := isF64 f.fmt
  if pair then
    s.lanes (.mov f) f.p fun s => LTry.act do
      let E := s.execMask f.mask
      let a := s.srcA E f true .pair
      let lo := s.lval E 2 f.a f.moda false
      let hi := s.lval E 2 (f.a + 1) f.moda false
      s.lranges [(1, f.d.toNat, 2), (2, f.a.toNat, 2)]
      s.srcOk E 4 a
      let keep := decide (E = fullMask) && lo.aff.isSome && hi.aff.isSome
      let sh (v : LVal) : Shp := if keep then movShape E [v] else shapeOf E [a.v]
      return .done ((s.putLanes f.d.toNat E (sh lo) tF64lo fun l => BitVec.ofNat 32 (lo.at' l)).putLanes (f.d.toNat + 1) E (sh hi) tF64hi fun l => BitVec.ofNat 32 (hi.at' l))
  else s.compute (.mov f) f false (oneSrc false f .any) commonTag movShape fun vs l => val vs 0 l

/-- `mov.F vd, imm` (R218). -/
def execMovImmediate (f : LaneImm) (s : State) : Host.Outcome State Fault Refusal :=
  s.compute (.movImmediate f) (immOp f) false (fun _ _ => [{ v := immVal f.fmt f.imm, ok := .any }]) (fmtTagOf (immOp f)) shapeOf fun vs l => val vs 0 l

end Sys2Proof.Machine
end

