-- ==== Sys2Proof/Machine/Budget.lean ====
section
/-! DEFINITION. The power budget of a region: operating points (R316), reserved units and free units (R315), and the debt of ballast (R391). -/

namespace Sys2Proof.Machine

/-- The record `r` of R287 behind `n` lane cycles from cycle `at'`: `add` is charged in the first, and 384 in each for every matrix unit that is occupied in it. -/
def chargeRec (mx : List Nat) : Nat → Nat → Nat → Nat → Nat
  | 0, _, _, r => r
  | n + 1, at', add, r =>
    chargeRec mx n (at' + 1) 0 (min (2 ^ 24 - 1) (r - r / 64 + add + 384 * (mx.filter fun u => decide (at' < u)).length))

/-- A cluster's lane cycles counted up to a reference time (R7), with the record and the stall cycles of those that have ended (R287, R321): `waits` says that resident splits wait as R321 tells. -/
def Cluster.tick (k : Cluster) (now : Nat) (waits : Bool) (mx : List Nat) : Cluster :=
  let t := k.laneRest + (now - k.clockAt) * k.khz
  let n := t / 1000000
  let k := { k with clockAt := now, laneRest := t % 1000000 }
  if n = 0 then k
  else { k with
    laneAt := k.laneAt + n, recAdd := 0, laneUsed := false
    curRec := BitVec.ofNat 24 (chargeRec mx n k.laneAt k.recAdd k.curRec.toNat)
    stalls := k.stalls + (if waits then (if k.laneUsed then n - 1 else n) else 0) }

/-- The lane cycles of a cluster brought up to now, from its reticle's start on. -/
def State.tickCluster (s : State) (ret k : Nat) (waits : Bool) : State :=
  let c := ret * 72 + 2 * k
  s.modCluster ret k fun x => { x with clockAt := max x.clockAt (s.ret ret).startAt }.tick s.now waits [(s.core c).mxUntil, (s.core (c + 1)).mxUntil]

/-- The voltage of an operating point in mV (R316). -/
def pointMv (n : Nat) : Nat := [780, 700, 620, 550, 480, 420, 380].getD n 380

/-- The lane clock of an operating point in kHz. -/
def pointKhz (n : Nat) : Nat := [2400000, 2200000, 2000000, 1600000, 1200000, 800000, 500000].getD n 500000

/-- The units that a cluster reserves at an operating point. -/
def pointUnits (n : Nat) : Nat := [61, 45, 32, 20, 12, 6, 3].getD n 3

/-- The site of a live reticle is enabled and has not failed (R13, R394). -/
def State.enabled (s : State) (c : Nat) : Bool :=
  let r := s.ret (retOf c)
  r.live && r.defect.enabled.getLsbD (siteOf c) && !r.defect.failed.getLsbD (siteOf c)

/-- A cluster of a reticle has an enabled core. -/
def State.clusterOn (s : State) (ret k : Nat) : Bool := s.enabled (ret * 72 + 2 * k) || s.enabled (ret * 72 + 2 * k + 1)

/-- The units of a cluster's ballast (R391). -/
def Cluster.ballastUnits (k : Cluster) : Nat := (k.ballast.map Prod.snd).getD 0

/-- `RSV`: the fixed draw and what the clusters with an enabled core reserve, ballast included (R315, R316, R323). -/
def State.rsv (s : State) (r : Nat) : Nat :=
  (((List.range 36).filter (s.clusterOn r)).map fun k => (s.cluster r k).unitsHeld + (s.cluster r k).ballastUnits).foldl (· + ·) 656

/-- The budget B (R315). -/
def Reticle.budget (x : Reticle) : Int := (x.capsh : Int) + x.loan

/-- The free units B − `RSV` (R315). -/
def State.freeUnits (s : State) (r : Nat) : Int := (s.ret r).budget - (s.rsv r : Int)

/-- The debt brought up to now (R391): it saturates, and notes that it has reached 0. -/
def Reticle.accrued (x : Reticle) (free : Int) (now : Nat) : Reticle :=
  let n := now - x.debtAt
  let d : Int := (x.debt : Int) - free * (n : Int)
  let debt := min (2 ^ 40 - 1) d.toNat
  if x.debt = 0 ∧ 0 ≤ free then { x with debtAt := now }
  else { x with debt := debt, debtAt := now, debtDone := x.debtDone || (decide (0 < x.debt) && decide (debt = 0)) }

/-- The debt of a region is brought up to now; every change of its budget or reserve comes behind this. -/
def State.accrue (s : State) (r : Nat) : State :=
  let f := s.freeUnits r
  s.modRet r fun x => x.accrued f s.now

/-- A change to a cluster that bears on the reserve. -/
def State.modPower (s : State) (r k : Nat) (f : Cluster → Cluster) : State := (s.accrue r).modCluster r k f

/-- Ballast runs in the region. -/
def State.ballasting (s : State) (r : Nat) : Bool := (List.range 36).any fun k => (s.cluster r k).ballast.isSome

end Sys2Proof.Machine
end

