-- ==== Sys2Proof/Machine/Tiles.lean ====
section
/-! DEFINITION. Tiles: their values, pairs and partners (R54–R56), the operations on them, and their images (R241). -/

namespace Sys2Proof.Machine

/-- The 512 words of a tile, in element order. -/
def Tile.words (t : Tile) : List Nat := (List.range 512).map fun i => (tget 0 t.elems i).toNat

/-- The element table of 512 words. -/
def wordsTable (l : List Nat) : Table Word := tofList 0 0 (l.map fun v => BitVec.ofNat 32 v)

/-- Low words, then high words, of the 512 values of a pair (R55). -/
def pairValues (lo hi : Tile) : List Nat := List.zipWith (fun l h => l + h * 2 ^ 32) lo.words hi.words

/-- The tag-mismatch fault of a tile (R353). -/
def State.tileFault (s : State) (field t : Nat) : Flt :=
  { code := 4, field := field, info := (s.tile t).info.word.toNat % 2 ^ 32 }

/-- The odd tile of an f64 pair (R55). -/
def State.oddPair (s : State) (t : Nat) : Bool := decide (t % 2 = 1) && decide ((s.tile t).info.tag = 2)

/-- The free pool tiles of a group, ascending: those that no wide working tile names (R56). -/
def Group.freePool (x : Group) (k : Core) : List Nat :=
  ((List.range x.poolN).map (x.accBase + x.workTiles + ·)).filter fun i =>
    !(List.range x.workTiles).any fun j =>
      let m := (k.tile (x.accBase + j)).info
      decide (m.tag = 3) && decide (m.partner.toNat = i)

/-- The matrix operations of a group that have not ended, oldest first. -/
def Core.opsOf (k : Core) (g : Nat) : List GangOp := (k.mxq.flatten ++ k.held).filter fun o => decide (o.slot = g)

/-- The group of a slot has matrix operations that have not ended, on one of the tiles. -/
def Core.opsOn (k : Core) (g : Nat) (ts : List Nat) : Bool := (k.opsOf g).any fun o => ts.contains o.tile

/-- A change to a tile's metadata. -/
def State.modTileInfo (s : State) (t : Nat) (f : TileMeta → TileMeta) : State :=
  s.setTile t { s.tile t with info := f (s.tile t).info }

/-- Writing a tile returns a wide tile's partner to the pool and clears `SKIP` and `PEND`. -/
def TileMeta.rewritten (m : TileMeta) : TileMeta := { m with partner := if m.tag = 3 then 0 else m.partner, skip := false, pend := false }

/-- The odd tile of a dissolved pair: +0 and a metadata word at its reset value. -/
def State.dissolve (s : State) (t : Nat) : State :=
  if t % 2 = 0 ∧ (s.tile t).info.tag = 2 ∧ t + 1 < s.here.workTiles then
    (s.setTile (t + 1) {}).modTileInfo t fun m => { m with partner := 0 }
  else s

/-- Tiles t and t + 1 become an f64 pair; the odd tile's metadata holds `TAG` and `PARTNER` only. -/
def State.makePair (s : State) (t : Nat) : State :=
  let b := s.here.accBase + t
  (s.setTile (t + 1) { s.tile (t + 1) with info := { tag := 2, partner := BitVec.ofNat 8 b, thr := 0 } }).modTileInfo t fun m =>
    { m with partner := BitVec.ofNat 8 (b + 1) }

/-- A tile takes 512 values of a kind other than wide (TAG 0 f32, 1 i32, 2 f64), and `f` on its metadata. -/
def State.fillTile (s : State) (t kind : Nat) (v : List Nat) (f : TileMeta → TileMeta) : State :=
  let s := (if kind = 2 then s else s.dissolve t).modTileInfo t TileMeta.rewritten
  let s := if kind = 2 then
      let s := s.makePair t
      (s.setTile t { s.tile t with elems := wordsTable (v.map (· % 2 ^ 32)) }).setTile (t + 1) { s.tile (t + 1) with elems := wordsTable (v.map (· / 2 ^ 32)) }
    else s.setTile t { s.tile t with elems := wordsTable v }
  s.modTileInfo t fun m => f { m with tag := BitVec.ofNat 2 kind }

/-- `TAG` of fmt .f32, .i32 and .f64. -/
def kindOf (fmt : Nat) : Nat := if fmt = 1 then 1 else if fmt = 4 then 2 else 0

/-- The bytes of an image of a kind. -/
def imageSize (kind : Nat) : Nat := if kind < 2 then 2050 else 4098

/-- The image of a working tile. -/
def State.image (s : State) (t : Nat) : List Byte :=
  let x := s.tile t
  let m := x.info
  let side := if m.tag = 1 then (if m.sat then 1 else 0) else m.silt.toNat
  let body := match m.tag.toNat with
    | 2 => (pairValues x (s.tile (t + 1))).flatMap (bytesLE 8)
    | 3 => x.words.flatMap (bytesLE 4) ++ ((s.core s.cur.core).tile m.partner.toNat).words.flatMap (bytesLE 4)
    | _ => x.words.flatMap (bytesLE 4)
  body ++ bytesLE 2 side

/-- An `accld` of the group of the step onto one of the tiles is not yet performed (R241). -/
def State.loading (s : State) (ts : List Nat) : Bool :=
  s.here.pending.any fun a => match a.tile with
    | some (t, kind) => ts.contains t || (decide (kind = 2) && ts.contains (t + 1))
    | none => false

/-- A tile or pair of the group of the step is not at rest: a matrix operation on it has not ended (R239), or an `accld` onto it is not yet performed (R241). -/
def State.tileBusy (s : State) (ts : List Nat) : Bool :=
  (s.core s.cur.core).opsOn s.cur.slot ts || s.loading ts

/-- The image of an `accld` goes into its tile (R241): elements, `TAG`, and `SILT` or `SAT` from the sidecar; `SKIP` and `PEND` clear and `THR` stays. Of the sidecar of an i32 image the rule gives 1 and 0 only: any other value counts by its bit 0 (log 97, a choice of the model). The partner of a wide image was bound when the load issued. -/
def State.loadImage (s : State) (t kind : Nat) (b : List Byte) : State :=
  let side := fieldLE b (b.length - 2) 2
  let word (n i : Nat) := fieldLE b (n * i) n
  let silt (m : TileMeta) : TileMeta := if kind = 1 then { m with sat := decide (side % 2 = 1) } else { m with silt := BitVec.ofNat 16 side }
  if kind ≠ 3 then s.fillTile t kind ((List.range 512).map (word (if kind = 2 then 8 else 4))) silt
  else
    let s := (s.setTile t { s.tile t with elems := wordsTable ((List.range 512).map (word 4)) }).modTileInfo t fun m =>
      { m with silt := BitVec.ofNat 16 side, skip := false, pend := false }
    s.modCore s.cur.core fun k =>
      let p := (s.tile t).info.partner.toNat
      k.setTile p { k.tile p with elems := wordsTable ((List.range 512).map fun i => word 4 (512 + i)) }

/-- The partner of a wide image is bound as its load issues: a tile that is already wide keeps its own, any other takes tile `p` of the pool (R56, R241). -/
def State.bindPartner (s : State) (t p : Nat) : State :=
  if (s.tile t).info.tag = 3 then s else (s.dissolve t).modTileInfo t fun m => { m with tag := 3, partner := BitVec.ofNat 8 p }

end Sys2Proof.Machine
end

