-- ==== Sys2Proof/Machine/Order.lean ====
section
/-! DEFINITION. Accesses performed after their issue (R106, R107, R222), atomics where R101 places them (R100–R102, R229), and releases and acquires (R113–R117, R125, R148). -/

namespace Sys2Proof.Machine

/-- A step made for another split or unit: `cur` is its own afterwards. -/
def State.at (s : State) (u : Cur) (f : State → State) : State := { f { s with cur := u } with cur := s.cur }

/-! ### Atomics -/

/-- The new value of an atomic (R229): fmt 1 i32, 2 n32, 3 f32, 0 none. -/
def atomWord (op fmt : Nat) (old c cmp : Word) : Word :=
  match op with
  | 0 => if fmt = 3 then BitVec.ofNat 32 (roundF f32F 0 (faddV 0 (f32F.decode old.toNat) (f32F.decode c.toNat))) else old + c
  | 1 => if fmt = 3 then BitVec.ofNat 32 (fminmax f32F false old.toNat c.toNat) else minW (decide (fmt = 1)) old c
  | 2 => if fmt = 3 then BitVec.ofNat 32 (fminmax f32F true old.toNat c.toNat) else maxW (decide (fmt = 1)) old c
  | 3 => old &&& c
  | 4 => old ||| c
  | 5 => old ^^^ c
  | 6 => c
  | _ => if old = cmp then c else old

/-- The four bytes of a word with their addresses. -/
def wordBytes (a : Nat) (w : Word) : List (Nat × Byte) := (List.range 4).map fun i => (a + i, byteOf w i)

/-- A read-modify-write in the scratchpad (R101). -/
def State.atomScratch (s : State) (c a : Nat) (f : Word → Word) : Word × State :=
  let old := wordLE (readN (s.scratchByte c) a 4)
  (old, (wordBytes a (f old)).foldl (fun s e => s.setScratch c e.1 e.2) s)

/-- A read-modify-write at the home slice, every lease recalled first (R102). -/
def State.atomHome (s : State) (fa : Nat) (f : Word → Word) : Word × State :=
  let x := s.homeReads none ((List.range 4).map (fa + ·))
  let old := wordLE x.1
  (old, x.2.putBytes (wordBytes fa (f old)))

/-- A read-modify-write in the core's L1, for a team. -/
def State.atomL1 (s : State) (c t fa : Nat) (f : Word → Word) : Word × State :=
  let x := s.loadBytes c true ((List.range 4).map (fa + ·))
  let old := wordLE x.1
  (old, x.2.storeBytes c t true (wordBytes fa (f old)))

/-- The leased lines of an L1, most recent first. -/
def Core.leases (k : Core) : List L1Line := k.l1.filter L1Line.lease

/-- A lease granted (R101): a 65th replaces the least recently used one, and the line is fetched as it stands at home. -/
def State.grant (s : State) (c fa : Nat) : State :=
  let old := (s.core c).leases
  let s := if old.length < 64 then s else match old.getLast? with
    | some l => s.evictLine c l
    | none => s
  let s := (s.fillLine c (fa / 128)).cacheLine fa false
  (s.modTag fa fun t => { t with lessee := some c }).modCore c fun k =>
    { k with l1 := k.l1.map fun l => if l.line = fa / 128 then { l with lease := true } else l }

/-- The slice takes note of an atomic sent by the core at a place (R100): the first on a tag adds nothing, since no other core sent one before it. -/
def State.noteAtomic (s : State) (place fa : Nat) : State :=
  (s.cacheLine fa false).modTag fa fun t => { t with grit := if t.last = none ∨ t.last = some place then t.grit else min 15 (t.grit + 1), last := some place }

/-- A virtual atomic of a team where R101 places it. The slice first takes note of it and recalls another core's lease; the grit that this leaves is the one compared with 8, and where it is below 8 the core has the lease then (log 23, choices of the model). A reduction on a line that was leased to another core is applied at the home slice (R232), and so is an atomic on a line of another wafer. -/
def State.atomVirt (s : State) (c t fa scope : Nat) (cached red : Bool) (f : Word → Word) : Word × State :=
  if !cached then ((s.bypass c fa).noteAtomic (s.place c) fa).atomHome fa f
  else if scope = 0 then s.atomL1 c t fa f
  else if (s.lineTag fa).lessee = some c then s.atomL1 c t fa f
  else
    let leased := (s.lineTag fa).lessee.isSome
    let s := (s.noteAtomic (s.place c) fa).serve (some c) fa
    if 8 ≤ (s.lineTag fa).grit ∨ (red ∧ leased) ∨ faWafer fa ≠ s.wafer then (s.bypass c fa).atomHome fa f
    else (s.grant c fa).atomL1 c t fa f

/-! ### Errors of a line (R92, R220, R231, R376) -/

/-- What an access does at its address. -/
inductive Use where
  | load
  | store
  | atomic
  deriving DecidableEq, Repr

/-- The access-error detail of one line of a target (R220, R231, R353), for an access of the bytes `b` in it: none is a sound target. -/
def State.lineError (s : State) (c fa : Nat) (b : List Nat) (u : Use) (cached : Bool) : Option Nat :=
  if !s.inPart (retOf c) fa then some 5
  else
    match s.target fa with
    | .unassigned => some 1
    | .privileged => some 2
    | .window _ _ => if cached then some 3 else if u = .atomic then some 6 else if u = .load ∧ s.dark fa then some 4 else none
    | .dram =>
      if u = .store then none
      else if s.lost fa && !(cached && (s.core c).validBytes b) then some 4
      else none

/-! ### Parts of an access -/

/-- The number whose bytes were read, extended as R223 says for sub-word sizes. -/
def loaded (size : Nat) (sgn : Bool) (b : List Byte) : Nat :=
  if sgn && decide (size < 4) then wrap 32 (signed (8 * size) (natLE b)) else natLE b

/-- Lanes of an access, each with places of its bytes, that are performed together. -/
abbrev Portion := List (LaneAcc × List Nat)

/-- Whether `l` shares a byte that is not yet performed with `m`. -/
def LaneAcc.meets (l m : LaneAcc) : Bool := l.left.any fun i => m.left.any fun k => decide (l.bytes.getD i 0 = m.bytes.getD k 0)

/-- The lanes of an access that may be performed next: lanes are unordered, but where two name the same byte the lower one comes first (R106). -/
def Access.lanesReady (a : Access) : List LaneAcc :=
  a.lanes.filter fun l => !l.left.isEmpty && a.lanes.all fun m => decide (l.lane ≤ m.lane) || !l.meets m

/-- Every byte of the access is performed. -/
def Access.over (a : Access) : Bool := a.lanes.all fun l => l.left.isEmpty

/-- The bytes of a lane's part that `k` names, by place. -/
def LaneAcc.at (l : LaneAcc) (k : List Nat) : List Nat := k.map fun i => l.bytes.getD i 0

/-- The bytes of an access that are not yet performed; a prefetch orders nothing (R226). -/
def Access.touched (a : Access) : List Nat := if a.kind = .prefetch then [] else a.lanes.flatMap fun l => l.at l.left

/-- An access of the program order of a split: its own, or one that precedes what it does (R28, R118). -/
def Access.of (a : Access) (p : Nat) : Bool := decide (a.split = p) || a.before.contains p

/-- The access with places `k` of lane `n` performed, and the bytes read there. -/
def Access.step (a : Access) (n : Nat) (k : List Nat) (b : List Byte) : Access :=
  { a with
    lanes := a.lanes.map fun l => if l.lane = n then { l with left := l.left.filter fun i => !k.contains i } else l
    got := (k.zip b).foldl (fun t e => aput t (8 * n + e.1) e.2) a.got }

/-- The bytes that a store writes at the places of a lane's part: an image's, or its operand's. -/
def LaneAcc.value (l : LaneAcc) (k : List Nat) : List (Nat × Byte) :=
  let v := if l.data.isEmpty then bytesLE 4 l.val.toNat ++ bytesLE 4 l.valHi.toNat else l.data
  k.map fun i => (l.bytes.getD i 0, v.getD i 0)

/-- The bytes at places `k` of a lane's part are read. -/
def State.readPart (s : State) (c : Nat) (a : Access) (l : LaneAcc) (k : List Nat) : List Byte × State :=
  let b := l.at k
  if a.scratch then (b.map (s.scratchByte c), s)
  else
    let x := s.loadBytes c l.cached b
    (x.1, if l.cached then x.2.notePages c (l.va + k.headD 0) b else x.2)

/-- The bytes of a portion of a store are written, for a team. -/
def State.writePortion (s : State) (c t : Nat) (a : Access) (p : Portion) : State :=
  let b := p.flatMap fun e => e.1.value e.2
  if a.scratch then b.foldl (fun s e => s.setScratch c e.1 e.2) s
  else if p.all fun e => e.1.cached then p.foldl (fun s e => s.notePages c (e.1.va + e.2.headD 0) (e.1.at e.2)) (s.storeBytes c t true b)
  else s.storeBytes c t false b

/-- One lane's read-modify-write. -/
def State.atomLane (s : State) (c t : Nat) (a : Access) (l : LaneAcc) : Word × State :=
  let f := fun old => atomWord a.op a.fmt old l.val l.cmp
  let fa := l.bytes.headD 0
  if a.scratch then s.atomScratch c fa f
  else
    let x := s.atomVirt c t fa a.scope l.cached (a.kind = .reduce) f
    (x.1, if l.cached then x.2.notePages c l.va l.bytes else x.2)

/-- The line of a prefetch is brought into the L1, or only into its home slice (R226); where its home answers with an error, the prefetch is dropped and the error logged (R92). -/
def State.prefetchLine (s : State) (c : Nat) (a : Access) (l : LaneAcc) : State :=
  let fa := l.bytes.headD 0
  match s.lineError c fa [fa] .load true with
  | some i => s.report (retOf c) { code := 10, addr := l.va, info := i, fa := fa }
  | none =>
    if a.op = 1 then s.serve (some c) (lineBase (fa / 128))
    else
      let b := (List.range 128).map (fa / 128 * 128 + ·)
      (s.ensure c b).notePages c (l.va / 128 * 128) b

/-- Places `k` of lane `l` of an access are performed; an atomic is performed whole. -/
def State.performPart (s : State) (c t : Nat) (a : Access) (l : LaneAcc) (k : List Nat) : Access × State :=
  match a.kind with
  | .load =>
    let x := s.readPart c a l k
    (a.step l.lane k x.1, x.2)
  | .store => (a.step l.lane k [], s.writePortion c t a [(l, k)])
  | .prefetch => (a.step l.lane k [], s.prefetchLine c a l)
  | _ =>
    let x := s.atomLane c t a l
    (a.step l.lane l.left (bytesLE 4 x.1.toNat), x.2)

/-- A portion of an access is performed. -/
def State.performPortion (s : State) (c t : Nat) (a : Access) (p : Portion) : Access × State :=
  match p with
  | [(l, k)] => s.performPart c t a l k
  | _ => (p.foldl (fun (a : Access) e => a.step e.1.lane e.2 []) a, s.writePortion c t a p)

/-! ### Ranges, acquires and releases -/

/-- A byte of a line that was reached through virtual page `v` lies in a range (R115, R148): bits [31:0] of its virtual address lie in [base, base + length), modulo 2^32. -/
def inRange (base len : Word) (v fa : Nat) : Bool :=
  decide (len = 0xFFFFFFFF) || decide ((v * 65536 + fa % 65536 + 2 ^ 32 - base.toNat) % 2 ^ 32 < len.toNat)

/-- Two byte intervals meet modulo 2^32 (R148). -/
def meets32 (base len : Word) (src n : Nat) : Bool :=
  len = 0xFFFFFFFF || (len ≠ 0 && decide (0 < n) &&
    (decide ((src + 2 ^ 32 - base.toNat) % 2 ^ 32 < len.toNat) || decide ((base.toNat + 2 ^ 32 - src % 2 ^ 32) % 2 ^ 32 < n)))

/-- The bytes of an L1 line that a range covers through one of the given pages (R115). -/
def L1Line.covered (l : L1Line) (pages : List Nat) (base len : Word) : BitVec 128 :=
  if len = 0 then 0
  else if len = 0xFFFFFFFF then BitVec.allOnes 128
  else (List.range 128).foldl (fun m i => if pages.any fun v => inRange base len v (lineBase l.line + i) then m ||| (1#128 <<< i) else m) 0

/-- The bytes of a line of core `c` that a range covers: through every page that maps it in the partition, and through those by which the core has reached it (R115). -/
def State.coverage (s : State) (c : Nat) (l : L1Line) (base len : Word) : BitVec 128 :=
  l.covered (l.pages ++ s.pagesOf (retOf c) (lineBase l.line)) base len

/-- An acquire at wafer or sys scope (R111, R114): the clean bytes in range are dropped, dirty ones kept. -/
def State.acquire (s : State) (c scope : Nat) (base len : Word) : State :=
  if scope = 0 then s
  else s.modCore c fun k => { k with l1 := k.l1.map fun l => { l with valid := l.valid &&& (l.dirty ||| ~~~s.coverage c l base len) } }

/-- A release at wafer or sys scope (R111, R114, R174): the dirty bytes in range reach their home slices. -/
def State.release (s : State) (c scope : Nat) (base len : Word) : State :=
  if scope = 0 then s
  else (s.core c).l1.foldl (fun t l =>
    if l.dirty &&& s.coverage c l base len = 0 then t else t.cleanLine c l (~~~s.coverage c l base len)) s

/-- The dirty bytes that a release writes back can all reach their home slices now (R103, R326). -/
def State.releasable (s : State) (c scope : Nat) (base len : Word) : Bool :=
  decide (scope = 0) || (s.core c).l1.all fun l => decide (l.dirty &&& s.coverage c l base len = 0) || !s.homeWaits (retOf c) (lineBase l.line)

/-- The tag of a job (R304): reticle, site and issuing sequence. -/
def jobTag (c id : Nat) : Nat := retOf c + siteOf c * 64 + id % 2 ^ 19 * 2 ^ 13

/-- A sys-scope release over a range covers an `nput` from a local source (R125). -/
def coversPut (base len : Word) (scratch : Bool) (src n : Nat) : Bool := scratch || decide (len = 0xFFFFFFFF) || meets32 base len src n

/-- A queued job of the group of the step is an `nput` that leaves the wafer (R124). -/
def State.leaving (s : State) (j : Job) : Bool := decide (j.cmd = 3) && j.far && decide (j.team = s.here.team) && decide (j.gid = s.here.gid) && j.error.isNone

/-- The tags of the `nput`s of the group of the step that a release waits for: posted ones not yet acknowledged or refused, and those still in the queue (R125). -/
def State.covered (s : State) (scope : Nat) (base len : Word) : List Nat :=
  if scope = 2 then
    (s.here.posted.filter fun p => decide (0 < p.left) && !p.refused && coversPut base len p.scratch p.src p.len).map Posted.job
    ++ ((s.core s.cur.core).jobs.filter fun j => s.leaving j && coversPut base len (bitOf j.var 0) ((j.words.getD 0 0).toNat + (j.words.getD 1 0).toNat * 2 ^ 32) (j.words.getD 5 0).toNat).map fun j => jobTag s.cur.core j.id
  else []

/-- An access of the group of the step to a range: scratchpad accesses are to every range (R113), others by the virtual addresses of their bytes and by every page that maps them (R115, R148). -/
def State.inRangeOf (s : State) (base len : Word) (a : Access) : Bool :=
  a.scratch || (decide (len ≠ 0) && a.lanes.any fun l => l.left.any fun i =>
    let va := l.va + i
    let fa := l.bytes.getD i 0
    inRange base len (va / 65536) va || (s.pagesOf (retOf s.cur.core) fa).any fun v => inRange base len v fa)

/-- An access that a fence of a kind over a range waits for, where it precedes the fence (R114): a release for those to the range, an acquire for loads and atomics. -/
def State.waitsFor (s : State) (kind : Nat) (base len : Word) (a : Access) : Bool :=
  decide (a.kind ≠ .prefetch) && ((decide (2 ≤ kind) && s.inRangeOf base len a) || (decide (kind % 2 = 1) && decide (a.kind = .load ∨ a.kind = .atomic)))

/-- A release of the split of the step, placed before an atomic, an arrival or a `spawn`, has not met its conditions: accesses before it are still to be performed, lines cannot be written back yet, or acknowledgements are outstanding (R114, R116, R117, R125, R173). -/
def State.releaseWaits (s : State) (scope : Nat) (base len : Word) : Bool :=
  (s.here.pending.any fun a => a.of s.cur.split && s.waitsFor 2 base len a) || !s.releasable s.cur.core scope base len || !(s.covered scope base len).isEmpty

/-- A fence of the split of the step issues: the accesses that it waits for carry its number (R114, R174). -/
def State.pushFence (s : State) (scope kind : Nat) (base len : Word) : State :=
  let p := s.cur.split
  let n := 1 + (s.here.fences.map FenceWait.id).foldl max 0
  let jobs := if 2 ≤ kind then s.covered scope base len else []
  s.modHere fun x =>
    { x with
      pending := x.pending.map fun a => if a.of p && s.waitsFor kind base len a then { a with due := n :: a.due } else a
      fences := x.fences ++ [{ id := n, jobs := jobs, split := p, scope := scope, kind := kind, base := base, len := len }] }

/-- Fences that are met, and for which no acknowledgement is outstanding, are over. -/
def Group.dropFences (x : Group) : Group := { x with fences := x.fences.filter fun f => !(f.met && f.jobs.isEmpty) }

/-- A fence of a group is met once the accesses before it are performed and its lines can be written back: the release reaches the home slices, and the acquire drops its clean bytes (R114, R174). -/
def State.settleFence (s : State) (c g : Nat) (f : FenceWait) : State :=
  if f.met || ((s.group c g).pending.any fun a => a.due.contains f.id) || (decide (2 ≤ f.kind) && !s.releasable c f.scope f.base f.len) then s
  else
    let s := if 2 ≤ f.kind then s.release c f.scope f.base f.len else s
    let s := if f.kind % 2 = 1 then s.acquire c f.scope f.base f.len else s
    s.modGroup c g fun x => ({ x with fences := x.fences.map fun y => if y.id = f.id then { y with met := true } else y } : Group).dropFences

/-- The fences of a group that can be met are met, in the order of their issue. -/
def State.settleFences (s : State) (c g : Nat) : State := (s.group c g).fences.foldl (fun s f => s.settleFence c g f) s

/-! ### Panels (R238) -/

/-- A member's accesses to the panel bytes of a matrix operation that it has issued wait until the panel has been read (R238). -/
def State.panelBusy (s : State) (bytes : List Nat) : Bool :=
  let k := s.core s.cur.core
  let b := s.myTeam.scratchBase
  (k.held ++ k.mxq.flatten).any fun o => decide (o.slot = s.cur.slot) && !o.started &&
    bytes.any fun a => decide (b + o.panel ≤ a) && decide (a < b + o.panel + 24576)

/-- A control instruction waits for accesses of its group to `n` bytes of the team's allocation (R107), and for a panel that they lie in to have been read (R238). -/
def State.needScratch (s : State) (a n : Nat) : Try Unit := do
  let l := regRun (s.myTeam.scratchBase + a) n
  holdIf (s.panelBusy l) (.panel l)
  s.needPerformed fun x => x.scratch && x.touched.any l.contains

/-! ### Performing -/

/-- The value that an access has read for a lane (R223). -/
def Access.value (a : Access) (l : Nat) : Nat :=
  loaded a.size a.signed ((List.range a.size).map fun i => (aget a.got (8 * l + i)).getD 0)

/-- An access whose bytes are all performed takes effect for its split: a load or atomic writes its register, an `accld` its tile, and lines that a store has sent away are done (R222, R241, R270). -/
def State.complete (s : State) (c t : Nat) (a : Access) : State :=
  let sh : Shp := if a.uniform then .uniform else .general
  let s := match a.kind, a.tile with
    | .load, some x => s.loadImage x.1 x.2 ((List.range a.size).map fun i => (aget a.got i).getD 0)
    | .load, none => s.putResult (BitVec.ofNat 8 a.dst) (a.size = 8) a.mask sh a.tag a.value
    | .atomic, _ => s.putResult (BitVec.ofNat 8 a.dst) false a.mask .general a.tag a.value
    | _, _ => s
  if a.kind = .store && !a.scratch then s.countDone t (s.linesAway c ((a.lanes.filter fun l => !l.cached).flatMap LaneAcc.bytes)) else s

/-- An access that issues: one of an empty execution mask does nothing. The lines that an uncached store sends away count as sent (R270). -/
def State.issueAccess (s : State) (a : Access) : State :=
  if a.lanes.isEmpty then s
  else
    let s := if a.kind = .store && !a.scratch then s.countSent s.here.team (s.linesAway s.cur.core ((a.lanes.filter fun l => !l.cached).flatMap LaneAcc.bytes)) else s
    s.modHere fun x => { x with pending := x.pending ++ [a] }

/-- A byte of a lane's part can be had: in the scratchpad or the L1, or at a home that a plane reaches and that no slot makes wait, with room for its line (R96, R103, R326). -/
def State.mayReach (s : State) (c : Nat) (a : Access) (l : LaneAcc) (b : Nat) : Bool :=
  a.scratch
    || (((l.cached && (match a.kind with
        | .store => true
        | .load => (s.core c).validBytes [b]
        | .prefetch => false
        | _ => (s.core c).validBytes [b] && (decide (a.scope = 0) || decide ((s.lineTag b).lessee = some c))))
      || !s.homeWaits (retOf c) b) && !(l.cached && s.roomWaits c (b / 128)))

/-- A lane's part that is performed whole: an atomic, or a naturally aligned element of 4 bytes or less. Any other may be performed byte by byte (R106). -/
def Access.whole (a : Access) (l : LaneAcc) : Bool :=
  decide (a.kind = .atomic ∨ a.kind = .reduce) || (decide (a.size ≤ 4) && decide (l.va % a.size = 0))

/-- The bytes of an access in a line that are still to be performed, of the lanes that `f` names. -/
def Access.inLine (a : Access) (line : Nat) (f : LaneAcc → Bool) : Portion :=
  (a.lanes.filter f).filterMap fun l =>
    let k := l.left.filter fun i => decide (l.bytes.getD i 0 / 128 = line)
    if k.isEmpty then none else some (l, k)

/-- The listed lines that an uncached store covers whole: they are written at once, which ends their listing (R376). -/
def State.wholeLines (s : State) (a : Access) : List Nat :=
  if a.kind = .store && !a.scratch then
    (((a.lanes.filter fun l => !l.cached).flatMap fun l => (l.at l.left).map (· / 128)).eraseDups).filter fun line =>
      s.lost (lineBase line) && (List.range 128).all fun i => (a.inLine line fun l => !l.cached).any fun e => (e.1.at e.2).contains (lineBase line + i)
  else []

/-- The portions of an access that may be performed next, behind the accesses `ahead` of its group: a byte comes behind an earlier access to it (R107). -/
def State.portions (s : State) (c : Nat) (ahead : List Access) (a : Access) : List Portion :=
  let lines := s.wholeLines a
  let single (l : LaneAcc) : List Portion :=
    let k := l.left.filter fun i => !lines.contains (l.bytes.getD i 0 / 128)
    if k.isEmpty then [] else if a.whole l || decide (k.length = 1) then [[(l, k)]] else [(l, k)] :: k.map fun i => [(l, [i])]
  let free (l : LaneAcc) (b : Nat) : Bool := s.mayReach c a l b && (decide (a.kind = .prefetch) || !ahead.any fun x => decide (x.scratch = a.scratch) && x.touched.contains b)
  (lines.map (fun line => a.inLine line fun l => !l.cached) ++ a.lanesReady.flatMap single).filter fun p => p.all fun e => (e.1.at e.2).all (free e.1)

/-- The portions of an access of a group, by its place, that may be performed next. -/
def State.portionsAt (s : State) (c g i : Nat) : List Portion :=
  let l := (s.group c g).pending
  match l[i]? with
  | some a => s.portions c (l.take i) a
  | none => []

/-- A portion of an access of a group, by its place, is performed; after the last one the access takes effect. -/
def State.performAt (s : State) (c g i : Nat) (a : Access) (p : Portion) : State :=
  let t := (s.group c g).team
  s.at { s.cur with core := c, slot := g, split := a.split, team := t } fun s =>
    let r := s.performPortion c t a p
    if r.1.over then (r.2.modGroup c g fun x => { x with pending := x.pending.eraseIdx i }).complete c t r.1
    else r.2.modGroup c g fun x => { x with pending := setAt x.pending i r.1 }

/-- ACCESS_PERFORMED: an access issued earlier is performed (R222), one portion of it: the access of the step's index. The lanes are unordered (R106): which portion comes is free. -/
def execAccessPerformed (s : State) : Host.Outcome State Fault Refusal :=
  let c := s.cur.core
  let g := s.cur.slot
  let p := s.portionsAt c g s.cur.idx
  let d := if p.length ≤ 1 then (0, s) else s.draw
  .next (match (s.group c g).pending[s.cur.idx]?, p[d.1.toNat % p.length]? with
    | some a, some x => d.2.performAt c g s.cur.idx a x
    | _, _ => s)

/-- What a group has issued to a line is performed before the line is lost: it preceded the loss (R376). -/
def State.settleLine (s : State) (c g line : Nat) : State :=
  let x := s.group c g
  let r := x.pending.foldl (fun (z : List Access × State) a =>
    let p := if a.scratch || decide (a.kind = .prefetch) then [] else a.inLine line fun _ => true
    if p.isEmpty then (z.1 ++ [a], z.2)
    else
      let y := p.foldl (fun (y : Access × State) e => y.2.performPart c x.team y.1 e.1 e.2) (a, z.2)
      if y.1.over then (z.1, y.2.at { y.2.cur with core := c, slot := g, split := a.split, team := x.team } fun s => s.complete c x.team y.1)
      else (z.1 ++ [y.1], y.2)) ([], s)
  r.2.modGroup c g fun y => { y with pending := r.1 }

end Sys2Proof.Machine
end

