-- ==== Sys2Proof/Machine/LaneMem.lean ====
section
/-! DEFINITION. Memory instructions of the lane stream: addresses and their checks (R219–R222), loads and stores (R223, R224), prefetch (R226), spill and fill (R227, R228), atomics (R229–R233). -/

namespace Sys2Proof.Machine

/-! ### Reaching memory -/

/-- The permission of R87 and its detail of R353. -/
def Use.allowed (u : Use) (pte : Dword) : Bool :=
  match u with
  | .load => pte.getLsbD 3
  | _ => pte.getLsbD 4

def Use.info (u : Use) : Nat :=
  match u with
  | .load => 3
  | _ => 2

/-- A page is cached (R87). -/
def pteCached (pte : Dword) : Bool := decide (bitsOf pte.toNat 9 8 = 0)

/-- The lines that `n` bytes from `fa` lie in: `fa` itself, and the first byte of each further line. No boundary of R92 and R93 falls inside a line. -/
def linesFrom (fa n : Nat) : List Nat := fa :: (List.range ((fa % 128 + n - 1) / 128)).map fun i => (fa / 128 + 1 + i) * 128

/-- The first line of an access of `n` bytes from `fa` that answers with an error, and its detail. -/
def State.accessError (s : State) (c fa n : Nat) (u : Use) (cached : Bool) : Option (Nat × Nat) :=
  (linesFrom fa n).findSome? fun a =>
    (s.lineError c a (((List.range n).map (fa + ·)).filter fun x => decide (x / 128 = a / 128)) u cached).map fun i => (a, i)

/-- The fabric address of the bytes at a virtual address, all in one page, and whether they are cached. -/
def State.reach (s : State) (c va n : Nat) (u : Use) : Except Flt (Nat × Bool) :=
  match s.translate c va with
  | .fault l => .error { code := 8, addr := va, info := l }
  | .error fa => .error { code := 10, addr := va, info := 4, fa := fa }
  | .ok fa pte =>
    if !u.allowed pte then .error { code := 9, addr := va, info := u.info }
    else match s.accessError c fa n u (pteCached pte) with
      | some (a, i) => .error { code := 10, addr := va, info := i, fa := a }
      | none => .ok (fa, pteCached pte)

/-- The bytes of an element, one or two pages (R221); of the faults of two pages the first in R220's order is raised. -/
def State.span (s : State) (c va n : Nat) (u : Use) : Except Flt (List Nat × Bool) :=
  let k := min n (65536 - va % 65536)
  if k = n then
    match s.reach c va n u with
    | .error f => .error f
    | .ok (fa, cached) => .ok ((List.range n).map (fa + ·), cached)
  else
    match s.reach c va k u, s.reach c (va + k) (n - k) u with
    | .ok (fa, cached), .ok (fb, cached') => .ok ((List.range k).map (fa + ·) ++ (List.range (n - k)).map (fb + ·), cached && cached')
    | .error f, .error g => .error (if g.code < f.code then { g with addr := va } else f)
    | .error f, .ok _ => .error f
    | .ok _, .error g => .error { g with addr := va }

/-- The bytes of an element in the team's scratchpad allocation (R219). -/
def State.scratchSpan (s : State) (a n : Nat) : Except Flt (List Nat × Bool) :=
  if s.scratchSize < a + n then .error { code := 7, addr := a, info := s.scratchSize }
  else .ok ((List.range n).map (s.myTeam.scratchBase + a + ·), false)

/-! ### Addresses -/

/-- Operand a: a pair in the virtual space, one register in the scratchpad space (R219). -/
def State.baseSrc (s : State) (E : Mask) (virt : Bool) (f : LaneOp) : LVal := s.lval E 2 f.a f.moda virt

/-- The offset: b, or the immediate. -/
def State.offSrc (s : State) (E : Mask) (f : LaneOp) (imm : Option Word) : LVal :=
  match imm with
  | some w => immVal f.fmt w
  | none => s.lval E 3 f.b f.modb false

/-- The offset is read signed, and unsigned when b carries n32 (R219). -/
def offValue (b : LVal) (l : Nat) : Int := if b.isReg && b.tag = tN32 then (b.at' l : Int) else signed 32 (b.at' l)

/-- The address of a lane (R219). -/
def laneAddress (virt : Bool) (a b : LVal) (l : Nat) : Nat := wrap (if virt then 64 else 32) ((a.at' l : Int) + offValue b l)

/-- The register ranges of the address sources. -/
def addrRanges (virt : Bool) (f : LaneOp) (imm : Option Word) : List (Nat × Nat × Nat) :=
  (2, f.a.toNat, if virt then 2 else 1) :: (if imm.isSome then [] else [(3, f.b.toNat, 1)])

/-- The address registers carry bits, i32 or n32 (R219). -/
def State.addrTags (s : State) (E : Mask) (virt : Bool) (f : LaneOp) (a b : LVal) : LTry Unit := do
  s.ltag E a f.moda plainTag
  lfailIf s (virt && !(decide (E = 0) && decide (f.moda = 64)) && !plainTag a.tagHi) (tagFault 2 (s.laneReg (f.a.toNat + 1)))
  s.ltag E b f.modb plainTag

/-- A uniform address (R227, R239): a non-uniform source is at fault. -/
def State.addrShapes (s : State) (virt : Bool) (f : LaneOp) (a b : LVal) : LTry Unit := do
  lfailIf s (!(f.moda ≠ 0 || a.g.val.isUniform)) (shapeFault 2 a.g)
  let h := s.laneReg (f.a.toNat + 1)
  lfailIf s (virt && !(f.moda ≠ 0 || h.val.isUniform)) (shapeFault 2 h)
  lfailIf s (b.isReg && !(f.modb ≠ 0 || b.g.val.isUniform)) (shapeFault 3 b.g)

/-- Every lane of E checked before any effect; among their faults the first in R220's order, at its lowest lane. -/
def State.checkLanes (s : State) (E : Mask) (f : Nat → Except Flt LaneAcc) : LTry (List LaneAcc) :=
  let r := (active E).map fun l => (l, f l)
  let bad := r.filterMap fun e => match e.2 with
    | .error x => some { x with laneAt := e.1, field := 2 }
    | .ok _ => none
  match firstBy (fun x y => decide (x.code < y.code)) bad with
  | some x => lfail s x
  | none => .ok (r.filterMap fun e => match e.2 with
    | .ok a => some a
    | .error _ => none)

/-- One lane's part of an access in either space. -/
def State.laneAcc (s : State) (virt : Bool) (va n : Nat) (u : Use) (l : Nat) : Except Flt LaneAcc :=
  match (if virt then s.span s.cur.core va n u else s.scratchSpan va n) with
  | .ok (b, cached) => .ok { lane := l, va := va, bytes := b, cached := cached, left := List.range n }
  | .error f => .error f

/-- The virtual pages of elements of `n` bytes: those of their first and last bytes. -/
def spanned (n : Nat) (vas : List Nat) : List Nat := (vas ++ vas.map (· + (n - 1))).eraseDups

/-- An access waits behind a fence of the split whose conditions are not met: any behind a release, one to the range of an acquire behind that (R114, R174). The access is of `n` bytes from each address; every scratchpad access is to every range (R113). -/
def State.lneedFences (s : State) (virt : Bool) (n : Nat) (vas : List Nat) : LTry Unit :=
  let holds (f : FenceWait) : Bool := f.holds s.cur.split && (decide (2 ≤ f.kind) || !virt || (decide (f.len ≠ 0) && vas.any fun va => (List.range n).any fun i => inRange f.base f.len ((va + i) / 65536) (va + i)))
  if s.here.fences.any holds then .error (.hold .fence) else .ok ()

/-- An access whose translations cannot be had yet does not issue (R89, R103). -/
def State.needWalks (s : State) (virt : Bool) (n : Nat) (vas : List Nat) : LTry Unit :=
  if virt && s.walksWait s.cur.core (spanned n vas) then .error (.hold (.memory (spanned n vas))) else .ok ()

def State.needPanel (s : State) (virt : Bool) (bytes : List Nat) : LTry Unit :=
  if !virt && s.panelBusy bytes then .error (.hold (.panel bytes)) else .ok ()

/-- The TLB serves the pages of an access of `n` bytes at each address (R89). -/
def State.useSpans (s : State) (virt : Bool) (n : Nat) (vas : List Nat) : State := if virt then s.useTlbs s.cur.core (spanned n vas) else s

/-! ### Loads and stores -/

/-- The bytes of one element (R223): SIZE in ext[1:0]. -/
def elemSize (f : LaneOp) : Nat :=
  if isF64 f.fmt then 8 else
    match f.ext.toNat % 4 with
    | 1 => 1
    | 2 => 2
    | _ => 4

/-- `ld` and `lds` (R223): the access issues, and is performed later. -/
def State.loadLanes (s : State) (i : Instr) (virt : Bool) (f : LaneOp) (imm : Option Word) : Host.Outcome State Fault Refusal :=
  s.lanes i f.p fun s => LTry.act do
    let E := s.execMask f.mask
    let n := elemSize f
    let a := s.baseSrc E virt f
    let b := s.offSrc E f imm
    s.lranges ((1, f.d.toNat, if isF64 f.fmt then 2 else 1) :: addrRanges virt f imm)
    s.addrTags E virt f a b
    let vas := (active E).map (laneAddress virt a b)
    s.lneedFences virt n vas
    s.needWalks virt n vas
    let l ← s.checkLanes E fun l => s.laneAcc virt (laneAddress virt a b l) n .load l
    s.needPanel virt (l.flatMap LaneAcc.bytes)
    let s := s.useSpans virt n vas
    return .done (s.issueAccess { kind := .load, split := s.cur.split, scratch := !virt, lanes := l, dst := f.d.toNat, size := n, signed := decide (f.fmt = 1), uniform := decide (E = fullMask) && a.uniform && b.uniform, mask := E, tag := tagOf f.fmt.toNat })

/-- The data of a store: vc in its lanes, the low word first under .f64. -/
def withData (v : LVal) (l : LaneAcc) : LaneAcc :=
  { l with val := BitVec.ofNat 32 (v.at' l.lane), valHi := BitVec.ofNat 32 (v.at' l.lane / 2 ^ 32) }

/-- `st` and `sts` (R224): vc is register `r` of field `field`. R43 counts writes to the team's own scratchpad allocation as idempotent and does not say whether a virtual address that maps onto it counts as one: every virtual address counts as outside (log 98, a choice of the model). -/
def State.storeLanes (s : State) (i : Instr) (virt : Bool) (f : LaneOp) (imm : Option Word) (field : Nat) (r : BitVec 8) : Host.Outcome State Fault Refusal :=
  s.lanes i f.p fun s => LTry.act do
    let E := s.execMask f.mask
    let n := elemSize f
    let a := s.baseSrc E virt f
    let b := s.offSrc E f imm
    let v := s.lval E field r f.modc (isF64 f.fmt)
    let data := (field, r.toNat, if isF64 f.fmt then 2 else 1)
    s.lranges (if field = 1 then data :: addrRanges virt f imm else addrRanges virt f imm ++ [data])
    s.addrTags E virt f a b
    if f.fmt ≠ 0 then s.lfmt E v f.modc r f.fmt.toNat
    let vas := (active E).map (laneAddress virt a b)
    s.lneedFences virt n vas
    s.needWalks virt n vas
    let l ← s.checkLanes E fun l => s.laneAcc virt (laneAddress virt a b l) n .store l
    s.needPanel virt (l.flatMap LaneAcc.bytes)
    let s := s.useSpans virt n vas
    let s := if virt && !l.isEmpty then s.clearIdem else s
    return .done (s.issueAccess { kind := .store, split := s.cur.split, scratch := !virt, lanes := l.map (withData v), dst := 256, size := n, mask := E })

def execLd (f : LaneOp) (s : State) : Host.Outcome State Fault Refusal := s.loadLanes (.ld f) true f none
def execLdImmediate (f : LaneImm) (s : State) : Host.Outcome State Fault Refusal := s.loadLanes (.ldImmediate f) true (immOp f) (some f.imm)
def execLds (f : LaneOp) (s : State) : Host.Outcome State Fault Refusal := s.loadLanes (.lds f) false f none
def execLdsImmediate (f : LaneImm) (s : State) : Host.Outcome State Fault Refusal := s.loadLanes (.ldsImmediate f) false (immOp f) (some f.imm)
def execSt (f : LaneOp) (s : State) : Host.Outcome State Fault Refusal := s.storeLanes (.st f) true f none 4 f.c
def execStImmediate (f : LaneImm) (s : State) : Host.Outcome State Fault Refusal := s.storeLanes (.stImmediate f) true (immOp f) (some f.imm) 1 f.d
def execSts (f : LaneOp) (s : State) : Host.Outcome State Fault Refusal := s.storeLanes (.sts f) false f none 4 f.c
def execStsImmediate (f : LaneImm) (s : State) : Host.Outcome State Fault Refusal := s.storeLanes (.stsImmediate f) false (immOp f) (some f.imm) 1 f.d

/-! ### Prefetch -/

/-- One lane of a prefetch, where its translation and permission allow it and its page is cached (R226). -/
def State.prefetchLane (s : State) (va l : Nat) : Option LaneAcc :=
  match s.translate s.cur.core va with
  | .ok fa pte => if Use.load.allowed pte && pteCached pte then some { lane := l, va := va, bytes := [fa], cached := true, left := [0] } else none
  | _ => none

/-- `prf` (R226): into the L1 with ext[0] = 0, only into the home slice with ext[0] = 1. -/
def State.prefetchLanes (s : State) (i : Instr) (f : LaneOp) (imm : Option Word) : Host.Outcome State Fault Refusal :=
  s.lanes i f.p fun s => LTry.act do
    let E := s.execMask f.mask
    let a := s.baseSrc E true f
    let b := s.offSrc E f imm
    s.lranges (addrRanges true f imm)
    s.addrTags E true f a b
    let vas := (active E).map (laneAddress true a b)
    s.needWalks true 1 vas
    let l := (active E).filterMap fun l => s.prefetchLane (laneAddress true a b l) l
    return .done ((s.useSpans true 1 vas).issueAccess { kind := .prefetch, split := s.cur.split, lanes := l, dst := 256, size := 1, op := if f.ext.getLsbD 0 then 1 else 0 })

def execPrf (f : LaneOp) (s : State) : Host.Outcome State Fault Refusal := s.prefetchLanes (.prf f) f none
def execPrfImmediate (f : LaneImm) (s : State) : Host.Outcome State Fault Refusal := s.prefetchLanes (.prfImmediate f) (immOp f) (some f.imm)

/-! ### Spill and fill -/

/-- The bytes of register `i` of a run, or the fault that stops the run there (R227, R228). -/
def State.runSpan (s : State) (virt : Bool) (addr i : Nat) (u : Use) : Except Flt (List Nat × Bool) :=
  let a := if virt then addr + 128 * i else (addr + 128 * i) % 2 ^ 32
  match (if virt then s.span s.cur.core a 128 u else s.scratchSpan a 128) with
  | .ok r => .ok r
  | .error f => .error { f with field := 2, aux := i }

/-- The parts of register `i` of a run: lane L at + 4 L, in the lanes of E. -/
def runParts (addr i : Nat) (E : Mask) (bytes : List Nat) (cached : Bool) (v : Nat → Word) : List LaneAcc :=
  (active E).map fun l => { lane := l, va := addr + 128 * i + 4 * l, bytes := (bytes.drop (4 * l)).take 4, cached := cached, val := v l, left := List.range 4 }

/-- The checks of an `ldm` or `stm` that begins: its address, or a fault (R219, R227). -/
def State.runAddress (s : State) (f : LaneOp) (field : Nat) (r : BitVec 8) (virt : Bool) (E : Mask) (u : Use) : LTry Nat := do
  let n := f.ext.toNat % 32 + 1
  let a := s.baseSrc E virt f
  let b := s.offSrc E f none
  s.lranges (if field = 1 then (field, r.toNat, n) :: addrRanges virt f none else addrRanges virt f none ++ [(field, r.toNat, n)])
  s.addrShapes virt f a b
  s.addrTags E virt f a b
  if u = .store && f.fmt ≠ 0 then
    let bad := (List.range n).find? fun j =>
      let t := (s.laneReg (r.toNat + j)).tag
      !(if f.fmt = 4 then decide (t = if j % 2 = 0 then tF64lo else tF64hi) else fmtTag f.fmt.toNat t)
    match bad with
    | some j => lfail s (tagFault field (s.laneReg (r.toNat + j)))
    | none => .ok ()
  let addr := laneAddress virt a b ((lowestLane E).getD 0)
  lfailIf s (E ≠ 0 && decide (addr % 128 ≠ 0)) { code := 6, field := 2, addr := addr, laneAt := (lowestLane E).getD 0 }
  return addr

/-- The access that moves register `i` of a run (R227): a load into it, or a store of it read through its modifier. -/
def State.runAccess (s : State) (f : LaneOp) (r : BitVec 8) (virt : Bool) (E : Mask) (u : Use) (addr i : Nat) (bytes : List Nat) (cached : Bool) : Access :=
  let g := s.laneReg (r.toNat + i)
  let v (l : Nat) : Word := if u = .store then g.val.lane (modLane f.modc E l) else 0
  { kind := if u = .store then .store else .load, split := s.cur.split, scratch := !virt, lanes := runParts addr i E bytes cached v, dst := if u = .store then 256 else r.toNat + i, size := 4, mask := E, tag := if f.fmt = 4 then (if i % 2 = 0 then tF64lo else tF64hi) else tagOf f.fmt.toNat, run := i + 1 }

/-- The register before the next of a run of the split of the step is still to be transferred (R227). -/
def State.runWaits (s : State) (addr cur : Nat) : Option Stall :=
  s.heldBy fun a => decide (a.split = s.cur.split) && decide (a.run = cur) && decide (cur ≠ 0) && a.lanes.any fun l => decide (l.va = addr + 128 * (cur - 1) + 4 * l.lane)

/-- What `ldm` and `stm` share (R227, R228): the run starts at register `r` of field `field`. One register is translated, checked and moved at a time, from the restart cursor on; the address is that of the first. The idempotent flag clears when every register of a spill has passed its checks (R43, R372). -/
def State.runLanes (s : State) (i : Instr) (f : LaneOp) (field : Nat) (r : BitVec 8) (u : Use) : Host.Outcome State Fault Refusal :=
  s.lanes i f.p fun s =>
    let virt := !f.ext.getLsbD 8
    let n := f.ext.toNat % 32 + 1
    let E := s.execMask f.mask
    let cur := s.me.cursor
    let at' (addr : Nat) (s : State) : State := s.modMe fun y => { y with runAddr := some addr }
    let x : LTry LAct := do
      let addr ← match s.me.runAddr with
        | some a => .ok a
        | none => s.runAddress f field r virt E u
      if E = 0 then return .done s
      let va := addr + 128 * cur
      match s.runWaits addr cur with
      | some w => .error (.hold w)
      | none => .ok ()
      s.lneedFences virt 128 [va]
      s.needWalks virt 128 [va]
      match s.runSpan virt addr cur u with
      | .error x => .error (.trap (at' addr s) { x with laneAt := (lowestLane E).getD 0 })
      | .ok (bytes, cached) =>
        s.needPanel virt bytes
        let t := (s.useSpans virt 128 [va]).issueAccess (s.runAccess f r virt E u addr cur bytes cached)
        if cur + 1 < n then return .part ((at' addr t).modMe fun y => { y with cursor := cur + 1 })
        return .done (if virt && u = .store then t.clearIdem else t)
    match x.act with
    | .trap t g => .trap t (if g.code = 7 ∨ 8 ≤ g.code then g else { g with aux := cur })
    | y => y

def execLdm (f : LaneOp) (s : State) : Host.Outcome State Fault Refusal := s.runLanes (.ldm f) f 1 f.d .load
def execStm (f : LaneOp) (s : State) : Host.Outcome State Fault Refusal := s.runLanes (.stm f) f 4 f.c .store

/-! ### Atomics -/

/-- An atomic's operand carries fmt's tag; any under fmt none, and bits under .i32 and .n32 (R229). -/
def atomTag (fmt : Nat) (t : Tag) : Bool := fmt = 0 || fmtTag fmt t

/-- What `atom`, `ared` and `atoms` share (R229–R233). -/
def State.atomicLanes (s : State) (i : Instr) (virt red : Bool) (f : LaneOp) : Host.Outcome State Fault Refusal :=
  s.lanes i f.p fun s => LTry.act do
    let e := f.ext.toNat
    let op := e % 16
    let scope := e / 16 % 4
    let kind := e / 64 % 4
    let fmt := f.fmt.toNat
    let cas := decide (op = 7)
    let E := s.execMask f.mask
    let a := s.baseSrc E virt f
    let b := s.offSrc E f none
    let v := s.lval E 4 f.c 0 false
    let w := s.lval E 1 f.d 0 false
    let rb := s.laneReg (f.c.toNat + 1)
    let rl := s.laneReg (f.c.toNat + 2)
    s.lranges ((if red then [] else [(1, f.d.toNat, 1)]) ++ addrRanges virt f none ++ [(4, f.c.toNat, if kind = 0 then 1 else 3)])
    lfailIf s (decide (kind ≠ 0) && !rb.val.isUniform) (shapeFault 4 rb)
    lfailIf s (decide (kind ≠ 0) && !rl.val.isUniform) (shapeFault 4 rl)
    s.addrTags E virt f a b
    s.ltag E v 0 (atomTag fmt)
    if cas then s.ltag E w 0 (atomTag fmt)
    lfailIf s (decide (kind ≠ 0) && !plainTag rb.tag) (tagFault 4 rb)
    lfailIf s (decide (kind ≠ 0) && !plainTag rl.tag) (tagFault 4 rl)
    let base := rb.val.lane 0
    let len := rl.val.lane 0
    let vas := (active E).map (laneAddress virt a b)
    s.lneedFences virt 4 vas
    s.needWalks virt 4 vas
    let l ← s.checkLanes E fun l =>
      let va := laneAddress virt a b l
      if va % 4 ≠ 0 then .error { code := 6, addr := va } else s.laneAcc virt va 4 .atomic l
    s.needPanel virt (l.flatMap LaneAcc.bytes)
    if decide (2 ≤ kind) && s.releaseWaits scope base len then .error (.hold (.acks scope base len))
    let s := if 2 ≤ kind then s.release s.cur.core scope base len else s
    let s := s.useSpans virt 4 vas
    let s := if (virt && !l.isEmpty) || decide (scope ≠ 0) then s.clearIdem else s
    let acc := l.map fun x => { x with val := BitVec.ofNat 32 (v.at' x.lane), cmp := BitVec.ofNat 32 (w.at' x.lane) }
    let s := s.issueAccess { kind := if red then .reduce else .atomic, split := s.cur.split, scratch := !virt, lanes := acc, dst := if red then 256 else f.d.toNat, mask := E, tag := tagOf fmt, op := op, fmt := fmt, scope := scope }
    if kind % 2 = 1 then return .done ((s.pushFence scope 1 base len).settleFences s.cur.core s.cur.slot)
    return .done s

def execAtom (f : LaneOp) (s : State) : Host.Outcome State Fault Refusal := s.atomicLanes (.atom f) true false f
def execAred (f : LaneOp) (s : State) : Host.Outcome State Fault Refusal := s.atomicLanes (.ared f) true true f
def execAtoms (f : LaneOp) (s : State) : Host.Outcome State Fault Refusal := s.atomicLanes (.atoms f) false false f

end Sys2Proof.Machine
end

