-- ==== Sys2Proof/Machine/MatrixMath.lean ====
section
/-! DEFINITION. The arithmetic of one matrix operation (R73–R84): operand placement, exact block values, accumulation and the silt it adds. -/

namespace Sys2Proof.Machine

/-- Element size in bits of a format code (R74). -/
def elemBits (fmt : Nat) : Nat :=
  match fmt with
  | 4 => 64
  | 3 => 32
  | 6 => 16
  | 7 => 16
  | 9 => 4
  | 12 => 4
  | _ => 8

/-- K of a pairing (R75). -/
def pairK (A B : Nat) : Nat :=
  if A = 4 then 48 else if A = 3 then 96 else if A = 6 ∨ A = 7 then 192
  else if (A = 9 ∨ A = 12) ∧ (B = 9 ∨ B = 12) then 768 else 384

/-- Elements per block (R75). -/
def perBlock (A : Nat) : Nat := if A = 4 then 8 else if A = 3 then 16 else 32

/-- Matrix-unit lane cycles per member (R75). -/
def pairCycles (A : Nat) : Nat := if A = 4 then 192 else if A = 3 then 96 else 48

/-- Blocks of a pairing (R75). -/
def pairBlocks (A B : Nat) : Nat := pairK A B / perBlock A

/-- The value of a codebook entry (R72): a zero of either sign, and an entry never loaded, is +0. -/
def Codebook.value (k : Codebook) (i : Nat) : FVal :=
  match bf16F.decode (k.entries.getD i 0).toNat with
  | .fin n m e => if m = 0 then .fin false 0 0 else .fin n m e
  | v => v

/-- The value of an element pattern of a matrix operand (R65, R67, R72). -/
def elemVal (fmt : Nat) (k : Codebook) (v : Nat) : FVal :=
  match fmt with
  | 4 => f64F.decode v
  | 3 => f32F.decode v
  | 6 => bf16F.decode v
  | 7 => f16F.decode v
  | 8 => e4m3F.decode v
  | 9 => e2m1F.decode v
  | 12 => k.value v
  | 10 => (Dy.mk (signed 8 v) 0).val
  | _ => (Dy.mk v 0).val

/-- The fragment's register words, 32 a register. -/
def fragWords (frag : List GReg) : List (List Word) := frag.map fun g => g.val.words

/-- A fragment element's pattern (R74). -/
def fragElem (w : List (List Word)) (fmt r k : Nat) : Nat :=
  if fmt = 4 then
    let i := r * 48 + k
    ((w.getD (2 * (i / 32)) []).getD (i % 32) 0).toNat + ((w.getD (2 * (i / 32) + 1) []).getD (i % 32) 0).toNat * 2 ^ 32
  else
    let b := elemBits fmt
    let bit := k * b
    let word := ((w.getD (3 * r + bit / 1024) []).getD (bit % 1024 / 32) 0).toNat
    word / 2 ^ (bit % 32) % 2 ^ b

/-- Row `k` of the B panel: its 64 elements (R74). -/
def panelRow (fmt : Nat) (row : List Byte) : List Nat :=
  let b := elemBits fmt
  if b = 4 then row.flatMap fun x => [x.toNat % 16, x.toNat / 16]
  else (List.range 64).map fun n => fieldLE row (n * (b / 8)) (b / 8)

/-- The bytes of a panel row. -/
def rowBytes (fmt : Nat) : Nat := 8 * elemBits fmt

/-- Scale entry `i` of a run (R79). -/
def scaleEntry (w : List (List Word)) (i : Nat) : Nat :=
  (byteOf ((w.getD (i / 128) []).getD (i / 4 % 32) 0) (i % 4)).toNat

/-- A value times 2^e. -/
def FVal.scale (v : FVal) (e : Int) : FVal :=
  match v with
  | .fin n m x => .fin n m (x + e)
  | v => v

/-- The exact sum of a block's products, with the special values of R80. -/
def blockSum (ps : List FVal) : FVal :=
  let pos := ps.any fun v => v.isInf && !v.sign
  let neg := ps.any fun v => v.isInf && v.sign
  if ps.any FVal.isNan || (pos && neg) then .nan
  else if pos then .inf false
  else if neg then .inf true
  else
    let t := ps.foldl (fun a v => a.add v.dy) Dy.zero
    if t.i = 0 then .fin (ps.all FVal.sign) 0 0 else t.val

/-- The exact value of block `k` at one element (R76): a scale of 0xFF makes it NaN. -/
def blockVal (scaled : Bool) (sa sb : Nat) (as bs : List FVal) : FVal :=
  if scaled && (sa = 255 || sb = 255) then .nan
  else
    let x := blockSum (List.zipWith fmulV as bs)
    if scaled then x.scale ((sa : Int) - 127 + ((sb : Int) - 127)) else x

/-- The block values of the tile, row by row, for block `k`. -/
def GangOp.block (o : GangOp) (books : Table Codebook) (k : Nat) : List FVal :=
  let n := perBlock o.fmt
  let w := fragWords o.frag
  let wa := fragWords o.ascale
  let wb := fragWords o.bscale
  let bookA := tget {} books o.aslot
  let bookB := tget {} books o.bs
  let rows := (List.range 8).map fun r => (List.range n).map fun j => elemVal o.fmt bookA (fragElem w o.fmt r (k * n + j))
  let bytes := (o.buffer.drop (k * n * rowBytes o.bf)).take (n * rowBytes o.bf)
  let panel := (List.range n).map fun j => panelRow o.bf ((bytes.drop (j * rowBytes o.bf)).take (rowBytes o.bf))
  let cols := (List.range 64).map fun c => panel.map fun row => elemVal o.bf bookB (row.getD c 0)
  (rows.mapIdx fun r as =>
    let sa := if o.scaled then scaleEntry wa (r * 32 + o.kofs + k) else 0
    cols.mapIdx fun c bs => blockVal o.scaled sa (if o.scaled then scaleEntry wb ((k + o.kofsb) * 64 + c) else 0) as bs).flatten

/-- One rounding step over the tile: each exact value with its rounding. -/
def roundAll (F : FFmt) (mode : Nat) (xs : List FVal) : List Rounded := xs.map fun x => { exact := x, bits := roundF F mode x }

/-- The blocks of an f32 or f64 operation (R77): values and silt. -/
def accumulate (F : FFmt) (rm : Nat) : List (List FVal) → List Nat → BitVec 16 → List Nat × BitVec 16
  | [], c, s => (c, s)
  | xs :: l, c, s =>
    let b := roundAll F 0 xs
    let s := siltAdd s (stepBound F 0 b)
    let d := roundAll F rm (List.zipWith (fun v r => faddV rm (F.decode v) (F.decode r.bits)) c b)
    accumulate F rm l (d.map Rounded.bits) (siltAdd s (stepBound F rm d))

/-- The blocks of an i32 operation (R77): values and whether a sum was clamped. -/
def accumInt : List (List FVal) → List Int → Bool → List Int × Bool
  | [], c, sat => (c, sat)
  | xs :: l, c, sat =>
    let t := List.zipWith (fun v (x : FVal) => v + shl x.dy.i x.dy.e) c xs
    let clamp (v : Int) : Int := max (-(2 ^ 31 : Int)) (min v (2 ^ 31 - 1))
    accumInt l (t.map clamp) (sat || t.any fun v => decide (clamp v ≠ v))

/-- One element of a wide block (R83): the exact v, and the new parts. -/
def wideElem (h l : Nat) (x : FVal) : FVal × Nat × Nat :=
  let v := faddV 0 (faddV 0 (f32F.decode h) (f32F.decode l)) x
  let h' := roundF f32F 0 v
  let hv := f32F.decode h'
  (v, h', if hv.isFin then roundF f32F 0 (faddV 0 v hv.negate) else 0)

/-- The silt of a wide block (R83). -/
def wideBound (r : List (FVal × Nat × Nat)) : Bound :=
  let fin := r.filter fun e => e.1.isFin
  if fin.any fun e => !(f32F.decode e.2.1).isFin then none
  else if fin.all fun e => ((f32F.decode e.2.1).dy.add (f32F.decode e.2.2).dy).eq e.1.dy then some (0, 0)
  else
    let L := fin.foldl (fun (a : Nat × Int) e => match (f32F.decode e.2.2).mag with
      | .fin _ m x => if (Dy.mk a.1 a.2).lt ⟨m, x⟩ then (m, x) else a
      | _ => a) (0, 0)
    some (1, ulpExp f32F L.1 L.2 - 1)

/-- The blocks of a wide operation (R83): hi parts, lo parts and silt. -/
def accumWide : List (List FVal) → List Nat → List Nat → BitVec 16 → List Nat × List Nat × BitVec 16
  | [], h, l, s => (h, l, s)
  | xs :: r, h, l, s =>
    let t := List.zipWith (fun (e : Nat × Nat) x => wideElem e.1 e.2 x) (h.zip l) xs
    accumWide r (t.map fun e => e.2.1) (t.map fun e => e.2.2) (siltAdd s (wideBound t))

/-- A silt exceeds a threshold, compared as reals (R82): NaN is never exceeded. -/
def crosses (s thr : BitVec 16) : Bool :=
  match bf16F.decode thr.toNat with
  | .nan => false
  | .inf n => n
  | .fin n m e =>
    match siltVal s with
    | none => true
    | some (a, b) => (Dy.mk (if n then -(m : Int) else m) e).lt ⟨a, b⟩

end Sys2Proof.Machine
end

