-- ==== Sys2Proof/Machine/Barrier.lean ====
section
/-! DEFINITION. The end of an engine job (R249, R262, R264), barriers in the scratchpad and what completes with a phase (R178–R181, R257, R265, R266). -/

namespace Sys2Proof.Machine

/-! ### Groups of a team, wherever it stands -/

/-- The groups that a team was launched with (R178). -/
def LaunchRec.groups (r : LaunchRec) : Nat := (r.roles.map fun w => bitsOf w.toNat 5 0).foldl (· + ·) 0

/-- The slot of a resident group. -/
def State.slotOf (s : State) (t gid : Nat) : Option Nat :=
  ((s.core (s.team t).core).groups.find? fun e => decide (e.2.team = t) && decide (e.2.gid = gid)).map Prod.fst

/-- A change to a group of a team, resident or saved (R290). -/
def State.modGroupOf (s : State) (t gid : Nat) (f : Group → Group) : State :=
  match s.slotOf t gid with
  | some g => s.modGroup (s.team t).core g f
  | none => s.modTeam t fun x =>
    match x.saved with
    | some v => { x with saved := some { v with groups := v.groups.map fun g => if g.gid = gid then f g else g } }
    | none => x

/-- The team is on its core with its storage (R94). -/
def State.isResident (s : State) (t : Nat) : Bool :=
  match s.team? t with
  | some x => decide (x.stage = .resident)
  | none => false

/-! ### The engine error log -/

/-- The reason word of R264. -/
def JobError.word (e : JobError) (seg : Nat) : Nat := e.reason % 256 + seg % 2 ^ 24 * 256 + e.space % 4 * 2 ^ 32

/-- The bytes of an engine error log entry (R264). -/
def FailedJob.bytes (f : FailedJob) : List Byte :=
  f.card.flatMap (fun w => bytesLE 4 w.toNat) ++ bytesLE 8 f.word ++ bytesLE 8 f.addr.toNat ++ List.replicate 48 0

/-- An entry of a core's engine error log, and the failed job that it records. -/
def State.logJob (s : State) (c : Nat) (f : FailedJob) : FailedJob × State :=
  let i := (s.core c).elogHead.toNat % 64
  ({ f with entry := some i }, s.modCore c fun k => { k with elog := aput k.elog i f.bytes, elogHead := k.elogHead + 1 })

/-- The groups whose command a job carries, with the card of each: the issuer, or every group that issued a team-collective one. -/
def Job.byGroup (j : Job) : List (Nat × List Word) := if j.cards.isEmpty then [(j.gid, j.card)] else j.cards

/-- A token's job has completed (R175, R246). -/
def Group.tokenDone (x : Group) (t : Word) : Group :=
  { x with tokens := x.tokens.map fun e => if e.1 = t then (e.1, true) else e }

/-- The tokens of a job, by group. -/
def Job.tokensOf (j : Job) : List (Nat × Word) :=
  match j.compl with
  | .token t => if j.issued.isEmpty then [(j.gid, t)] else j.tokens
  | _ => j.tokens

/-- A job ends (R249, R262): logged and left to the groups' next waits where it failed, its tokens completed, its edges released; `done` says whether it counts for `DON` (R270). -/
def State.endJob (s : State) (c id : Nat) (err : Option JobError) (done : Bool) : State :=
  match (s.core c).jobs.find? fun j => decide (j.id = id) with
  | none => s
  | some j =>
    let s : State := match err with
      | none => s
      | some e =>
        j.byGroup.foldl (fun (s : State) (g : Nat × List Word) =>
          let r := s.logJob c { card := g.2, word := e.word j.seg, addr := e.addr }
          r.2.modGroupOf j.team g.1 fun x => { x with failed := x.failed ++ [r.1] }) s
    let s := j.tokensOf.foldl (fun s e => s.modGroupOf j.team e.1 fun x => x.tokenDone e.2) s
    let s := s.modTeam j.team fun t => { t with jobs := t.jobs - 1, don := if done then t.don + 1 else t.don }
    s.modCore c fun k => { k with jobs := (k.jobs.filter fun x => decide (x.id ≠ id)).map fun x => { x with after := x.after.filter fun i => decide (i ≠ id) } }

/-- A change to a job of a core's queue. -/
def State.modJob (s : State) (c id : Nat) (f : Job → Job) : State :=
  s.modCore c fun k => { k with jobs := k.jobs.map fun j => if j.id = id then f j else j }

/-- A failed job with yield completion: its split takes the fault at the command itself (R269). -/
def FailedJob.yields (f : FailedJob) : Bool := decide (bitsOf (f.card.headD 0).toNat 8 7 = 3)

/-- The detail of an engine-job fault (R353, R361). -/
def FailedJob.flt (f : FailedJob) : Flt :=
  { code := 20, addr := f.addr.toNat, info := f.entry.getD 0xFFFFFFFF, x0 := (f.card.headD 0).toNat, x1 := (f.card.getD 13 0).toNat, aux := f.word % 256 }

/-- A `wait` of any form raises the engine-job fault of the group's oldest unreported failed job, which is then reported (R249, R361). -/
def State.jobFault (s : State) : Try Unit :=
  match s.here.failed.find? fun f => !f.yields with
  | some f => fail (s.modHere fun x => { x with failed := x.failed.erase f }) f.flt
  | none => .ok ()

/-! ### Barrier objects (R265) -/

/-- The fields of a barrier. -/
structure Bar where
  expect : Nat := 0
  arrived : Nat := 0
  bal : Int := 0
  balnx : Int := 0
  phase : Word := 0
  deriving DecidableEq, Repr

/-- A barrier from its 16 bytes. -/
def Bar.ofBytes (b : List Byte) : Bar :=
  { expect := fieldLE b 0 1, arrived := fieldLE b 1 1, bal := signed 40 (fieldLE b 2 5), balnx := signed 40 (fieldLE b 7 5), phase := BitVec.ofNat 32 (fieldLE b 12 4) }

/-- The 16 bytes of a barrier. -/
def Bar.bytes (b : Bar) : List Byte :=
  bytesLE 1 b.expect ++ bytesLE 1 b.arrived ++ bytesLE 5 (wrap 40 b.bal) ++ bytesLE 5 (wrap 40 b.balnx) ++ bytesLE 4 b.phase.toNat

/-- A balance in range (R180). -/
def balOk (x : Int) : Bool := decide (-(2 ^ 39 : Int) ≤ x) && decide (x ≤ 2 ^ 39 - 1)

/-- A balance held at the bound it crosses (R266). -/
def balClamp (x : Int) : Int := max (-(2 ^ 39 : Int)) (min x (2 ^ 39 - 1))

/-- The arrivals that complete a phase, for a team launched with `n` groups. -/
def Bar.needs (b : Bar) (n : Nat) : Nat := if b.expect = 0 then n else b.expect

/-- The condition of phase_check (R180). -/
def Bar.full (b : Bar) (n : Nat) : Bool := decide (b.arrived = b.needs n) && decide (b.bal = 0)

/-- The phase update of R180. -/
def Bar.next (b : Bar) : Bar := { b with phase := b.phase + 1, arrived := 0, bal := b.balnx, balnx := 0 }

/-- A landing of `n` bytes by parity (R266), before phase_check. -/
def Bar.land (b : Bar) (n : Int) (parity : Nat) : Bar :=
  if parity = b.phase.toNat % 2 then { b with bal := balClamp (b.bal - n) } else { b with balnx := balClamp (b.balnx - n) }

/-- The landing would take a balance outside 40 bits (R266). -/
def Bar.landBad (b : Bar) (n : Int) (parity : Nat) : Bool :=
  if parity = b.phase.toNat % 2 then !balOk (b.bal - n) else !balOk (b.balnx - n)

/-- Phase `vb` has completed (R175). -/
def Bar.passed (b : Bar) (phase : Word) : Bool :=
  let d := (b.phase - phase).toNat
  decide (1 ≤ d) && decide (d < 2 ^ 31)

/-- A barrier of a resident team. -/
def State.bar (s : State) (t addr : Nat) : Bar :=
  let x := s.team t
  .ofBytes (readN (s.scratchByte x.core) (x.scratchBase + addr) 16)

def State.setBar (s : State) (t addr : Nat) (b : Bar) : State :=
  let x := s.team t
  writeN (fun s a v => s.setScratch x.core a v) s (x.scratchBase + addr) b.bytes

/-! ### What rides on a phase completion -/

/-- The bank named by an `nswap` may be taken (R257): armed, not in force, and the partition holds the route right. -/
def Reticle.mayFlip (r : Reticle) (bank : Bool) : Bool :=
  r.armed && decide (bank ≠ r.bank) && (match r.part with
    | some p => p.route
    | none => false)

/-- An `nswap` whose phase completes flips its reticle's bank or ends with reason 7 (R257). -/
def State.flipBank (s : State) (c : Nat) (j : Job) : State :=
  let bank := decide (j.words.head? = some (1 : Word))
  if (s.ret (retOf c)).mayFlip bank && decide ((j.words.headD 0).toNat < 2) then
    (s.modRet (retOf c) fun r => { r with bank := bank, armed := false }).endJob c j.id none true
  else s.endJob c j.id (some { reason := 7 }) true

/-- The jobs of a core that hold one of its sequencer's running places (R259): its own jobs that have started. -/
def State.running (s : State) (c : Nat) : List Job := (s.core c).jobs.filter fun k => (decide (k.cmd ≤ 2) || decide (k.cmd = 7) || decide (k.cmd = 8)) && decide (0 < k.pos)

/-- The `nswap` jobs that ride on a phase of a team's barrier, in the queue of the core where they were issued, flip with it, where they hold a running place or one is free for them; one that has to wait for its place notes it, and flips once it has one (log 92). -/
def State.phaseDone (s : State) (t addr parity : Nat) : State :=
  let x := s.team t
  (s.cores.flatMap fun k => (k.2.jobs.filter fun j =>
    decide (j.cmd = 7) && decide (j.team = t) && decide (j.compl = .barrier addr parity)
      && decide (j.issued.length = x.lrec.groups) && j.error.isNone).map fun j => (k.1, j)).foldl (fun s e =>
    if 0 < e.2.pos ∨ (e.2.after = [] ∧ (s.running e.1).length < 4) then s.flipBank e.1 e.2 else s.modJob e.1 e.2.id fun j => { j with counted := 1 }) s

/-- The groups that have arrived in the current phase of a barrier, as its core keeps them for the probe (R292). -/
def Team.arrivedAt (x : Team) (addr : Nat) : List Nat := (aget x.arrivals addr).getD []

def State.noteArrival (s : State) (t addr gid : Nat) : State :=
  s.modTeam t fun x => { x with arrivals := aput x.arrivals addr (gid :: (x.arrivedAt addr).erase gid) }

def State.forgetArrivals (s : State) (t addr : Nat) : State := s.modTeam t fun x => { x with arrivals := adel x.arrivals addr }

/-- The phase update at a team's barrier, and what completes with it. -/
def State.advanceBar (s : State) (t addr : Nat) : State :=
  let b := s.bar t addr
  ((s.setBar t addr b.next).forgetArrivals t addr).phaseDone t addr (b.phase.toNat % 2)

/-- phase_check (R180); while a grid barrier collects on the barrier, the team sends its one bus arrival instead (R181). -/
def State.checkBar (s : State) (t addr : Nat) : State :=
  let x := s.team t
  if !(s.bar t addr).full x.lrec.groups then s
  else if x.gbar = some addr then
    (if x.gbarSent then s
     else (s.modTeam t fun y => { y with gbarSent := true, snt := y.snt + 1 }).post { team := t, core := x.core, ret := retOf x.core } .gridBarrierArrival)
  else s.advanceBar t addr

/-- A landing counted into a barrier of a resident team (R266). -/
def State.landBar (s : State) (t addr parity n : Nat) : State :=
  (s.setBar t addr ((s.bar t addr).land n parity)).checkBar t addr

/-! ### Landings held for a saved team (R266, R291) -/

/-- Bytes written into a saved scratchpad. -/
def putCells (cells : List Host.Cell) (off : Nat) (bytes : List Byte) : List Host.Cell :=
  (bytes.mapIdx fun i v => (off + i, v)).foldl (fun c e => tset 0 c e.1 e.2) cells

/-- The barrier of a saved scratchpad. -/
def barOf (cells : List Host.Cell) (a : Nat) : Bar := .ofBytes (readN (fun i => tget 0 cells i) a 16)

/-- A count and arrivals at a barrier of a saved scratchpad. -/
def countCells (n : Nat) (gbar : Option Nat) (cells : List Host.Cell) (a par count arrive : Nat) : List Host.Cell :=
  let b := barOf cells a
  let b := { b.land count par with arrived := b.arrived + arrive }
  putCells cells a (if b.full n && decide (gbar ≠ some a) then b.next else b).bytes

/-- The saved scratchpad with the held landings counted in (R291). -/
def Team.foldHeld (x : Team) (cells : List Host.Cell) : List Host.Cell :=
  let n := x.lrec.groups
  x.held.foldl (fun c h =>
    match h.req with
    | some k =>
      if k.op = 1 then
        let c := if h.tile.isNone then putCells c k.offset.toNat k.payload else c
        match k.bar with
        | some w => countCells n x.gbar c (w.toNat / 16 * 16) (w.toNat % 2) k.len 0
        | none => c
      else c
    | none =>
      let c := if h.tile.isNone then putCells c h.off h.bytes else c
      match h.bar with
      | some (a, par) => if h.release then putCells c a (barOf c a).next.bytes else countCells n x.gbar c a par h.count h.arrive
      | none => c) cells

/-- A barrier of a team, resident or saved, with what is held for it. -/
def State.barSeen (s : State) (t addr : Nat) : Bar :=
  match (s.team t).saved with
  | some v => barOf ((s.team t).foldHeld v.scratch) addr
  | none => s.bar t addr

/-- A count of a job subtracted from a team's barrier: at once where the team is resident, else held (R266). Gives whether a balance was out of range. -/
def State.countInto (s : State) (t addr parity n : Nat) (job : Option (Nat × Nat)) : Bool × State :=
  if n = 0 then (false, s)
  else
    ((s.barSeen t addr).landBad n parity,
      if s.isResident t then s.landBar t addr parity n
      else s.modTeam t fun x => { x with held := x.held ++ [{ bar := some (addr, parity), count := n, job := job }] })

end Sys2Proof.Machine
end

