-- ==== Sys2Proof/Machine/Branch.lean ====
section
/-! DEFINITION. Branches, calls, loops, lane blocks, splits, merges, yields, exit, the software trap and the return from a handler (R151–R161, R169, R28–R32). -/

namespace Sys2Proof.Machine

/-- PC + 4 × a signed offset (R130). -/
def target {n : Nat} (pc : Dword) (off : BitVec n) : Dword := pc + 4 * off.signExtend 64

/-- A taken branch (R32, R151). -/
def State.branch (s : State) (t : Dword) : Act := .jump (s.modMe fun x => { x with loops := unwind t x.loops }) t

def execB (p : Bool) (off : BitVec 21) (s : State) : Host.Outcome State Fault Refusal :=
  s.control p fun s => s.branch (target s.me.pc off)

def execBc (p : Bool) (cond : BitVec 4) (off : BitVec 21) (s : State) : Host.Outcome State Fault Refusal :=
  s.control p fun s => if condHolds cond.toNat s.me.cmpA s.me.cmpB then s.branch (target s.me.pc off) else .done s

def execBmz (p : Bool) (k : BitVec 4) (off : BitVec 21) (s : State) : Host.Outcome State Fault Refusal :=
  s.control p fun s => if s.ctlMask k.toNat &&& s.me.active = 0 then s.branch (target s.me.pc off) else .done s

def execBma (p : Bool) (k : BitVec 4) (off : BitVec 21) (s : State) : Host.Outcome State Fault Refusal :=
  s.control p fun s => if s.ctlMask k.toNat &&& s.me.active = s.me.active then s.branch (target s.me.pc off) else .done s

/-- A 64-bit value as a uniform n32 pair (R152). -/
def State.writePair (s : State) (d : Nat) (v : Dword) : State :=
  (s.ctlWrite d (uni (loW v) tN32)).ctlWrite (d + 1) (uni (hiW v) tN32)

/-- `call` (R152): the link pair, then the target. -/
def execCall (p : Bool) (d : BitVec 8) (imm : BitVec 17) (s : State) : Host.Outcome State Fault Refusal :=
  s.control p fun s => Try.act do
    s.needFree [d.toNat, d.toNat + 1]
    s.rangesOk [(1, d.toNat, 2)]
    return .jump (s.writePair d.toNat (s.me.pc + 4)) (target s.me.pc imm)

/-- The two registers of a 64-bit operand, low word first (R148). -/
def State.srcPair (s : State) (field : Nat) (r : BitVec 8) : List Opd := [s.src field r, s.src field (r + 1)]

/-- The 64-bit value of an operand pair. -/
def State.pairValue (s : State) (r : BitVec 8) : Dword := mkD (s.src 0 (r + 1)).u (s.src 0 r).u

/-- `ret` (R152). -/
def execRet (p : Bool) (a : BitVec 8) (s : State) : Host.Outcome State Fault Refusal :=
  s.control p fun s => Try.act do
    s.operands [(2, a.toNat, 2)] (s.srcPair 2 a)
    let t := s.pairValue a
    failIf s (decide (t.toNat % 4 ≠ 0)) { code := 6, field := 2, addr := t.toNat }
    return .jump s t

/-- `loop` (R32, R154). Where a loop with count 0 stands at the end address of an outer entry, row 1 of R32 gives end + 4 and row 2 the end check of the outer entry; the model takes row 1 and makes no end check (log 86, a choice of the model). -/
def execLoop (p : Bool) (a : BitVec 8) (imm : BitVec 9) (s : State) : Host.Outcome State Fault Refusal :=
  s.control p fun s => Try.act do
    let A := s.src 2 a
    s.operands [(2, a.toNat, 1)] [A]
    let stop := s.me.pc + 4 * imm.setWidth 64
    if A.u = 0 then return .jump s (stop + 4)
    failIf s (decide (4 ≤ s.me.loops.length)) { code := 12, info := 4 }
    return .done (s.modMe fun x => { x with loops := { start := x.pc + 4, stop, count := A.u } :: x.loops })

/-- `lbrk` (R155). -/
def execLbrk (p : Bool) (s : State) : Host.Outcome State Fault Refusal :=
  s.control p fun s =>
    match s.me.loops with
    | [] => .trap s { code := 11 }
    | e :: l => .jump (s.modMe fun x => { x with loops := l }) (e.stop + 4)

/-- `lrun` (R31, R156). -/
def execLrun (p : Bool) (count : BitVec 8) (off : BitVec 17) (s : State) : Host.Outcome State Fault Refusal :=
  s.control p fun s =>
    if 4 ≤ s.me.queue.length then .hold .queueFull
    else .done (s.modMe fun x => { x with queue := x.queue ++ [{ off := off.toNat, cnt := count.toNat + 1, late := x.closes p }] })

/-- The ids 0 to 3 that no live split holds (R27). -/
def Group.freeIds (x : Group) : List Nat := (List.range 4).filter fun i => (aget x.splits i).isNone

/-- The live split ids as a mask (R353, code 13). -/
def Group.liveMask (x : Group) : Nat := x.splits.foldl (fun a e => a + 2 ^ e.1) 0

/-- A split that another has made follows what that one has issued: its accesses, and its fences (R28). -/
def Group.follow (x : Group) (p i : Nat) : Group :=
  { x with
    pending := x.pending.map fun a => if a.of p then { a with before := i :: a.before } else a
    fences := x.fences.map fun f => if f.holds p then { f with also := i :: f.also } else f }

/-- A split has ended: what it has issued belongs to no live split any more, and its id names none. -/
def Group.retire (x : Group) (p : Nat) : Group :=
  { x with
    pending := x.pending.map fun a => { a with split := if a.split = p then 4 else a.split, before := a.before.filter fun i => decide (i ≠ p) }
    fences := x.fences.map fun f => { f with split := if f.split = p then 4 else f.split, also := f.also.filter fun i => decide (i ≠ p) } }

/-- Split `p` has ended in the survivor `q` of a merge, which follows what it has issued: its accesses precede the survivor's, and its fences count as the survivor's (R30, R118, R160). -/
def Group.inherit (x : Group) (p q : Nat) : Group :=
  let y : Group := { x with
    pending := x.pending.map fun a => if a.of p && !a.of q then { a with before := q :: a.before } else a
    fences := x.fences.map fun f => { f with split := if f.split = p then q else f.split, also := if f.holds p then q :: f.also else f.also } }
  y.retire p

/-- `split` (R28, R157). No rule says whether a split created from inside a trap handler is itself in the handler: it is created outside any handler (log 87, a choice of the model). -/
def execSplit (_p : Bool) (k : BitVec 4) (off : BitVec 21) (s : State) : Host.Outcome State Fault Refusal :=
  s.control true fun s => Try.act do
    s.needQuiet
    let m0 := s.me.active
    let n := s.ctlMask k.toNat &&& m0
    if n = 0 ∨ n = m0 then return .done s
    match s.here.freeIds with
    | [] => fail s { code := 13, info := s.here.liveMask }
    | i :: _ =>
      let child : Split := { pc := target s.me.pc off, active := n, cmpA := s.me.cmpA, cmpB := s.me.cmpB, loops := s.me.loops, ctlSince := s.cycle, laneSince := s.cycle }
      return .done ((s.modMe fun x => { x with active := m0 &&& ~~~n }).modHere fun g => (g.setSplit i child).follow s.cur.split i)

def execNop (p : Bool) (s : State) : Host.Outcome State Fault Refusal := s.control p fun s => .done s

/-- `merge` (R30, R158): alone, the join completes at once; otherwise the split waits at this address, and the join resolves once every live split waits. Merge mismatch is its only fault (R362; log 88). -/
def execMerge (_p : Bool) (s : State) : Host.Outcome State Fault Refusal :=
  s.control true fun s => Try.act do
    s.needQuiet
    if s.here.splits.length = 1 then return .done (s.modHere fun g => { g with join := g.join + 1 })
    return .block s (.merge s.me.pc)

/-- Lane cycles of a core's cluster as reference cycles, rounded up (R7). -/
def State.laneTime (s : State) (c n : Nat) : Nat :=
  let khz := max 1 (s.cluster (retOf c) (clusterOf c)).khz
  (n * 1000000 + khz - 1) / khz

/-- A `yld` or a continuation word stands at the end address of the top loop entry (R134, R159). -/
def Split.atLoopEnd (x : Split) (a : Dword) : Bool :=
  match x.loops with
  | e :: _ => decide (e.stop = a)
  | [] => false

/-- `yld` (R159): at a blocking point until 256 lane cycles have passed or the team has been re-admitted. It raises no fault but the illegal encoding (R362; log 88). -/
def execYld (_p : Bool) (off : BitVec 21) (s : State) : Host.Outcome State Fault Refusal :=
  s.control true fun s => Try.act do
    failIf s (s.me.atLoopEnd s.me.pc) { code := 1 }
    s.needQuiet
    let t := target s.me.pc off
    return .block (s.postIn (s.laneTime s.cur.core 256) { s.cur with insn := 0, idx := s.now } .yieldExpiry) (.yld t false)

/-- `exit` (R44, R160): the split ends; with the last one, the group waits only for its matrix operations. -/
def execExit (_p : Bool) (s : State) : Host.Outcome State Fault Refusal :=
  s.control true fun s => Try.act do
    s.needQuiet
    holdIf (s.here.fences.any fun f => decide (f.split = s.cur.split)) .release
    return .gone (s.modHere fun g =>
      let l := adel g.splits s.cur.split
      { g.retire s.cur.split with splits := l, done := l.isEmpty })

/-- `trap` (R169): the software trap, resuming at PC + 4. -/
def execTrap (_p : Bool) (imm : BitVec 9) (s : State) : Host.Outcome State Fault Refusal :=
  s.control true fun s => Try.act do
    s.needQuiet
    return .gone (s.raise (Flt.record { code := 22, info := imm.toNat } false false (s.me.pc + 4) s.cur.insn))

/-- `eret` (R169, R354); outside a handler it is an illegal encoding. It closes every window and, like every marked instruction, parks the split (log 16). -/
def execEret (_p : Bool) (s : State) : Host.Outcome State Fault Refusal :=
  s.control true fun s => Try.act do
    failIf s (!s.me.inHandler) { code := 1 }
    s.needQuiet
    return .gone (s.modMe fun x => { x.eret with cWin := {}, lWin := {}, ctlLast := [], ctl := .parked, ctlSince := s.cycle, laneSince := s.cycle, laneStall := none })

end Sys2Proof.Machine
end

