-- ==== Sys2Proof/Machine/Sync.lean ====
section
/-! DEFINITION. Fences, waits and barrier operations of the control stream (R174–R182), and what a wait does once its condition holds (R30, R41, R159, R177, R359). -/

namespace Sys2Proof.Machine

/-! ### Batches (R176, R177) -/

/-- A working tile's metadata, for every tile of the group of a slot. -/
def State.modTiles (s : State) (c g : Nat) (f : TileMeta → TileMeta) : State :=
  let x := s.group c g
  (List.range x.accN).foldl (fun s j => s.modCore c fun k => k.setTile (x.accBase + j) { k.tile (x.accBase + j) with info := f (k.tile (x.accBase + j)).info }) s

/-- Batches that have ended (R176): a closed batch ends with its last operation, and `SKIP` clears. -/
def State.batchEnds (s : State) (c g : Nat) : State :=
  match s.group? c g with
  | none => s
  | some x =>
    let e := match (s.core c).opsOf g with
      | o :: _ => o.batch
      | [] => x.batch
    if e = x.ended then s
    else (s.modTiles c g fun m => { m with skip := false }).modGroup c g fun y => { y with ended := e }

/-- The open batch closes (R176). -/
def State.closeBatch (s : State) : State :=
  (s.modHere fun x => { x with batch := x.batch + 1 }).batchEnds s.cur.core s.cur.slot

/-- Batch `n` and every earlier one have ended (R177). -/
def Group.batchDone (x : Group) (n : Word) : Bool :=
  let d := (x.ended - n).toNat
  decide (1 ≤ d) && decide (d < 2 ^ 31)

/-- The working tiles of the group of a slot with `PEND` set (R359). -/
def State.pendTiles (s : State) (c g : Nat) : List Nat :=
  let x := s.group c g
  (List.range x.workTiles).filter fun j => ((s.core c).tile (x.accBase + j)).info.pend

/-- The tile mask of a silt trap: bit j mod 32 of word j div 32. -/
def tileMask (l : List Nat) (w : Nat) : Nat := (l.filter fun j => decide (j / 32 = w)).foldl (fun a j => a + 2 ^ (j % 32)) 0

/-- The silt trap at a `wait.batch va` (R359): `PEND` clears on every reported tile. -/
def State.siltTrap (s : State) (c g p : Nat) (va : Word) (insn : BitVec 96) : State :=
  let l := s.pendTiles c g
  let f : Flt := { code := 21, info := l.length, x0 := tileMask l 0, x1 := tileMask l 1, x2 := tileMask l 2, x3 := tileMask l 3, aux := va.toNat }
  let pc := ((s.split? c g p).getD {}).pc
  (s.modTiles c g fun m => { m with pend := false }).takeTrap c g p (f.record false true pc insn)

/-! ### Wait conditions (R41, R175) -/

/-- A token whose job has completed, or that names no job issued and unobserved (R175). -/
def Group.tokenMet (x : Group) (t : Word) : Bool :=
  match x.tokens.find? fun e => decide (e.1 = t) with
  | some e => e.2
  | none => true

/-- The engine job of a tag still stands in its sequencer. -/
def State.jobLives (s : State) (tag : Nat) : Bool := s.cores.any fun k => k.2.jobs.any fun j => decide (jobTag k.1 j.id = tag)

/-- The wait condition of a blocked split of the group of a slot. -/
def State.waitMet (s : State) (c g : Nat) (w : Wait) : Bool :=
  let x := s.group c g
  match w with
  | .bar a ph => (s.bar x.team a.toNat).passed ph
  | .batch n => x.batchDone n
  | .tok t => x.tokenMet t
  | .merge _ => x.splits.all fun e => match e.2.ctl with
    | .blocked (.merge _) => true
    | _ => false
  | .yld _ expired => expired
  | .engine tag _ _ => !s.jobLives tag

/-- The attached acquire of a barrier takes effect and is spent (R117). -/
def State.takeAcquire (s : State) (c g bar : Nat) : State :=
  match (s.group c g).acqs.find? fun a => decide (a.bar = bar) with
  | some a => (s.acquire c a.scope a.base a.len).modGroup c g fun x => { x with acqs := x.acqs.filter fun b => decide (b.bar ≠ bar) }
  | none => s

/-- A token observed names no job (R175). -/
def Group.observe (x : Group) (t : Word) : Group := { x with tokens := x.tokens.filter fun e => decide (e.1 ≠ t) }

/-- What observing a condition does besides letting the split continue (R117, R175). -/
def State.observed (s : State) (c g : Nat) (w : Wait) : State :=
  match w with
  | .bar a _ => s.takeAcquire c g a.toNat
  | .tok t => s.modGroup c g fun x => x.observe t
  | _ => s

/-! ### Fences -/

/-- `fence` (R114, R115, R174): the split does not park; later accesses wait where acknowledgements are outstanding. -/
def execFence (p : Bool) (sub : BitVec 4) (a b : BitVec 8) (s : State) : Host.Outcome State Fault Refusal :=
  s.control p fun s => Try.act do
    let A := s.src 2 a
    let B := s.src 3 b
    s.operands [(2, a.toNat, 1), (3, b.toNat, 1)] [A, B]
    s.needIssued
    let scope := sub.toNat / 4
    let kind := sub.toNat % 4
    return .done ((s.pushFence scope kind A.u B.u).settleFences s.cur.core s.cur.slot)

/-! ### Waits -/

/-- A `wait` whose operands are sound (R41, R175): it continues where its condition holds, and blocks otherwise. -/
def State.await (s : State) (w : Wait) : Act :=
  let c := s.cur.core
  let g := s.cur.slot
  if s.waitMet c g w then .done (s.observed c g w) else .block s w

/-- The barrier of an operation (R148, R178): 16-byte aligned and within the allocation. -/
def State.barAt (s : State) (a : Word) : Try Unit := do
  failIf s (decide (a.toNat % 16 ≠ 0)) { code := 6, field := 2, addr := a.toNat }
  failIf s (decide (s.scratchSize < a.toNat + 16)) { code := 7, field := 2, addr := a.toNat, info := s.scratchSize }

def execWaitBar (_p : Bool) (a b : BitVec 8) (s : State) : Host.Outcome State Fault Refusal :=
  s.control true fun s => Try.act do
    let A := s.src 2 a
    let B := s.src 3 b
    s.operands [(2, a.toNat, 1), (3, b.toNat, 1)] [A, B]
    s.needQuiet
    s.barAt A.u
    s.jobFault
    return s.await (.bar A.u B.u)

/-- The lowest split of a group that waits on a batch whose condition holds (R359). -/
def State.lowestBatch (s : State) (c g : Nat) : Option Nat :=
  ((s.group c g).splits.find? fun e => match e.2.ctl with
    | .blocked (.batch n) => s.waitMet c g (.batch n)
    | _ => false).map Prod.fst

/-- `wait.batch` (R177): it closes the open batch where it names it; where its condition holds and a tile has `PEND`, the silt trap is raised instead, in the lowest of the splits that wait so (R359). -/
def execWaitBatch (_p : Bool) (a : BitVec 8) (s : State) : Host.Outcome State Fault Refusal :=
  s.control true fun s => Try.act do
    let A := s.src 2 a
    s.operands [(2, a.toNat, 1)] [A]
    failIf s (decide (2 ^ 31 ≤ (s.here.batch - A.u).toNat)) { code := 5, field := 2, info := A.u.toNat }
    s.needQuiet
    s.jobFault
    let s := if s.here.batch = A.u then s.closeBatch else s
    let c := s.cur.core
    let g := s.cur.slot
    if s.waitMet c g (.batch A.u) && !(s.pendTiles c g).isEmpty then
      if (s.lowestBatch c g).any (fun q => decide (q < s.cur.split)) then return .block s (.batch A.u)
      return .gone (s.siltTrap c g s.cur.split A.u s.cur.insn)
    return s.await (.batch A.u)

def execWaitTok (_p : Bool) (a : BitVec 8) (s : State) : Host.Outcome State Fault Refusal :=
  s.control true fun s => Try.act do
    let A := s.src 2 a
    s.operands [(2, a.toNat, 1)] [A]
    s.needQuiet
    s.jobFault
    return s.await (.tok A.u)

/-! ### A wait condition that comes to hold -/

/-- A split that waited goes on behind its wait, its windows closed (R61, R149). -/
def Split.resume (x : Split) (now : Nat) : Split :=
  let e := loopEnd x.pc x.loops
  { x with pc := e.1, loops := e.2, ctl := .ready, cWin := {}, lWin := {}, ctlLast := [], ctlSince := now }

/-- A split behind a `yld` goes on at its continuation, its loop stack unchanged (R134, R159). -/
def Split.resumeAt (x : Split) (a : Dword) (now : Nat) : Split :=
  { x with pc := a, ctl := .ready, cWin := {}, lWin := {}, ctlLast := [], ctlSince := now }

/-- A split behind an engine command with yield completion goes on at its continuation: the command closes its window, and parks the split, only where it is marked or the 32nd (R61, R149). -/
def Split.yielded (x : Split) (a : Dword) (marked : Bool) (now : Nat) : Split :=
  { x with pc := a, ctl := if marked then .parked else .ready, ctlSince := now }

/-- The merge addresses of the splits that wait at one. -/
def Group.mergeSites (x : Group) : List (Nat × Dword) :=
  x.splits.filterMap fun e => match e.2.ctl with
    | .blocked (.merge a) => some (e.1, a)
    | _ => none

/-- The join (R30): with one merge address, the lowest split survives with the union of the masks; with several, the merge-mismatch fault is raised in the lowest. -/
def State.join (s : State) (c g p : Nat) : State :=
  let x := s.group c g
  let sites := x.mergeSites
  let at' (i : Nat) : Nat := ((aget sites i).getD 0).toNat % 2 ^ 32
  match x.splits with
  | [] => s
  | (q, y) :: _ =>
    if p ≠ q then s
    else if sites.all fun e => decide (e.2 = y.pc) then
      let m := x.splits.foldl (fun m e => m ||| e.2.active) 0
      s.modGroup c g fun z =>
        { (x.splits.drop 1).foldl (fun (z : Group) e => z.inherit e.1 q) z with join := z.join + 1, splits := [(q, { y.resume (s.cycleOf c) with active := m })] }
    else
      s.takeTrap c g q (Flt.record { code := 14, info := sites.length, x0 := at' 0, x1 := at' 1, x2 := at' 2, x3 := at' 3 } false false y.pc s.cur.insn)

/-- An engine yield whose job has ended (R246, R269): the split continues at its continuation, or takes the engine-job fault at the command. -/
def State.endYield (s : State) (c g p : Nat) (cont : Dword) (marked : Bool) : State :=
  match s.split? c g p with
  | none => s
  | some y =>
    match (s.group c g).failed.find? fun f => f.yields && decide (bitsOf (f.card.headD 0).toNat 15 14 = p) with
    | some f => (s.modGroup c g fun x => { x with failed := x.failed.erase f }).takeTrap c g p (f.flt.record false false y.pc s.cur.insn)
    | none => s.setSplit c g p (y.yielded cont marked (s.cycleOf c))

/-- A blocked split whose condition holds continues (R41, R117, R175, R177). -/
def State.meet (s : State) (c g p : Nat) : State :=
  match s.split? c g p with
  | none => s
  | some y =>
    match y.ctl with
    | .blocked w =>
      if !s.waitMet c g w then s
      else
        match w with
        | .merge _ => s.join c g p
        | .yld cont _ => s.setSplit c g p (y.resumeAt cont (s.cycleOf c))
        | .engine _ cont marked => s.endYield c g p cont marked
        | .batch n =>
          if (s.pendTiles c g).isEmpty then s.setSplit c g p (y.resume (s.cycleOf c))
          else if s.lowestBatch c g = some p then s.siltTrap c g p n s.cur.insn
          else s
        | w => (s.observed c g w).setSplit c g p (y.resume (s.cycleOf c))
    | _ => s

/-- WAIT_CONDITION_MET: the wait's word stands in the trap record where the wait ends in a fault. -/
def execWaitConditionMet (s : State) : Host.Outcome State Fault Refusal :=
  let c := s.cur.core
  let pc := s.me.pc.toNat
  let w : BitVec 96 := match s.fetchControl c pc with
    | .ok w => w.setWidth 96
    | .error _ => 0
  .next ({ s with cur := { s.cur with insn := w } }.meet c s.cur.slot s.cur.split)

/-- YIELD_EXPIRY (R159): 256 lane cycles after the `yld` of the step's index, if the same wait still stands there. -/
def execYieldExpiry (s : State) : Host.Outcome State Fault Refusal :=
  let u := s.cur
  .next (if (s.group u.core u.slot).team ≠ u.team then s
    else s.modSplit u.core u.slot u.split fun y =>
      match y.ctl with
      | .blocked (.yld cont _) => if y.waitSince = u.idx then { y with ctl := .blocked (.yld cont true) } else y
      | _ => y)

/-! ### Barrier operations -/

/-- A grid barrier of the team collects on this barrier (R274). -/
def State.collecting (s : State) (a : Word) : Bool := decide (s.myTeam.gbar = some a.toNat)

/-- `binit` (R179). -/
def execBinit (p : Bool) (a b : BitVec 8) (x : Bool) (s : State) : Host.Outcome State Fault Refusal :=
  s.control p fun s => Try.act do
    let A := s.src 2 a
    let B := s.src 3 b x
    s.operands [(2, a.toNat, 1), (3, b.toNat, 1)] [A, B]
    failIf s (decide (255 < B.u.toNat)) { code := 5, field := 3, info := B.u.toNat }
    s.barAt A.u
    failIf s (s.collecting A.u) { code := 15, field := 2, addr := A.u.toNat, info := 3 }
    s.needIssued
    s.needFences
    s.needScratch A.u.toNat 16
    return .done ((s.setBar s.here.team A.u.toNat { expect := B.u.toNat }).forgetArrivals s.here.team A.u.toNat)

/-- An attached acquire joined with another on the same barrier: the wider scope and the enclosing range (R117). -/
def Acq.widen (x : Acq) (scope : Nat) (base len : Word) : Acq :=
  if x.len = 0xFFFFFFFF ∨ len = 0xFFFFFFFF then { x with scope := max x.scope scope, base := 0, len := 0xFFFFFFFF }
  else
    let lo := min x.base.toNat base.toNat
    let hi := max (x.base.toNat + x.len.toNat) (base.toNat + len.toNat)
    { x with scope := max x.scope scope, base := BitVec.ofNat 32 lo, len := if 2 ^ 32 - 1 ≤ hi - lo then 0xFFFFFFFF else BitVec.ofNat 32 (hi - lo) }

/-- The attached acquires of a group with one more (R117). -/
def addAcq (l : List Acq) (bar scope : Nat) (base len : Word) : List Acq :=
  if l.any fun x => decide (x.bar = bar) then l.map fun x => if x.bar = bar then x.widen scope base len else x
  else l ++ [{ bar := bar, scope := scope, base := base, len := len }]

/-- `barrive` and `bexpect` (R117, R180): `n` arrivals, vb expected bytes, an ordering over the range in vb + 1 and vb + 2. -/
def State.arrive (s : State) (p : Bool) (sub : BitVec 4) (a b : BitVec 8) (n : Nat) : Host.Outcome State Fault Refusal :=
  s.control p fun s => Try.act do
    let scope := sub.toNat / 4
    let kind := sub.toNat % 4
    let A := s.src 2 a
    let B := s.src 3 b
    let base := s.src 3 (b + 1)
    let len := s.src 3 (b + 2)
    s.operands [(2, a.toNat, 1), (3, b.toNat, if kind = 0 then 1 else 3)] (if kind = 0 then [A, B] else [A, B, base, len])
    s.barAt A.u
    let addr := A.u.toNat
    let t := s.here.team
    failIf s (s.collecting A.u) { code := 15, field := 2, addr := addr, info := 3 }
    s.needIssued
    s.needFences
    holdIf (decide (2 ≤ kind) && s.releaseWaits scope base.u len.u) (.acks scope base.u len.u)
    s.needScratch addr 16
    let x := s.bar t addr
    failIf s (decide (n ≠ 0) && decide (x.needs s.myTeam.lrec.groups ≤ x.arrived)) { code := 15, field := 2, addr := addr, info := 1 }
    failIf s (!balOk (x.bal + B.u.toNat)) { code := 15, field := 2, addr := addr, info := 2 }
    failIf s (decide (kind % 2 = 1) && decide (16 ≤ s.here.acqs.length) && !s.here.acqs.any fun y => decide (y.bar = addr)) { code := 15, field := 2, addr := addr, info := 6 }
    let s := if 2 ≤ kind then s.release s.cur.core scope base.u len.u else s
    let s := if kind % 2 = 1 then s.modHere fun y => { y with acqs := addAcq y.acqs addr scope base.u len.u } else s
    let x := s.bar t addr
    let s := s.setBar t addr { x with bal := x.bal + B.u.toNat, arrived := x.arrived + n }
    return .done ((if n = 0 then s else s.noteArrival t addr s.here.gid).checkBar t addr)

def execBarrive (p : Bool) (sub : BitVec 4) (a b : BitVec 8) (s : State) : Host.Outcome State Fault Refusal := s.arrive p sub a b 1
def execBexpect (p : Bool) (sub : BitVec 4) (a b : BitVec 8) (s : State) : Host.Outcome State Fault Refusal := s.arrive p sub a b 0

/-- `gbar` (R181, R274): one arrival of the group at a barrier that the grid barrier collects on; another address in collection is misuse (log 21). -/
def execGbar (p : Bool) (a : BitVec 8) (s : State) : Host.Outcome State Fault Refusal :=
  s.control p fun s => Try.act do
    let A := s.src 2 a
    s.operands [(2, a.toNat, 1)] [A]
    s.barAt A.u
    let addr := A.u.toNat
    let t := s.here.team
    let x := s.bar t addr
    failIf s (s.myTeam.gbar.isSome && !s.collecting A.u) { code := 15, field := 2, addr := addr, info := 3 }
    failIf s (decide (x.needs s.myTeam.lrec.groups ≤ x.arrived)) { code := 15, field := 2, addr := addr, info := 1 }
    failIf s (decide (s.myTeam.lrec.cls ≠ 0)) { code := 17, info := s.myTeam.lrec.cls }
    s.needIssued
    s.needFences
    s.needScratch addr 16
    let s := s.modMyTeam fun y => { y with gbar := some addr }
    let x := s.bar t addr
    return .done (((s.setBar t addr { x with arrived := x.arrived + 1 }).noteArrival t addr s.here.gid).checkBar t addr)

end Sys2Proof.Machine
end

