-- ==== Sys2Proof/Machine/Matrix.lean ====
section
/-! DEFINITION. Matrix operations: their issue, rendezvous and execution (R73–R84, R234–R238), and the control instructions that steer them (R176, R183–R187). -/

namespace Sys2Proof.Machine

/-! ### Tiles -/

/-- A tile of the group of the step by its number: the fault that a bad number raises (R54), for a lane instruction. -/
def State.ltile (s : State) (field t : Nat) (pair : Bool) : LTry Unit :=
  if s.here.workTiles ≤ t then lfail s { code := 2, field := field, info := t }
  else lfailIf s (pair && t % 2 = 0 && decide (s.here.workTiles ≤ t + 1)) { code := 2, field := field, info := t + 1 }

/-! ### The panel -/

/-- The bytes of a panel that a pairing reads (R74). -/
def panelBytes (fmt bf : Nat) : Nat := pairK fmt bf * rowBytes bf

/-- The panel bytes in a team's allocation as they stand. -/
def State.panel (s : State) (t addr n : Nat) : List Byte :=
  readN (s.scratchByte (s.team t).core) ((s.team t).scratchBase + addr) n

/-- Bytes that may have changed between the rendezvous and the read: each takes either value (R238). -/
def State.raceBytes (s : State) : List Byte → List Byte → List Byte × State
  | a :: l, b :: m =>
    let r := if a = b then (a, s) else let d := s.draw; (if d.1.getLsbD 0 then a else b, d.2)
    let q := r.2.raceBytes l m
    (r.1 :: q.1, q.2)
  | _, _ => ([], s)

/-! ### Issue (R234, R235, R237) -/

/-- A fragment from the latch: a register written since is latched or current, each for itself (R237). -/
def State.latched (s : State) (l : Latch) : Nat → List GReg → List GReg × State
  | _, [] => ([], s)
  | i, g :: rest =>
    let r := if l.dirty.contains i then let d := s.draw; (if d.1.getLsbD 0 then s.laneReg (l.base + i) else g, d.2) else (g, s)
    let q := r.2.latched l (i + 1) rest
    (r.1 :: q.1, q.2)

/-- The fragment of an operation: the latch's where base and format agree, else the registers (R237). -/
def State.fragment (s : State) (base fmt : Nat) : List GReg × State :=
  match s.here.latch with
  | some l => if l.base = base ∧ l.fmt = fmt then s.latched l 0 l.regs else ((regRun base 24).map s.laneReg, s)
  | none => ((regRun base 24).map s.laneReg, s)

/-- The tags of a fragment (R235): the first register at fault. -/
def fragBad (fmt : Nat) (l : List GReg) : Option GReg :=
  let slot := (l.headD {}).tag
  (l.mapIdx fun i g => (i, g)).findSome? fun e =>
    if (if fmt = 4 then decide (e.2.tag = if e.1 % 2 = 0 then tF64lo else tF64hi)
      else if fmt = 12 then decide (code e.2.tag = 12) && decide (e.2.tag = slot)
      else decide (e.2.tag = tagOf fmt)) then none else some e.2

/-- The tile tag agrees with the pairing (R235). -/
def State.tileAgrees (s : State) (fmt t : Nat) : Bool :=
  let g := (s.tile t).info.tag
  if fmt = 4 then decide (g = 2) && decide (t % 2 = 0)
  else if fmt = 10 ∨ fmt = 11 then decide (g = 1)
  else decide (g = 0) || decide (g = 3)

/-- The group's operand-collector latch after an operation (R237): one that used the latch leaves the registers written since as they were, so that a later one can still take their current values. -/
def Group.relatch (x : Group) (o : GangOp) : Group :=
  let dirty := match x.latch with
    | some l => if l.base = o.base ∧ l.fmt = o.fmt then l.dirty else []
    | none => []
  { x with latch := if o.reuse then some { base := o.base, fmt := o.fmt, regs := o.frag, dirty } else none }

/-- The operations of a completed rendezvous, ascending by group: they share the panel and the lowest member's B scales, and queue at the matrix unit (R235, R238). -/
def State.enqueueOps (s : State) (c : Nat) (ops : List GangOp) : State :=
  match ops with
  | [] => s
  | o :: _ =>
    let b := s.panel o.team o.panel (panelBytes o.fmt o.bf)
    let ops := ops.map fun x => { x with buffer := b, bscale := o.bscale }
    let s := ops.foldl (fun s x => s.modGroup c x.slot fun g => g.relatch x) s
    s.modCore c fun k => { k with mxq := k.mxq ++ [ops] }

/-- The registers of the B scales of an operation (R79). -/
def scaleRegs (blocks kofsb : Nat) : Nat := ((blocks + kofsb) * 64 + 127) / 128

/-- What `mma` and `mmas` share (R234–R236). -/
def State.matrixLanes (s : State) (i : Instr) (scaled : Bool) (f : LaneOp) : Host.Outcome State Fault Refusal :=
  s.lanes i f.p fun s => LTry.act do
    let c := s.cur.core
    let g := s.cur.slot
    let e := f.ext.toNat
    let fmt := f.fmt.toNat
    let bf := e / 2 % 16
    let kofs := e / 256 % 32
    let kofsb := e / 8192 % 32
    let nB := scaleRegs (pairBlocks fmt bf) kofsb
    let d := f.d.toNat
    if (s.core c).held.any fun o => decide (o.slot = g) then .error (.hold .rendezvous)
    s.lneedFences false 0 []
    if s.loading (if fmt = 4 then [d, d + 1] else [d]) then .error (.hold (if fmt = 4 then .pair d else .tile d))
    s.ltile 1 d (fmt = 4)
    s.lranges ([(7, f.a.toNat, 24), (3, f.b.toNat, 1)] ++ if scaled then [(4, f.c.toNat, 2 + nB)] else [])
    let B := s.lval (s.execMask f.mask) 3 f.b f.modb false
    lfailIf s (!B.uniform) (shapeFault 3 B.g)
    let hit := s.here.latch.any fun l => decide (l.base = f.a.toNat) && decide (l.fmt = fmt)
    let fr := s.fragment f.a.toNat fmt
    match (if hit then none else fragBad fmt fr.1) with
    | some r => lfail s (tagFault 7 r)
    | none => .ok ()
    let sc := (regRun f.c.toNat (2 + nB)).map s.laneReg
    match (if scaled then sc.find? fun r => decide (r.tag ≠ tagOf 13) else none) with
    | some r => lfail s (tagFault 4 r)
    | none => .ok ()
    lfailIf s (!s.tileAgrees fmt d) (s.tileFault 1 d)
    s.ltag fullMask B f.modb plainTag
    let b := B.at' 0
    lfailIf s (decide (b % 128 ≠ 0)) { code := 6, field := 3, addr := b }
    lfailIf s (decide (s.scratchSize < b + 24576)) { code := 7, field := 3, addr := b, info := s.scratchSize }
    let panel := regRun (s.myTeam.scratchBase + b) (panelBytes fmt bf)
    match s.heldBy fun x => x.scratch && x.touched.any panel.contains with
    | some w => .error (.hold w)
    | none => .ok ()
    let s := fr.2
    let o : GangOp := { slot := g, gid := s.here.gid, team := s.here.team, gang := s.here.gang, tile := d, frag := fr.1, ascale := sc.take 2, bscale := sc.drop 2, panel := b, fmt, bf, bs := e / 32 % 8, aslot := (fr.1.headD {}).tag.toNat % 8, rnd := f.rnd.toNat, kofs, kofsb, scaled, batch := s.here.batch, split := s.cur.split, insn := s.cur.insn, base := f.a.toNat, reuse := f.ext.getLsbD 0 }
    if s.here.gang.size = 0 then return .done (s.enqueueOps c [o])
    return .latched (s.modCore c fun k => { k with held := k.held ++ [o] })

def execMma (f : LaneOp) (s : State) : Host.Outcome State Fault Refusal := s.matrixLanes (.mma f) false f
def execMmas (f : LaneOp) (s : State) : Host.Outcome State Fault Refusal := s.matrixLanes (.mmas f) true f

/-! ### Rendezvous (R236) -/

/-- The members of a gang register, `MEMBER0` first. -/
def GangReg.list (r : GangReg) : List Nat := (List.range r.size.toNat).map fun n => bitsOf r.members.toNat (4 + 5 * n) (5 * n)

/-- Two lists of members name one set. -/
def sameMembers (a b : List Nat) : Bool := a.all b.contains && b.all a.contains

/-- What the members must agree on (R236). -/
def GangOp.agrees (x y : GangOp) : Bool :=
  decide (x.gang.size = y.gang.size) && sameMembers x.gang.list y.gang.list && decide (x.panel = y.panel)
  && decide (x.fmt = y.fmt) && decide (x.bf = y.bf) && decide (x.bs = y.bs) && decide (x.rnd = y.rnd) && decide (x.kofsb = y.kofsb)

/-- The held operations of the members that `o` lists, ascending, once each has arrived with its `SEQ`. -/
def Core.arrived (k : Core) (o : GangOp) : Option (List GangOp) :=
  let l := (sortBy (fun a b => decide (a < b)) o.gang.list).map fun m =>
    k.held.find? fun x => decide (x.team = o.team) && decide (x.gid = m) && decide (x.gang.seq = o.gang.seq)
  if l.all Option.isSome then some (l.filterMap id) else none

/-- Held operations are dropped and their splits take the gang-mismatch fault (R236, R353): `aux` 1 disagreement, 2 member ended. -/
def State.mismatch (s : State) (c aux : Nat) (ops : List GangOp) : State :=
  let s := s.modCore c fun k => { k with held := k.held.filter fun o => !ops.contains o }
  ops.foldl (fun s o =>
    (s.at { core := c, ret := retOf c, slot := o.slot, split := o.split, team := o.team, insn := o.insn } fun s =>
      s.raiseLane { code := 18, info := o.gang.seq.toNat, aux := aux }).batchEnds c o.slot) s

/-- The members advance `SEQ`, their instructions have issued, and the operation queues (R236). -/
def State.meetGang (s : State) (c : Nat) (ops : List GangOp) : State :=
  let s := s.modCore c fun k => { k with held := k.held.filter fun o => !ops.contains o }
  let s := ops.foldl (fun s o =>
    (s.modGroup c o.slot fun g => { g with gang := { g.gang with seq := g.gang.seq + 1 } }).modSplit c o.slot o.split fun y =>
      y.laneIssued (o.insn.getLsbD 95) (s.cycleOf c + 1)) s
  s.enqueueOps c ops

/-- GANG_RENDEZVOUS: the operation held for the group of the step's slot meets its gang's others. -/
def execGangRendezvous (s : State) : Host.Outcome State Fault Refusal :=
  let c := s.cur.core
  match (s.core c).held.find? fun o => decide (o.slot = s.cur.slot) with
  | none => .next s
  | some o =>
    match (s.core c).arrived o with
    | none => .next s
    | some ops => .next (if ops.all o.agrees then s.meetGang c ops else s.mismatch c 1 ops)

/-- A group that ends leaves the members held with it in their gang to the gang-mismatch fault (R236). -/
def State.memberEnded (s : State) (c t gid : Nat) : State :=
  s.mismatch c 2 ((s.core c).held.filter fun o => decide (o.team = t) && decide (o.gid ≠ gid) && o.gang.list.contains gid)

/-! ### The matrix unit (R77, R82–R84, R238, R287) -/

/-- The matrix unit of a core is occupied for `n` lane cycles more (R75, R83); each of them is charged (R287). -/
def State.occupy (s : State) (c n : Nat) : State :=
  let at' := s.cycleOf c
  s.modCore c fun k => { k with mxUntil := max k.mxUntil at' + n }

/-- The block values of a whole operation. -/
def GangOp.blocks (o : GangOp) (books : Table Codebook) : List (List FVal) :=
  (List.range (pairBlocks o.fmt o.bf)).map (o.block books)

/-- A wide operation on working tile `w` with its partner (R83). -/
def Core.wideOp (k : Core) (w : Nat) (bs : List (List FVal)) : Core :=
  let t := k.tile w
  let p := t.info.partner.toNat
  let r := accumWide bs t.words (k.tile p).words t.info.silt
  (k.setTile w { elems := wordsTable r.1, info := { t.info with silt := r.2.2 } }).setTile p { k.tile p with elems := wordsTable r.2.1 }

/-- An operation on one member's tile (R238): the core after it, and the lane cycles the unit was occupied (R75, R83). -/
def Core.tileOp (k : Core) (x : Group) (o : GangOp) (bs : List (List FVal)) : Core × Nat :=
  let w := x.accBase + o.tile
  let t := k.tile w
  let n := pairCycles o.fmt
  if t.info.skip then (k, n)
  else
    match t.info.tag.toNat with
    | 3 => (k.wideOp w bs, 2 * n)
    | 1 =>
      let r := accumInt bs (t.words.map (signed 32)) false
      (k.setTile w { elems := wordsTable (r.1.map (wrap 32)), info := { t.info with sat := t.info.sat || r.2 } }, n)
    | 2 =>
      let h := k.tile (w + 1)
      let r := accumulate f64F o.rnd bs (pairValues t h) t.info.silt
      ((k.setTile w { elems := wordsTable (r.1.map (· % 2 ^ 32)), info := { t.info with silt := r.2 } }).setTile (w + 1) { h with elems := wordsTable (r.1.map (· / 2 ^ 32)) }, n)
    | _ =>
      let r := accumulate f32F o.rnd bs t.words t.info.silt
      if !crosses r.2 t.info.thr then (k.setTile w { elems := wordsTable r.1, info := { t.info with silt := r.2 } }, n)
      else
        match x.freePool k with
        | p :: _ =>
          let k := (k.setTile w { t with info := { t.info with tag := 3, partner := BitVec.ofNat 8 p } }).setTile p { k.tile p with elems := [] }
          (k.wideOp w bs, 3 * n)
        | [] => (k.setTile w { t with info := { t.info with skip := true, pend := true } }, n)

/-- The matrix unit of a core has no operation and is not occupied. -/
def Core.matrixIdle (k : Core) : Bool := k.mxq.isEmpty && decide (k.mxUntil = 0)

/-- Those of a cluster. -/
def State.matrixIdle (s : State) (c : Nat) : Bool := (s.core (c / 2 * 2)).matrixIdle && (s.core (c / 2 * 2 + 1)).matrixIdle

/-- The occupancy of a matrix unit ends: the idle time of the matrix island starts (R322), and ballast starts where the cluster's units are idle and the record is at or above the mark (R323). -/
def State.goIdle (s : State) (c : Nat) : State :=
  let s := (s.modCore c fun k => { k with mxUntil := 0 }).modCluster (retOf c) (clusterOf c) fun k => { k with used := tset 0 k.used 4 s.now }
  let k := s.cluster (retOf c) (clusterOf c)
  if s.matrixIdle c && decide (k.curHwm.toNat ≤ k.curRec.toNat) then
    (s.modPower (retOf c) (clusterOf c) fun k => { k with ballast := some (s.now, 16) }).postIn 1250 { ret := retOf c, idx := clusterOf c, team := s.now } .ballastDecay
  else s

/-- The head operation starts: it displaces ballast (R323), needs the matrix island (R322), and its panel is read (R235, R238). -/
def State.startOps (s : State) (c : Nat) (ops : List GangOp) : List GangOp × State :=
  let s := s.modPower (retOf c) (clusterOf c) fun k => { k with ballast := none, used := tset 0 k.used 4 s.now, gated := k.gated.filter fun i => decide (i ≠ 4) }
  match ops with
  | [] => ([], s)
  | o :: _ =>
    if o.started then (ops, s)
    else
      let r := s.raceBytes o.buffer (s.panel o.team o.panel o.buffer.length)
      (ops.map fun x => { x with buffer := r.1, started := true }, r.2)

/-- The matrix unit of a core has nothing left to start, and is looked at again where its occupancy ends. -/
def State.windDown (s : State) (c : Nat) : State :=
  let n := (s.core c).mxUntil
  if n = 0 ∨ (s.core c).mxq ≠ [] then s
  else if n ≤ s.cycleOf c then s.goIdle c
  else s.postIn (s.laneTime c (n - s.cycleOf c)) { core := c, ret := retOf c } .matrixOperation

/-- MATRIX_OPERATION: the next member of the oldest operation of the core (R84, R238), or the end of the unit's occupancy (R287, R322, R323). -/
def execMatrixOperation (s : State) : Host.Outcome State Fault Refusal :=
  let c := s.cur.core
  match (s.core c).mxq with
  | [] => .next (s.windDown c)
  | ops :: l =>
    let r := s.startOps c ops
    let s := r.2
    match r.1 with
    | [] => .next (s.modCore c fun k => { k with mxq := l })
    | o :: rest =>
      let x := s.group c o.slot
      let w := (s.core c).tileOp x o (o.blocks (s.team o.team).codebooks)
      let s := s.setCore c { w.1 with mxq := if rest.isEmpty then l else rest :: l }
      .next (((s.occupy c w.2).batchEnds c o.slot).windDown c)

/-! ### Matrix control -/

/-- `mmafence` (R176). -/
def execMmafence (p : Bool) (s : State) : Host.Outcome State Fault Refusal :=
  s.control p fun s => .done s.closeBatch

/-- The matrix operations that the group of the step has issued have ended (R183). -/
def State.needNoOps (s : State) : Try Unit := holdIf (!((s.core s.cur.core).opsOf s.cur.slot).isEmpty) .matrix

/-- A tile is at rest (R185, R241). -/
def State.needNoOpsOn (s : State) (t : Nat) : Try Unit := holdIf (s.tileBusy [t]) (.tile t)

/-- The members named by `va` are sound for a gang of `n` (R183). -/
def State.gangOk (s : State) (va n : Nat) : Bool :=
  let l := (List.range n).map fun i => bitsOf va (4 + 5 * i) (5 * i)
  decide (va < 2 ^ (5 * n)) && (n = 0 || (decide (l.eraseDups.length = n) && l.all (fun m => decide (m < s.myTeam.lrec.groups)) && l.contains s.here.gid))

/-- `gang` (R183): it also releases the operand-collector latch (R237). -/
def execGang (p : Bool) (a b : BitVec 8) (x : Bool) (s : State) : Host.Outcome State Fault Refusal :=
  s.control p fun s => Try.act do
    s.needNoOps
    let A := s.src 2 a
    let B := s.src 3 b x
    s.operands [(2, a.toNat, 1), (3, b.toNat, 1)] [A, B]
    let n := B.u.toNat
    failIf s (decide (n = 1) || decide (6 < n)) { code := 5, field := 3, info := n }
    failIf s (!s.gangOk A.u.toNat n) { code := 5, field := 2, info := A.u.toNat }
    return .done (s.modHere fun g => { g with gang := { seq := 0, size := BitVec.ofNat 3 n, members := A.u.setWidth 30 }, latch := none })

/-- An entry's exponent field and whether it is nonzero. -/
def bookExp (e : BitVec 16) : Nat := bitsOf e.toNat 14 7
def bookZero (e : BitVec 16) : Bool := decide (e.toNat % 2 ^ 15 = 0)

/-- A codebook from 16 entries, or what is at fault (R72, R353): the first bad entry, or 16 for the span. -/
def bookOf (l : List (BitVec 16)) : Except Nat Codebook :=
  match (l.mapIdx fun i e => (i, e)).find? fun e => decide (bookExp e.2 = 255) || (decide (bookExp e.2 = 0) && !bookZero e.2) with
  | some e => .error e.1
  | none =>
    let es := (l.filter fun e => !bookZero e).map bookExp
    let lo := es.foldl min 255
    if lo + 7 < es.foldl max 0 then .error 16
    else .ok { entries := l, emin := if es.isEmpty then 127 else BitVec.ofNat 8 lo }

/-- Matrix operations in flight on a core, at its matrix unit or held for their rendezvous, that read codebook slot `k` of a team (R184). -/
def Core.readsBook (c : Core) (t k : Nat) : Bool :=
  (c.mxq.flatten ++ c.held).any fun o => decide (o.team = t) && ((decide (o.fmt = 12) && decide (o.aslot = k)) || (decide (o.bf = 12) && decide (o.bs = k)))

/-- `cbld` (R72, R184). R57 orders a later use of the slot behind it only through a barrier or a park marker, and leaves open what an unordered one sees: it sees the new contents at once (log 61, a choice of the model). -/
def execCbld (p : Bool) (k : BitVec 3) (a : BitVec 8) (s : State) : Host.Outcome State Fault Refusal :=
  s.control p fun s => Try.act do
    let A := s.src 2 a
    s.operands [(2, a.toNat, 1)] [A]
    let v := A.u.toNat
    failIf s (decide (v % 32 ≠ 0)) { code := 6, field := 2, addr := v }
    failIf s (decide (s.scratchSize < v + 32)) { code := 7, field := 2, addr := v, info := s.scratchSize }
    holdIf ((s.core s.cur.core).readsBook s.here.team k.toNat) (.codebook k.toNat)
    s.needFences
    s.needScratch v 32
    let b := readN (s.scratchByte s.cur.core) (s.myTeam.scratchBase + v) 32
    let l := (List.range 16).map fun j => BitVec.ofNat 16 (fieldLE b (2 * j) 2)
    match bookOf l with
    | .ok x => return .done (s.modMyTeam fun t => { t with codebooks := tset {} t.codebooks k.toNat x })
    | .error j => fail s { code := 16, addr := v, info := j }

/-- A working tile that a control instruction names: the odd tile of a pair cannot be named (R54, R55). -/
def State.nameTile (s : State) (t : Nat) : Try Unit := failIf s (s.oddPair t) (s.tileFault 1 t)

/-- A bf16 threshold that `silt.thr` takes (R185). -/
def thrOk (w : Word) : Bool := decide (w.toNat ≤ 0x7F80)

/-- `silt.thr` (R185). -/
def execSiltThr (p : Bool) (d : BitVec 7) (b : BitVec 8) (x : Bool) (s : State) : Host.Outcome State Fault Refusal :=
  s.control p fun s => Try.act do
    let t := d.toNat
    let B := s.src 3 b x
    s.tileRange 1 t
    s.operands [(3, b.toNat, 1)] [B]
    s.needNoOpsOn t
    s.nameTile t
    failIf s (!thrOk B.u) { code := 5, field := 3, info := B.u.toNat }
    return .done (s.modTileInfo t fun m => { m with thr := B.u.setWidth 16 })

/-- `silt.clr` (R186). -/
def execSiltClr (p : Bool) (d : BitVec 7) (s : State) : Host.Outcome State Fault Refusal :=
  s.control p fun s => Try.act do
    let t := d.toNat
    s.tileRange 1 t
    s.needNoOpsOn t
    s.nameTile t
    return .done (s.modTileInfo t fun m => { m with silt := 0 })

/-- `widepool` (R187). The rule does not say whether the control stream stops until the operations have ended or goes on with the result outstanding: it stalls (log 99, a choice of the model). -/
def execWidepool (p : Bool) (d : BitVec 8) (s : State) : Host.Outcome State Fault Refusal :=
  s.control p fun s => Try.act do
    s.needFree [d.toNat]
    s.rangesOk [(1, d.toNat, 1)]
    s.needNoOps
    return .done (s.ctlWrite d.toNat (uni (BitVec.ofNat 32 (s.here.freePool (s.core s.cur.core)).length) tN32))

end Sys2Proof.Machine
end

