-- ==== Sys2Proof/Machine/Accum.lean ====
section
/-! DEFINITION. Accumulator instructions (R55, R81, R239–R244). -/

namespace Sys2Proof.Machine

/-! ### Pairs and partners (R55) -/

/-! ### Shared rules (R239) -/

/-- The stall until the tile, or the pair, is at rest: the group's matrix operations on it have ended, and an `accld` onto it is performed. -/
def State.lstall (s : State) (t : Nat) (pair : Bool) : LTry Unit :=
  if s.tileBusy (if pair then [t, t + 1] else [t]) then .error (.hold (if pair then .pair t else .tile t)) else .ok ()

/-- Naming the odd tile of a pair, or any odd tile where a pair is meant. -/
def State.pairName (s : State) (field t : Nat) (pair : Bool) : LTry Unit :=
  lfailIf s ((pair && decide (t % 2 = 1)) || s.oddPair t) (s.tileFault field t)

/-- A register written in all 32 lanes. -/
def State.putAll (s : State) (d : Nat) (t : Tag) (f : Nat → Word) : State := s.putLanes d fullMask .general t f

/-- `accz` (R240). -/
def execAccz (f : LaneOp) (s : State) : Host.Outcome State Fault Refusal :=
  s.lanes (.accz f) f.p fun s => LTry.act do
    let t := f.d.toNat
    let pair := isF64 f.fmt
    s.ltile 1 t pair
    s.lstall t pair
    s.pairName 1 t pair
    return .done (s.fillTile t (kindOf f.fmt.toNat) [] fun m => { m with silt := 0, sat := false })

/-! ### Tile images (R241) -/

/-- What `accld` and `accst` share before they issue an access to an image of `n` bytes: ranges, shapes, tags, the tile, the address and its bytes (R220, R221, R239). -/
def State.imageSpan (s : State) (f : LaneOp) (pair : Bool) (n : Nat) (u : Use) : LTry (Nat × List Nat × Bool) := do
  let t := f.d.toNat
  let virt := !f.ext.getLsbD 2
  let E := s.me.active
  let a := s.baseSrc E virt f
  let b := s.offSrc E f none
  s.ltile 1 t pair
  s.lranges (addrRanges virt f none)
  s.lstall t pair
  s.addrShapes virt f a b
  s.addrTags E virt f a b
  s.pairName 1 t (pair && u = .load)
  let addr := laneAddress virt a b ((lowestLane E).getD 0)
  lfailIf s (decide (addr % 128 ≠ 0)) { code := 6, field := 2, addr := addr }
  s.lneedFences virt n [addr]
  s.needWalks virt n [addr]
  match (if virt then s.span s.cur.core addr n u else s.scratchSpan addr n) with
  | .error x => lfail s { x with field := 2 }
  | .ok r =>
    s.needPanel virt r.1
    return (addr, r.1, r.2)

/-- The access to an image: one load or store of all its bytes (R241). -/
def State.imageAccess (s : State) (virt : Bool) (r : Nat × List Nat × Bool) (kind : AccessKind) (data : List Byte) : Access :=
  { kind := kind, split := s.cur.split, scratch := !virt, lanes := [{ va := r.1, bytes := r.2.1, cached := r.2.2, data := data, left := List.range r.2.1.length }], dst := 256, size := r.2.1.length }

/-- `accst` (R241): one store of the image that `TAG` gives. -/
def execAccst (f : LaneOp) (s : State) : Host.Outcome State Fault Refusal :=
  s.lanes (.accst f) f.p fun s => LTry.act do
    let virt := !f.ext.getLsbD 2
    let kind := (s.tile f.d.toNat).info.tag.toNat
    let n := imageSize kind
    let r ← s.imageSpan f (decide (kind = 2)) n .store
    let t := (s.useSpans virt n [r.1]).issueAccess (s.imageAccess virt r .store (s.image f.d.toNat))
    return .done (if virt then t.clearIdem else t)

/-- `accld` (R241): one load of an image of kind ext[1:0]; the tile is written when all of it has been read. -/
def execAccld (f : LaneOp) (s : State) : Host.Outcome State Fault Refusal :=
  s.lanes (.accld f) f.p fun s => LTry.act do
    let t := f.d.toNat
    let virt := !f.ext.getLsbD 2
    let kind := f.ext.toNat % 4
    let n := imageSize kind
    let r ← s.imageSpan f (decide (kind = 2)) n .load
    let free := s.here.freePool (s.core s.cur.core)
    lfailIf s (decide (kind = 3) && decide ((s.tile t).info.tag ≠ 3) && free.isEmpty) { code := 19, field := 1, addr := r.1, info := t }
    let s := (s.useSpans virt n [r.1]).issueAccess { s.imageAccess virt r .load [] with tile := some (t, kind) }
    return .done (if kind = 3 then s.bindPartner t (free.headD 0) else s)

/-! ### Conversion (R242, R243) -/

/-- The tile kinds and formats that `acccvt` pairs. -/
def cvtPairs (kind fmt : Nat) : Bool :=
  match kind with
  | 1 => [1, 10, 11, 3].contains fmt
  | 2 => [4, 3].contains fmt
  | _ => [3, 6, 7, 8].contains fmt

/-- The exact values of a tile: wide parts summed exactly first. -/
def State.tileValues (s : State) (t : Nat) : List FVal :=
  let x := s.tile t
  match x.info.tag.toNat with
  | 1 => x.words.map fun v => intV (signed 32 v)
  | 2 => (pairValues x (s.tile (t + 1))).map f64F.decode
  | 3 => List.zipWith (fun h l => faddV 0 (f32F.decode h) (f32F.decode l)) x.words ((s.core s.cur.core).tile x.info.partner.toNat).words
  | _ => x.words.map f32F.decode

/-- The bound that a conversion adds (R81): for the integer formats, clamping alone can make it other than 0 where the tile holds integers. -/
def cvtBound (fmt mode : Nat) (vs : List FVal) : Bound :=
  if fmt = 1 ∨ fmt = 10 ∨ fmt = 11 then
    (if vs.any fun v => decide (v.dy.i < (intRange fmt).1) || decide ((intRange fmt).2 < v.dy.i) then none else some (0, 0))
  else stepBound (floatFmt fmt) mode (roundAll (floatFmt fmt) mode vs)

/-- The words of register `j` of a run: its 32 lanes pack elements in order. -/
def runWords (fmt : Nat) (v : List Nat) (j : Nat) : Nat → Word :=
  if fmt = 4 then fun l => BitVec.ofNat 32 (v.getD (j / 2 * 32 + l) 0 / (if j % 2 = 0 then 1 else 2 ^ 32))
  else
    let epl := 512 / accRun fmt / 32
    fun l => BitVec.ofNat 32 (packElems (32 / epl) ((v.drop ((j * 32 + l) * epl)).take epl))

/-- The tag of register `j` of a run. -/
def runTag (fmt j : Nat) : Tag := if fmt = 4 then (if j % 2 = 0 then tF64lo else tF64hi) else tagOf fmt

/-- `acccvt` (R242). -/
def execAcccvt (f : LaneOp) (s : State) : Host.Outcome State Fault Refusal :=
  s.lanes (.acccvt f) f.p fun s => LTry.act do
    let t := f.d.toNat
    let fmt := f.fmt.toNat
    let m := (s.tile t).info
    s.ltile 1 t false
    s.lranges [(2, f.a.toNat, accRun fmt), (4, f.c.toNat, 1)]
    s.lstall t false
    s.pairName 1 t false
    lfailIf s (!cvtPairs m.tag.toNat fmt) (s.tileFault 1 t)
    let vs := s.tileValues t
    let out := vs.map (roundTo fmt f.rnd.toNat)
    let silt := if m.sat then siltAdd m.silt none else siltAdd m.silt (cvtBound fmt f.rnd.toNat vs)
    let s := (List.range (accRun fmt)).foldl (fun s j => s.putAll (f.a.toNat + j) (runTag fmt j) (runWords fmt out j)) s
    return .done (s.putLanes f.c.toNat fullMask .uniform tN32 fun _ => silt.setWidth 32)

/-- `accput` (R243). The rule has vc uniform and R362 gives the instruction no shape fault: from a register that is not uniform `SILT` takes a free value (log 85). -/
def execAccput (f : LaneOp) (s : State) : Host.Outcome State Fault Refusal :=
  s.lanes (.accput f) f.p fun s => LTry.act do
    let t := f.d.toNat
    let fmt := f.fmt.toNat
    let pair := isF64 f.fmt
    let run := (regRun f.a.toNat (accRun fmt)).map s.laneReg
    let C := s.laneReg f.c.toNat
    s.ltile 1 t pair
    s.lranges [(2, f.a.toNat, accRun fmt), (4, f.c.toNat, 1)]
    s.lstall t pair
    s.pairName 1 t pair
    match (run.mapIdx fun j g => (j, g)).find? fun e => decide (e.2.tag ≠ runTag fmt e.1) with
    | some e => lfail s (tagFault 2 e.2)
    | none => .ok ()
    lfailIf s (C.tag ≠ tN32 && C.tag ≠ tBits) (tagFault 4 C)
    let w (j l : Nat) : Nat := ((run.getD j {}).val.lane l).toNat
    let v := (List.range 512).map fun i => if pair then w (2 * (i / 32)) (i % 32) + w (2 * (i / 32) + 1) (i % 32) * 2 ^ 32 else w (i / 32) (i % 32)
    let x := if C.val.isUniform then (C.val.lane 0, s) else s.draw
    return .done (x.2.fillTile t (kindOf fmt) v fun m => { m with silt := x.1.setWidth 16, sat := if fmt = 1 then false else m.sat })

/-- `silt.get` (R244): it sees `SKIP` cleared, also in a batch that has not ended (R239). -/
def execSiltGet (f : LaneOp) (s : State) : Host.Outcome State Fault Refusal :=
  s.lanes (.siltGet f) f.p fun s => LTry.act do
    let t := f.c.toNat
    s.lranges [(1, f.d.toNat, 1)]
    s.ltile 4 t false
    s.lstall t false
    s.pairName 4 t false
    let m := (s.tile t).info
    let v : Word := if f.ext.getLsbD 0 then loW { m with skip := false }.word else m.silt.setWidth 32
    return .done (s.putLanes f.d.toNat fullMask .uniform tN32 fun _ => v)

end Sys2Proof.Machine
end

