-- ==== Sys2Proof/Machine/Events.lean ====
section
/-! DEFINITION. Event queues (R275, R313) and the place of a partition on the wafer (R38, R294). -/

namespace Sys2Proof.Machine

/-- The 64 reticles of a wafer. -/
def retList : List Nat := List.range 64

/-- The reticles of a partition on this wafer, ascending (R294). Those in no partition are none's. -/
def State.partRets (s : State) (part : Nat) : List Nat := if 256 ≤ part then [] else retList.filter fun r => decide (s.partOf r = part)

/-- The reticle that holds a partition's event queue (R313). -/
def State.eventRet (s : State) (part : Nat) : Option Nat := (s.partRets part).head?

/-- A queue is enabled with a size that R275 allows: 2^4 to 2^15 records. -/
def Ring.on (q : Ring) : Bool := q.en && decide (4 ≤ q.log2n) && decide (q.log2n ≤ 15)

/-- The fabric address of record `n` of a queue of records of `size` bytes (R275). -/
def Ring.slot (q : Ring) (size : Nat) (n : Word) : Nat := q.base.toNat + size * (n.toNat % 2 ^ q.log2n)

/-- Records in a queue. -/
def Ring.count (q : Ring) : Nat := (q.tail - q.head).toNat

/-- The header of an event record (R313). -/
def eventHeader (type sev seq wafer ret site : Nat) (time : Dword) : List Byte :=
  bytesLE 2 type ++ bytesLE 1 sev ++ bytesLE 1 0 ++ bytesLE 4 seq ++ bytesLE 2 wafer ++ bytesLE 1 ret ++ bytesLE 1 site ++ bytesLE 8 time.toNat ++ bytesLE 12 0

/-- A payload of exactly 32 bytes. -/
def payload32 (l : List Byte) : List Byte := (l ++ List.replicate 32 0).take 32

/-- Bytes that a unit of reticle `r` writes at a fabric address; at one outside every range that it may reach, the access takes an error response and the address is logged (R92). -/
def State.unitWrites (s : State) (r a : Nat) (b : List Byte) : State :=
  match s.target a with
  | .dram | .window _ _ => s.homeWrites none (b.mapIdx fun i v => (a + i, v))
  | _ => s.modRet r fun x => { x with logged := BitVec.ofNat 64 a :: x.logged }

/-- `n` bytes that a unit of reticle `r` reads at a fabric address, none where the access takes an error response (R92, R376). -/
def State.unitReads (s : State) (r a n : Nat) : Option (List Byte) × State :=
  match s.target a with
  | .dram | .window _ _ =>
    if s.lost a || s.lost (a + n - 1) then (none, s.report r { code := 10, info := 4, fa := a })
    else let x := s.homeReads none ((List.range n).map (a + ·)); (some x.1, x.2)
  | _ => (none, s.modRet r fun x => { x with logged := BitVec.ofNat 64 a :: x.logged })

/-- Event records that wait reach the ring of reticle `e`, oldest first, at most `n` of them, while its DRAM can be had (R313, R326). -/
def State.settleEvents (s : State) (e : Nat) : Nat → State
  | 0 => s
  | n + 1 =>
    let x := s.ret e
    match x.eqHeld with
    | [] => s
    | b :: l =>
      let a := x.eq.slot 64 x.eq.tail
      if s.homeWaits e a then s
      else ((s.unitWrites e a b).modRet e fun y => { y with eqHeld := l, eq := { y.eq with tail := y.eq.tail + 1 } }).settleEvents e n

/-- An event posted to a partition's queue by reticle `r` (R313): dropped where the queue is full or off, its sequence number consumed all the same. -/
def State.event (s : State) (part r site type sev : Nat) (payload : List Byte) : State :=
  match s.eventRet part with
  | none => s
  | some e =>
    let x := s.ret e
    let s := s.modRet e fun y => { y with eqSeq := y.eqSeq + 1 }
    if x.eq.on && decide (x.eq.count + x.eqHeld.length < 2 ^ x.eq.log2n) then
      let b := eventHeader type sev x.eqSeq.toNat s.wafer r site (s.refCount r) ++ payload32 payload
      (s.modRet e fun y => { y with eqHeld := y.eqHeld ++ [b] }).settleEvents e (x.eqHeld.length + 1)
    else s.modRet e fun y => { y with eqLost := y.eqLost + 1 }

/-! ### The ring (R38) -/

/-- mix of R38. -/
def mix (h : Dword) : Dword :=
  let h := h ^^^ (h >>> 31)
  let h := h * 0x9E6C63D0676A9A99
  let h := h ^^^ (h >>> 29)
  let h := h * 0xC2B2AE3D27D4EB4F
  h ^^^ (h >>> 32)

/-- The position of a core of a wafer (R38). -/
def ringPos (wafer c : Nat) : Nat := (mix (BitVec.ofNat 64 (wafer * 8192 + retOf c * 128 + siteOf c))).toNat

/-- The wafer set of a partition, as its descriptors here name it (R294). -/
def State.waferSet (s : State) (part : Nat) : List Nat :=
  match (s.partRets part).head? with
  | some r => match (s.ret r).part with
    | some p => p.wafers
    | none => []
  | none => []

/-- The ring of a partition (R38): the own wafer's cores, and those of the other wafers of its set. -/
def State.ringOf (s : State) (part : Nat) : List (Nat × Nat × Nat) :=
  (s.ring.filter fun e => decide (e.2.1 = s.wafer) && decide (s.partOf (retOf e.2.2) = part))
  ++ ((s.waferSet part).filter fun w => decide (w ≠ s.wafer)).flatMap fun w => (Config.partCores w part).map fun c => (ringPos w c, w, c)

/-- The wafer and core whose position is first at or above a point of a partition's ring, wrapping. -/
def State.ownerAt (s : State) (part : Nat) (at' : Nat) : Option (Nat × Nat) :=
  let l := s.ringOf part
  let before (a b : Nat × Nat × Nat) : Bool := decide (a.1 < b.1)
  match firstBy before (l.filter fun e => decide (at' ≤ e.1)) with
  | some e => some e.2
  | none => (firstBy before l).map Prod.snd

/-- The owner of a key, by wafer and core (R38). -/
def State.ownerPlace (s : State) (part : Nat) (key : Dword) : Option (Nat × Nat) := s.ownerAt part (mix key).toNat

/-- The owner of a key, where it lies on the own wafer. -/
def State.owner (s : State) (part : Nat) (key : Dword) : Option Nat :=
  match s.ownerPlace part key with
  | some (w, c) => if w = s.wafer then some c else none
  | none => none

/-- The key of a team (R36). -/
def LaunchRec.key (r : LaunchRec) (lin : Nat) : Dword := r.keyBase + BitVec.ofNat 64 lin

/-- The reticle behind a boundary: 0 north, 1 south, 2 west, 3 east. -/
def neighbour (r dir : Nat) : Option Nat :=
  match dir with
  | 0 => if 8 ≤ r then some (r - 8) else none
  | 1 => if r < 56 then some (r + 8) else none
  | 2 => if r % 8 = 0 then none else some (r - 1)
  | _ => if r % 8 = 7 then none else some (r + 1)

/-- The bus wires of a reticle towards the neighbour behind a boundary work, as far as they lie inside a partition (R384). -/
def State.wiresOk (s : State) (part r dir : Nat) : Bool :=
  !(s.ret r).busDown.contains dir || (match neighbour r dir with
    | some q => decide (s.partOf q ≠ part)
    | none => true)

/-- The broadcast buses that cores of some reticles of a partition need work (R22, R384): along their rows and along their columns inside the partition every reticle's fabric rail runs, and no boundary that the bus crosses has lost its bus wires (log 90). -/
def State.busesOk (s : State) (part : Nat) (rets : List Nat) : Bool :=
  (s.partRets part).all fun r =>
    let row := rets.any fun q => decide (q / 8 = r / 8)
    let col := rets.any fun q => decide (q % 8 = r % 8)
    (!(row || col) || decide ((s.ret r).fabric ≠ 0))
      && (!row || (s.wiresOk part r 2 && s.wiresOk part r 3)) && (!col || (s.wiresOk part r 0 && s.wiresOk part r 1))

/-- The core where a team's counters are held (R270): its own, or its home core while it is not resident. -/
def State.countersAt (s : State) (t : Nat) : Nat := if (s.team t).stage = .resident then (s.team t).core else (s.team t).home

/-- The site of a core takes no part in sweeps: its bus switch is closed (R22). -/
def State.bypassed (s : State) (c : Nat) : Bool := (s.ret (retOf c)).bypass.getLsbD (siteOf c)

/-- The team of a grid by its linear id, until it has ended. -/
def State.teamOf (s : State) (grid : Word) (part lin : Nat) : Option Nat :=
  (s.teams.find? fun e => decide (e.2.lrec.grid = grid) && decide (e.2.lrec.part = part) && decide (e.2.lin = lin) && decide (e.2.stage ≠ .ended)).map Prod.fst

end Sys2Proof.Machine
end

