-- ==== Sys2Proof/Machine/Fabric.lean ====
section
/-! DEFINITION. The Treliq fabric: packets and their delivery (R304, R305), keys and admission (R299–R303, R378–R380), and storage addressed by team (R94, R266, R303). -/

namespace Sys2Proof.Machine

/-! ### Sending -/

/-- The step that a packet causes where it arrives (R304). -/
def arrivalOf (k : Packet) : Instr :=
  match k.op with
  | 1 => .put k
  | 2 => .getRequest k
  | 3 => .getData k
  | 4 => .atomic k
  | 5 => .atomicResult k
  | 6 => .collectiveChunk k
  | 7 => .gridBarrierArrival
  | 8 => .gridBarrierRelease
  | 9 => .drainSweep
  | 10 => .semanticNack k
  | _ => .unassignedOperation k

/-- The unit of an arriving packet: those of an ordered job keep their order (R305). The packet itself stands there where it is a message of a grid barrier or a drain detection (R273, R304). -/
def unitOf (k : Packet) : Cur :=
  if k.ordered then { ret := k.dstRet, core := k.tagRet * 72 + k.tagSite, idx := 1 }
  else { ret := k.dstRet, core := k.srcRet, idx := k.psn + 2, pkt := if 7 ≤ k.op ∧ k.op ≤ 9 then some k else none }

/-- What a port has queued leaves it, unless the link is paused (R307, R326). -/
def State.transmit (s : State) (p : Nat) : State :=
  let x := s.port p
  if x.queue.isEmpty || x.paused || (s.ret (p / 2)).pausing || decide (x.lit = 0) || !(decide (x.st = 8) || decide (x.st = 7) || decide (x.st = 1)) then s
  else { s.setPort p { x with queue := [], psnSent := x.psnSent + x.queue.length, lastFlit := (List.range 4).foldl (fun l n => if x.lit.getLsbD n then tset 0 l n s.now else l) x.lastFlit } with outbox := x.queue.reverse ++ s.outbox }

/-- A packet takes a route. -/
def State.carry (s : State) (k : Packet) (rt : Route) : State :=
  match rt with
  | .here => s.post (unitOf k) (arrivalOf k)
  | .mesh => s.post (unitOf k) (arrivalOf k)
  | .port p => (s.modPort p fun x => { x with queue := x.queue ++ [k] }).transmit p
  | .held => s

def Route.port? : Route → Option Nat
  | .port p => some p
  | _ => none

/-- What is left of the pause that a slot puts on the links of a reticle: from 50 reference cycles before the slot to 50 after it (R326). -/
def State.pauseLeft (s : State) (r : Nat) : Nat :=
  let x := s.ret r
  if !x.pausing then 0
  else if !x.inSlot ∧ x.slotAt ≤ s.now + 50 then x.slotAt + slotLength x.slotN + 50 - s.now
  else x.slotEnd + 50 - s.now

/-- The retransmission timer of an attempt (R305, R385); it stands still while a slot pauses the links. -/
def State.startTimer (s : State) (r psn attempt : Nat) : State :=
  s.postIn (20000 * 2 ^ (attempt - 1) + s.pauseLeft r) { ret := r, idx := psn } (.retransmissionTimeout r psn attempt)

/-- The number of a route, as an ordered job keeps it (R298); none while no plane is usable. -/
def Route.number : Route → Option Nat
  | .port p => some (p + 1)
  | .held => none
  | _ => some 0

/-- The route of a path's number. -/
def pathRoute : Option Nat → Route
  | none => .held
  | some 0 => .mesh
  | some (p + 1) => .port p

/-- A packet leaves the endpoint of reticle `r` for the first time: by the path of its ordered job, or a route of its own. -/
def State.send (s : State) (r : Nat) (k : Packet) (core : Nat) (card : List Word) (path : Option Route) : State :=
  let k := { k with psn := (s.ret r).psn, srcWafer := s.wafer, srcRet := r }
  let rt := path.getD (s.route r k.bank k.dstWafer k.dstRet)
  let t : TxPacket := { pkt := k, core := core, card := card, port := rt.port?, path := rt.number }
  (((s.modRet r fun x => { x with psn := x.psn + 1, tx := x.tx ++ [t] }).startTimer r k.psn 1).carry k rt)

/-- The job tag as a word (R304). -/
def pktTag (k : Packet) : Nat := k.tagRet + k.tagSite * 64 + k.tagSeq % 2 ^ 19 * 2 ^ 13

/-- A path still carries packets from reticle `r` to a wafer and reticle. -/
def State.pathUsable (s : State) (r wafer ret : Nat) : Nat → Bool
  | 0 => decide (wafer = s.wafer) && (decide (ret = r) || s.meshOk r ret)
  | p + 1 => s.usable r p

/-- The packets of an ordered job that its endpoint has sent and that are outstanding. -/
def State.ordered (s : State) (r : Nat) (k : Packet) : List TxPacket := (s.ret r).tx.filter fun t => t.pkt.ordered && decide (pktTag t.pkt = pktTag k)

/-- The route of a packet that is sent again. One of an ordered job takes the path that the job's packets have while that is usable; where they have none, the first that is outstanding chooses it, and the others wait for it (R298, R382). -/
def State.again (s : State) (r : Nat) (k : Packet) : Route :=
  let l := s.ordered r k
  if !k.ordered then s.route r k.bank k.dstWafer k.dstRet
  else match (l.filterMap TxPacket.path).find? (s.pathUsable r k.dstWafer k.dstRet) with
    | some p => pathRoute (some p)
    | none => if l.any fun t => decide (t.pkt.ord < k.ord) then .held else s.route r k.bank k.dstWafer k.dstRet

/-- An ordered job keeps the path that its packets have taken. -/
def State.keepPath (s : State) (k : Packet) (rt : Route) : State :=
  if !k.ordered then s
  else s.modCore (k.tagRet * 72 + k.tagSite) fun x => { x with jobs := x.jobs.map fun j => if j.id % 2 ^ 19 = k.tagSeq % 2 ^ 19 then { j with path := rt.number } else j }

/-- A packet is sent again, as a further attempt (R298, R305, R382). Its earlier attempt no longer counts at the port it took. -/
def State.resend (s : State) (r : Nat) (t : TxPacket) : State :=
  let rt := s.again r t.pkt
  let u := { t with attempt := t.attempt + 1, port := rt.port?, path := rt.number }
  let s := s.keepPath t.pkt rt
  let s := match t.port with
    | some p => s.modPort p fun x => { x with psnAcked := x.psnAcked + 1 }
    | none => s
  ((s.modRet r fun x => { x with tx := x.tx.map fun y => if y.pkt.psn = t.pkt.psn then u else y }).startTimer r t.pkt.psn u.attempt).carry t.pkt rt

/-! ### Receiving -/

/-- The identity of a packet at its receiver (R305). -/
def identOf (k : Packet) : Nat × Nat × Nat := (k.srcWafer, k.srcRet, k.psn)

/-- The packet has been applied before: a duplicate (R305). -/
def State.seen (s : State) (k : Packet) : Bool := (s.ret k.dstRet).rxSeen.contains (identOf k)

/-- The ordered job of a packet, as its receiver names it. -/
def rodOf (k : Packet) : Nat := k.srcWafer * 2 ^ 32 + pktTag k

/-- The packet has been refused before: its refusal is under way, or has come (R378). -/
def State.refused (s : State) (k : Packet) : Bool := (s.ret k.dstRet).rxRefused.contains (identOf k)

/-- A packet of an ordered job whose turn has not come: an earlier one of the job is still to be applied (R305). -/
def State.early (s : State) (k : Packet) : Bool := k.ordered && decide (k.ord ≠ 0) && decide (k.ord ≠ (aget (s.ret k.dstRet).rod (rodOf k)).getD 0)

/-- A packet has been applied or refused; the next of its ordered job may follow. -/
def State.markSeen (s : State) (k : Packet) : State :=
  s.modRet k.dstRet fun x => { x with rxSeen := (identOf k) :: x.rxSeen, rod := if k.ordered then aput x.rod (rodOf k) (k.ord + 1) else x.rod }

/-- The acknowledgement of a packet (R126). -/
def State.ack (s : State) (k : Packet) : State :=
  if k.srcWafer = s.wafer then s.post { ret := k.srcRet, idx := k.psn } (.acknowledgement k.srcRet k.psn)
  else { s with ackbox := (k.srcWafer, k.srcRet, k.psn) :: s.ackbox }

/-- A refusal log entry (R380). -/
def State.logRefusal (s : State) (k : Packet) (reason : Nat) : State :=
  let r := k.dstRet
  let e := bytesLE 4 k.key.toNat ++ bytesLE 8 k.offset.toNat ++ bytesLE 2 k.srcWafer ++ bytesLE 1 k.srcRet ++ bytesLE 1 reason ++ bytesLE 4 (pktTag k) ++ bytesLE 8 (s.refCount r).toNat ++ bytesLE 4 0
  s.modRet r fun x => { x with rlog := aput x.rlog (x.rlogHead.toNat % 64) e, rlogHead := x.rlogHead + 1 }

/-- A semantic NACK of a request (R301, R304); it names the refused packet by its sequence number in its length field. -/
def State.nack (s : State) (k : Packet) (reason : Nat) : State :=
  (s.logRefusal k reason).send k.dstRet { op := 10, part := k.part, key := k.key, offset := BitVec.ofNat 64 reason, len := k.psn, team := k.team, tagRet := k.tagRet, tagSite := k.tagSite, tagSeq := k.tagSeq, dstWafer := k.srcWafer, dstRet := k.srcRet, bank := (s.ret k.dstRet).bank, coll := k.coll } 0 [] none

/-- A packet is refused, and stays so (R378): it does not count as applied, its ordered job goes on behind it, and its sender is told the reason. -/
def State.refuseNew (s : State) (k : Packet) (reason : Nat) : State :=
  (s.modRet k.dstRet fun x => { x with rxSeen := x.rxSeen.erase (identOf k), rxRefused := (identOf k) :: x.rxRefused, rod := if k.ordered then aput x.rod (rodOf k) (k.ord + 1) else x.rod }).nack k reason

/-- A firewall event of a reticle (R295, R313). -/
def State.firewall (s : State) (k : Packet) : State :=
  s.event (s.partOf k.dstRet) k.dstRet 0xFF 0x0011 2 (bytesLE 8 (k.srcWafer * 2 ^ 42 + k.srcRet * 2 ^ 36) ++ bytesLE 1 k.part)

/-! ### Keys (R299–R302) -/

def keyRet (key : Word) : Nat := bitsOf key.toNat 31 26
def keyIdx (key : Word) : Nat := bitsOf key.toNat 25 14
def keyGen (key : Word) : Nat := key.toNat % 2 ^ 14

def State.key (s : State) (r j : Nat) : KeyEntry := tget {} (s.ret r).keys j

def State.modKey (s : State) (r j : Nat) (f : KeyEntry → KeyEntry) : State := s.modRet r fun x => { x with keys := tset {} x.keys j (f (tget {} x.keys j)) }

/-- The admission checks of R301, in order: the NACK reason of the first that fails. `right` is 0 read, 1 write, 2 atomic. -/
def KeyEntry.refuses (e : KeyEntry) (k : Packet) (right : Nat) : Option Nat :=
  if e.state = 0 ∨ e.gen ≠ keyGen k.key then some 1
  else if e.state ≠ 1 then some 2
  else if k.part ≠ e.part then some 3
  else if !e.rights.getLsbD right || (decide (e.kind ≠ 0) && decide (k.team.toNat ≠ e.team)) then some 4
  else if e.len < k.offset.toNat + k.len then some 5
  else none

/-- A draining key with nothing in flight is due to be freed (R302). -/
def State.drainCheck (s : State) (r j : Nat) : State :=
  if (s.key r j).state = 2 ∧ (s.key r j).inflight = 0 then s.postOnce { ret := r, idx := j } .keyDrained else s

/-- An admitted request has completed (R301). -/
def State.release1 (s : State) (r : Nat) (key : Word) : State :=
  (s.modKey r (keyIdx key) fun e => { e with inflight := e.inflight - 1 }).drainCheck r (keyIdx key)

/-- The fabric address of a byte of a memory region and its leaf, through the locked translations (R91). -/
def KeyEntry.page (e : KeyEntry) (off : Nat) : Option (Nat × Dword) :=
  let va := e.vbase + off
  (e.locked.find? fun t => t.hits t.part va).map fun t => (pteAddr t.pte + (if t.big then va % 2 ^ 25 else va % 65536), t.pte)

/-! ### Storage addressed by team (R94, R266, R303) -/

/-- The window offset of a byte of a resident team's storage: a scratchpad byte, or a byte of tile `group × 128 + tile` (R93, R300); none where the team has no such storage. -/
def State.teamByte (s : State) (t : Nat) (tiles : Bool) (off : Nat) : Option Nat :=
  let x := s.team t
  if !tiles then (if off < x.lrec.scratch * 4096 then some (0x100000 + x.scratchBase + off) else none)
  else match s.slotOf t (off / 2048 / 128) with
    | none => none
    | some g =>
      let y := s.group x.core g
      if off / 2048 % 128 < y.accN then some (0x200000 + (y.accBase + off / 2048 % 128) * 2048 + off % 2048) else none

/-- The window offsets of `n` bytes, all of them there. -/
def State.teamBytes (s : State) (t : Nat) (tiles : Bool) (off n : Nat) : Option (List Nat) :=
  (List.range n).foldr (fun i l => match s.teamByte t tiles (off + i), l with
    | some a, some l => some (a :: l)
    | _, _ => none) (some [])

/-- Bytes written into a resident team's storage; those it has no storage for are dropped. -/
def State.putTeam (s : State) (t : Nat) (tiles : Bool) (off : Nat) (bytes : List Byte) : State :=
  s.modCore (s.team t).core fun k => (bytes.mapIdx fun i b => (i, b)).foldl (fun k e =>
    match s.teamByte t tiles (off + e.1) with
    | some a => k.setWindowByte a e.2
    | none => k) k

/-- The answer to an admitted request (R253, R254). -/
def State.answerWith (s : State) (k : Packet) (op : Nat) (bytes : List Byte) : State :=
  s.send k.dstRet { op := op, part := k.part, key := k.key, offset := k.offset, len := bytes.length, team := k.team, tagRet := k.tagRet, tagSite := k.tagSite, tagSeq := k.tagSeq, dstWafer := k.srcWafer, dstRet := k.srcRet, bank := (s.ret k.dstRet).bank, payload := bytes } 0 [] none

/-- The new value of a remote atomic's word (R254). -/
def atomNew (k : Packet) (old : Word) : Word :=
  atomWord (k.atomOp % 16) (k.atomOp / 16 % 16) old (wordLE k.payload) (wordLE (k.payload.drop 4))

/-- A job of this wafer stops at an error, unless it has met one before. -/
def State.putFails (s : State) (k : Packet) (e : JobError) : State :=
  if k.srcWafer ≠ s.wafer then s
  else s.modCore (k.tagRet * 72 + k.tagSite) fun x => { x with jobs := x.jobs.map fun j =>
    if j.id % 2 ^ 19 = k.tagSeq % 2 ^ 19 then { j with error := some (j.error.getD e) } else j }

/-- A barrier word of a request counts landed bytes at the team's barrier; a balance out of range ends the job with reason 9, where it still runs (R252, R266; log 91). -/
def State.countTarget (s : State) (t : Nat) (k : Packet) : State :=
  match k.bar with
  | none => s
  | some w =>
    if w.toNat / 16 * 16 + 16 ≤ (s.team t).lrec.scratch * 4096 then
      let r := s.countInto t (w.toNat / 16 * 16) (w.toNat % 2) k.len none
      if r.1 then r.2.putFails k { reason := 9, space := 1, addr := BitVec.ofNat 64 (w.toNat / 16 * 16) } else r.2
    else s

/-- An admitted request performed at a resident team's storage, answered and completed (R301, R303). -/
def State.serveTeam (s : State) (t : Nat) (tiles : Bool) (k : Packet) : State :=
  let r := keyRet k.key
  let c := (s.team t).core
  let off := k.offset.toNat
  match s.teamBytes t tiles off k.len with
  | none => (s.refuseNew k 6).release1 r k.key
  | some l =>
    match k.op with
    | 1 => (((s.putTeam t tiles off k.payload).countTarget t k).ack k).release1 r k.key
    | 2 => ((s.ack k).answerWith k 3 (l.map (s.core c).windowByte)).release1 r k.key
    | _ =>
      let old := wordLE (l.map (s.core c).windowByte)
      (((s.putTeam t tiles off ((List.range 4).map (byteOf (atomNew k old)))).ack k).answerWith k 5 ((List.range 4).map (byteOf old))).release1 r k.key

/-- The team kinds of a region: scratchpad or tiles. -/
def KeyEntry.tiles (e : KeyEntry) : Bool := decide (e.kind = 2)

/-- What is held for a team is applied to its storage, in landing order (R266, R291, R379). -/
def State.applyHeld (s : State) (t : Nat) (h : Held) : State :=
  match h.req with
  | some k => s.serveTeam t (s.key (keyRet k.key) (keyIdx k.key)).tiles k
  | none =>
    let s := match h.tile with
      | none => s.putTeam t false h.off h.bytes
      | some j => s.putTeam t true (j * 2048 + h.off) h.bytes
    match h.bar with
    | none => s
    | some (a, par) =>
      let b := s.bar t a
      if h.release then (s.modTeam t fun x => { x with gbar := none, gbarSent := false }).advanceBar t a
      else (s.setBar t a { b.land h.count par with arrived := b.arrived + h.arrive }).checkBar t a

/-- A team that ends with requests held for it: each is refused and leaves `INFLIGHT` (R379). -/
def State.discardHeld (s : State) (t : Nat) : State :=
  (s.team t).held.foldl (fun s h => match h.req with
    | some k => (s.refuseNew k 6).release1 (keyRet k.key) k.key
    | none => s) s

end Sys2Proof.Machine
end

