-- ==== Sys2Proof/Machine/Sha.lean ====
section
/-! DEFINITION. SHA-256, which R327, R329, R393 and R394 name: the hash of the FIPS 180-4 standard (log 8). -/

namespace Sys2Proof.Machine

/-- The primes below 312, ascending: the 64 that FIPS 180-4 takes its constants from. -/
def shaPrimes : List Nat := (List.range 312).filter fun p => decide (2 ≤ p) && (List.range 18).all fun d => decide (d < 2 ∨ p = d ∨ p % d ≠ 0)

/-- The greatest `r` with r^k ≤ n, its bits found from the highest of `b` down. -/
def shaRoot (k n : Nat) : Nat → Nat → Nat
  | 0, r => r
  | b + 1, r => shaRoot k n b (if (r + 2 ^ b) ^ k ≤ n then r + 2 ^ b else r)

/-- The first 32 bits of the fraction of the k-th root of `p`. -/
def shaFraction (k p : Nat) : Word := BitVec.ofNat 32 (shaRoot k (p * 2 ^ (32 * k)) 37 0)

/-- The 64 round constants: from the cube roots. -/
def shaK : List Word := shaPrimes.map (shaFraction 3)

/-- The eight words of the initial hash: from the square roots of the first eight primes. -/
def shaH : List Word := (shaPrimes.take 8).map (shaFraction 2)

/-- The two small functions of the message schedule. -/
def shaSmall0 (x : Word) : Word := x.rotateRight 7 ^^^ x.rotateRight 18 ^^^ (x >>> 3)
def shaSmall1 (x : Word) : Word := x.rotateRight 17 ^^^ x.rotateRight 19 ^^^ (x >>> 10)

/-- The message schedule of a block, latest word first, `n` words still to be made. -/
def shaSchedule : Nat → List Word → List Word
  | 0, w => w
  | n + 1, w => shaSchedule n ((shaSmall1 (w.getD 1 0) + w.getD 6 0 + shaSmall0 (w.getD 14 0) + w.getD 15 0) :: w)

/-- One round. -/
def shaRound (h : List Word) (k w : Word) : List Word :=
  let v (i : Nat) : Word := h.getD i 0
  let big1 := (v 4).rotateRight 6 ^^^ (v 4).rotateRight 11 ^^^ (v 4).rotateRight 25
  let ch := (v 4 &&& v 5) ^^^ (~~~(v 4) &&& v 6)
  let t1 := v 7 + big1 + ch + k + w
  let big0 := (v 0).rotateRight 2 ^^^ (v 0).rotateRight 13 ^^^ (v 0).rotateRight 22
  let maj := (v 0 &&& v 1) ^^^ (v 0 &&& v 2) ^^^ (v 1 &&& v 2)
  [t1 + (big0 + maj), v 0, v 1, v 2, v 3 + t1, v 4, v 5, v 6]

/-- The big-endian words of bytes, `n` of them. -/
def wordsBE : Nat → List Byte → List Word
  | 0, _ => []
  | n + 1, l => BitVec.ofNat 32 (natLE (l.take 4).reverse) :: wordsBE n (l.drop 4)

/-- A 64-byte block taken into the hash. -/
def shaBlock (h : List Word) (b : List Byte) : List Word :=
  let w := (shaSchedule 48 (wordsBE 16 b).reverse).reverse
  List.zipWith (· + ·) h ((List.zip shaK w).foldl (fun h e => shaRound h e.1 e.2) h)

/-- The blocks of a padded message. -/
def shaBlocks : Nat → List Word → List Byte → List Word
  | 0, h, _ => h
  | n + 1, h, l => shaBlocks n (shaBlock h (l.take 64)) (l.drop 64)

/-- SHA-256 of bytes: 32 bytes. -/
def sha256 (l : List Byte) : List Byte :=
  let pad := l ++ 0x80 :: List.replicate ((119 - l.length % 64) % 64) 0 ++ (bytesLE 8 (8 * l.length)).reverse
  (shaBlocks (pad.length / 64) shaH pad).flatMap fun w => (bytesLE 4 w.toNat).reverse

end Sys2Proof.Machine
end

