-- ==== Sys2Proof/Machine/Launch.lean ====
section
/-! DEFINITION. Launch records and team entries (R33–R36, R172, R173, R275, R276, R364, R393, R395), placement and the start and end of teams (R26, R35, R44, R277, R284, R285). -/

namespace Sys2Proof.Machine

/-! ### Launch records (R33, R34) -/

/-- A launch record from the number that its 128 bytes hold. -/
def LaunchRec.ofNat (n : Nat) : LaunchRec :=
  let w (hi lo : Nat) := bitsOf n hi lo
  { grid := BitVec.ofNat 32 (w 799 768), args := (List.range 8).map fun i => BitVec.ofNat 32 (w (543 + 32 * i) (512 + 32 * i)), keyBase := BitVec.ofNat 64 (w 511 448), part := w 407 400, idem := bitOf n 397, prio := w 396 395, cls := w 394 393, scratch := w 392 384, roles := (List.range 4).map fun i => BitVec.ofNat 32 (w (287 + 32 * i) (256 + 32 * i)), nz := w 239 224, ny := w 223 208, nx := w 207 192, count := w 191 160, base := w 159 128, lbase := BitVec.ofNat 64 (w 120 64), entry := BitVec.ofNat 64 (w 56 0) }

/-- The 128 bytes of a launch record. -/
def LaunchRec.bytes (r : LaunchRec) : List Byte :=
  bytesLE 8 r.entry.toNat ++ bytesLE 8 r.lbase.toNat ++ bytesLE 4 r.base ++ bytesLE 4 r.count ++ bytesLE 2 r.nx ++ bytesLE 2 r.ny ++ bytesLE 2 r.nz ++ bytesLE 2 0
  ++ (r.roles.flatMap fun w => bytesLE 4 w.toNat) ++ bytesLE 8 (r.scratch + r.cls * 2 ^ 9 + r.prio * 2 ^ 11 + (if r.idem then 2 ^ 13 else 0) + r.part * 2 ^ 16)
  ++ bytesLE 8 r.keyBase.toNat ++ (r.args.flatMap fun w => bytesLE 4 w.toNat) ++ bytesLE 4 r.grid.toNat ++ bytesLE 28 0

/-- The fields of a role word. -/
def roleGroups (w : Word) : Nat := bitsOf w.toNat 5 0
def roleRegs (w : Word) : Nat := bitsOf w.toNat 10 6
def roleAcc (w : Word) : Nat := bitsOf w.toNat 18 11
def rolePool (w : Word) : Nat := bitsOf w.toNat 26 19

/-- The reserved fields of a record, by offset. -/
def reservedFields : List (Nat × Nat) := [(63, 57), (127, 121), (255, 240), (287, 285), (319, 317), (351, 349), (383, 381), (399, 398), (447, 408), (1023, 800)]

/-- The first role at which a running sum passes a limit. -/
def sumFails (limit : Nat) : List Nat → Nat → Nat → Option Nat
  | [], _, _ => none
  | x :: l, i, t => if limit < t + x then some i else sumFails limit l (i + 1) (t + x)

/-- The first failing field of a record, by its bit offset, in the order of R34. Choices of the model (log 30): of several nonzero reserved fields the one of lowest offset is named, the roles are taken one by one with both conditions of each, REGBLK first, and a role whose POOL exceeds its ACC names POOL; a REGBLK above 16 is refused as one of 0 is, and a SCRATCH above 256 behind the list of R34, since R33 assigns neither and R363 refuses unassigned values. -/
def badField (n : Nat) : Option Nat :=
  let r := LaunchRec.ofNat n
  let gs := r.roles.map roleGroups
  let roles := r.roles.mapIdx fun i w => (i, w)
  match reservedFields.find? fun f => decide (bitsOf n f.1 f.2 ≠ 0) with
  | some f => some f.2
  | none =>
    if r.cls = 3 then some 393
    else if gs.foldl (· + ·) 0 = 0 then some 256
    else match sumFails 32 gs 0 0 with
    | some i => some (256 + 32 * i)
    | none =>
      match roles.findSome? fun e =>
        if roleGroups e.2 = 0 then none
        else if roleRegs e.2 = 0 ∨ 16 < roleRegs e.2 then some (262 + 32 * e.1)
        else if roleAcc e.2 < rolePool e.2 then some (275 + 32 * e.1)
        else none with
      | some f => some f
      | none =>
        match sumFails 128 (r.roles.map fun w => roleGroups w * roleAcc w) 0 0 with
        | some i => some (267 + 32 * i)
        | none =>
          let total := r.nx * r.ny * r.nz
          if 16777216 < total then some 192
          else if r.count < 1 then some 160
          else if total < r.base + r.count then some 128
          else if r.entry.toNat % 4 ≠ 0 then some 0
          else if r.lbase.toNat % 16 ≠ 0 then some 64
          else if 256 < r.scratch then some 384
          else none

/-! ### Needs and placement (R277) -/

/-- Units of a resource that are in use, as runs: first unit and length. -/
abbrev Runs' := List (Nat × Nat)

/-- A run of `n` units from `a` is free. -/
def freeRun (used : Runs') (n a : Nat) : Bool := used.all fun u => decide (a + n ≤ u.1) || decide (u.1 + u.2 ≤ a)

/-- The lowest free run of `n` units below `limit`. -/
def firstFit (used : Runs') (n limit : Nat) : Option Nat :=
  if n = 0 then some 0 else if limit < n then none else (List.range (limit + 1 - n)).find? (freeRun used n)

/-- The role words of a team's groups, in group index order (R26). -/
def LaunchRec.groupRoles (r : LaunchRec) : List (Nat × Word) :=
  (r.roles.mapIdx fun i w => List.replicate (roleGroups w) (i, w)).flatten

/-- Where a team goes on a core: slot, register run (in 16s) and tile run of each group, and the scratchpad page. -/
structure Place where
  slots : List Nat := []
  regs : List Nat := []
  accs : List Nat := []
  page : Nat := 0

/-- Runs of the given lengths placed one after another, each at the lowest free unit. -/
def placeRuns (limit : Nat) : Runs' → List Nat → Option (List Nat)
  | _, [] => some []
  | used, n :: l => match firstFit used n limit with
    | none => none
    | some a => (placeRuns limit ((a, n) :: used) l).map (a :: ·)

/-- Scratchpad pages of 4 KiB that a core has (R95). -/
def Core.pages (k : Core) : Nat := (16 - k.l1ways) * 16

/-- The storage in use on a core. -/
def Core.usedRegs (k : Core) : Runs' := k.groups.map fun e => (e.2.regBase / 16, e.2.regN / 16)
def Core.usedAcc (k : Core) : Runs' := k.groups.map fun e => (e.2.accBase, e.2.accN)

/-- The teams with storage on a core. -/
def Core.teamsOn (k : Core) : List Nat := (k.groups.map fun e => e.2.team).eraseDups

def State.usedPages (s : State) (c : Nat) : Runs' :=
  (s.core c).teamsOn.map fun t => ((s.team t).scratchBase / 4096, (s.team t).lrec.scratch)

/-- The place of a team with record `r` on a core, `gone` being teams that are taken as having left. -/
def State.placeWithout (s : State) (c : Nat) (r : LaunchRec) (gone : List Nat) : Option Place :=
  let k := s.core c
  let k' := { k with groups := k.groups.filter fun e => !gone.contains e.2.team }
  let g := r.groupRoles
  let slots := ((List.range 32).filter fun i => (aget k'.groups i).isNone).take g.length
  if slots.length < g.length ∨ 8 ≤ k'.teamsOn.length then none
  else
    match placeRuns 512 k'.usedRegs (g.map fun e => roleRegs e.2), placeRuns 128 k'.usedAcc (g.map fun e => roleAcc e.2),
      firstFit (k'.teamsOn.map fun t => ((s.team t).scratchBase / 4096, (s.team t).lrec.scratch)) r.scratch k.pages with
    | some a, some b, some p => some { slots := slots, regs := a, accs := b, page := p }
    | _, _, _ => none

def State.place? (s : State) (c : Nat) (r : LaunchRec) : Option Place := s.placeWithout c r []

/-- The first field, among `SCRATCH`, `REGBLK`, `ACC` and `GROUPS`, whose need of `n` teams an empty core cannot meet (R281, R364). -/
def LaunchRec.tooBig (r : LaunchRec) (k : Core) (n : Nat) : Option Nat :=
  let g := r.groupRoles
  let i := 32 * (g.head?.map Prod.fst).getD 0
  let sum (f : Word → Nat) : Nat := (g.map fun e => f e.2).foldl (· + ·) 0
  if k.pages < n * r.scratch then some 384
  else if 512 < n * sum roleRegs then some (262 + i)
  else if 128 < n * sum roleAcc then some (267 + i)
  else if 32 < n * g.length ∨ 8 < n then some (256 + i)
  else none

/-! ### Storage taken and released -/

/-- A group of a new team (R35), not yet running. -/
def LaunchRec.newGroup (_r : LaunchRec) (team gid : Nat) (role : Nat × Word) (reg acc : Nat) : Group :=
  { team := team, gid := gid, role := role.1, regBase := reg * 16, regN := roleRegs role.2 * 16, accBase := acc, accN := roleAcc role.2, poolN := rolePool role.2, comm := role.2.getLsbD 28, power := role.2.getLsbD 27 }

/-- Registers and tiles of a group at their start values (R35). -/
def Core.clearGroup (k : Core) (x : Group) : Core :=
  { k with mrf := k.mrf.filter fun e => decide (e.1 < x.regBase) || decide (x.regBase + x.regN ≤ e.1), acc := k.acc.filter fun e => decide (e.1 < x.accBase) || decide (x.accBase + x.accN ≤ e.1) }

/-- The scratchpad range reads as zero (R35). -/
def Core.clearScratch (k : Core) (base n : Nat) : Core :=
  { k with scratch := k.scratch.filter fun e => decide (e.1 < base) || decide (base + n ≤ e.1) }

/-- A team's storage is taken on a core: its groups stand there without splits. -/
def State.takePlace (s : State) (c t : Nat) (p : Place) : State :=
  let r := (s.team t).lrec
  let gs := (r.groupRoles.mapIdx fun i role => (p.slots.getD i 0, r.newGroup t i role (p.regs.getD i 0) (p.accs.getD i 0)))
  let s := gs.foldl (fun s e => s.modCore c fun k => { k.clearGroup e.2 with groups := aput k.groups e.1 e.2 }) s
  (s.modCore c fun k => k.clearScratch (p.page * 4096) (r.scratch * 4096)).modTeam t fun x => { x with core := c, scratchBase := p.page * 4096 }

/-- The start of a group's first split (R35). -/
def State.startGroup (s : State) (c slot : Nat) (r : LaunchRec) : State :=
  let x := s.group c slot
  let s := (r.args.mapIdx fun i w => (i, w)).foldl (fun s e => s.modCore c fun k => k.setReg (x.regBase + e.1) { val := .uniform e.2, tag := 8 }) s
  s.modGroup c slot fun x => { x with splits := [(0, { pc := r.entry, active := fullMask, ctlSince := s.cycleOf c, laneSince := s.cycleOf c })] }

/-- A team whose storage is taken starts (R35), ordered behind what launched it (R173), and takes what was held for it (R303, R379). -/
def State.startTeam (s : State) (t : Nat) : State :=
  let x := s.team t
  let c := x.core
  let s := ((s.core c).groups.filter fun e => decide (e.2.team = t)).foldl (fun s e => s.startGroup c e.1 x.lrec) s
  let s := (s.acquire c 1 0 0xFFFFFFFF).modTeam t fun x => { x with stage := .resident, idem := x.lrec.idem, admitted := s.now, codebooks := [], request := none, held := [] }
  x.held.foldl (fun s h => s.applyHeld t h) s

/-- A team's groups leave their core, and with them its registers, tiles and scratchpad (R44). -/
def State.dropPlace (s : State) (t : Nat) : State :=
  let x := s.team t
  s.modCore x.core fun k =>
    let gs := k.groups.filter fun e => decide (e.2.team = t)
    let k := gs.foldl (fun k e => k.clearGroup e.2) k
    { k.clearScratch x.scratchBase (x.lrec.scratch * 4096) with groups := k.groups.filter fun e => decide (e.2.team ≠ t), held := k.held.filter fun o => decide (o.team ≠ t) }

/-! ### The end of groups and teams (R44, R284) -/

/-- A team has ended: it counts in its record, and with the record's last team the distributor posts the completion event (R284); the end of one that another wafer launched is told to that wafer. -/
def State.countEnd (s : State) (t : Nat) (lost fault : Bool) : State :=
  let s := s.discardHeld t
  let x := s.team t
  let s := s.setTeam t { x with stage := .ended, saved := none, held := [], request := none }
  let s : State := match x.origin with
    | some w => { s with endsOut := (w, x.lrec.grid, x.lin, lost, fault) :: s.endsOut }
    | none => s
  match aget s.launches x.launch with
  | none => s
  | some l =>
    let l := { l with left := l.left - 1, lost := if lost then l.lost + 1 else l.lost, faulted := if fault then l.faulted + 1 else l.faulted }
    if l.left ≠ 0 then { s with launches := aput s.launches x.launch l }
    else
      ({ s with launches := adel s.launches x.launch } : State).event l.lrec.part l.ret 0xFF 0x0001 0
        (bytesLE 4 l.lrec.grid.toNat ++ bytesLE 4 l.lrec.base ++ bytesLE 4 l.lrec.count ++ bytesLE 4 l.lost ++ bytesLE 4 l.faulted ++ bytesLE 8 (s.refCount l.ret).toNat)

/-- The forwarding entry of a team goes (R283). -/
def State.unforward (s : State) (t : Nat) : State :=
  s.modCore (s.team t).home fun k => { k with forwards := k.forwards.filter fun e => decide (e.1 ≠ t) }

/-- GROUP_END (R44, R236): the group of the step has ended; its storage stays until its team ends. -/
def execGroupEnd (s : State) : Host.Outcome State Fault Refusal :=
  let c := s.cur.core
  match s.group? c s.cur.slot with
  | none => .next s
  | some x =>
    if x.done && !x.finished && x.pending.isEmpty && x.fences.isEmpty && ((s.core c).opsOf s.cur.slot).isEmpty then
      .next ((s.modGroup c s.cur.slot fun g => { g with finished := true }).memberEnded c x.team x.gid)
    else .next s

/-! ### The distributor (R276) -/

/-- A launch queue by priority. -/
def Reticle.lq (r : Reticle) (p : Nat) : Ring := match p with
  | 0 => r.lq0
  | 1 => r.lq1
  | 2 => r.lq2
  | _ => r.lq3

def Reticle.setLq (r : Reticle) (p : Nat) (q : Ring) : Reticle := match p with
  | 0 => { r with lq0 := q }
  | 1 => { r with lq1 := q }
  | 2 => { r with lq2 := q }
  | _ => { r with lq3 := q }

/-- The non-empty enabled queue of highest priority. -/
def Reticle.topQueue (r : Reticle) : Option Nat := [3, 2, 1, 0].find? fun p => (r.lq p).on && decide ((r.lq p).count ≠ 0)

/-- A launch-refused event (R284): `team` is 0xFFFFFFFF for a whole record. -/
def State.refuse (s : State) (ret : Nat) (r : LaunchRec) (part field team : Nat) : State :=
  s.event part ret 0xFF 0x0002 2 (bytesLE 4 r.grid.toNat ++ bytesLE 4 field ++ bytesLE 4 team)

/-- The virtual address of the manifest of a binary (R393). -/
def manifestAt (lbase : Dword) : Nat := (lbase - 80).toNat

/-- The four parts in which the manifest is fetched. -/
def manifestParts (lbase : Dword) : List Nat := [0, 16, 32, 48].map (manifestAt lbase + ·)

/-- The fetch of the manifest waits for its home (R103). -/
def State.manifestWaits (s : State) (ret : Nat) (lbase : Dword) : Bool := (manifestParts lbase).any fun a => s.unitFetchWaits ret a 16

/-- What the fetch of the manifest does besides giving its bits: the home slices serve it, and an error response is logged (R92, R98, R102). -/
def State.readManifest (s : State) (ret : Nat) (lbase : Dword) : State := (manifestParts lbase).foldl (fun s a => s.useUnitFetch ret a 16) s

/-- The manifest's bits (R393), read as an instruction fetch in parts, or none where it cannot be fetched. -/
def State.manifest (s : State) (ret : Nat) (lbase : Dword) : Option Nat :=
  let a := manifestAt lbase
  let f (va : Nat) : Option Nat := match s.fetchAt (s.walk ret va) none ret va 16 with
    | .ok v => some v
    | .error _ => none
  match f a, f (a + 16), f (a + 32), f (a + 48) with
  | some w, some x, some y, some z => some (w + x * 2 ^ 128 + y * 2 ^ 256 + z * 2 ^ 384)
  | _, _, _, _ => none

/-- The enabled cores of a reticle. -/
def State.coresOf (s : State) (ret : Nat) : List Nat := ((List.range 72).map (ret * 72 + ·)).filter s.enabled

/-- A reticle record of the defect map (R394). -/
def DefectRec.bytes (d : DefectRec) : List Byte :=
  bytesLE 1 (if d.live then 1 else 0) ++ bytesLE 1 d.boundaries.toNat ++ bytesLE 1 d.ports.toNat ++ bytesLE 1 (if d.regulator then 1 else 0)
  ++ bytesLE 9 d.failed.toNat ++ bytesLE 9 d.enabled.toNat ++ bytesLE 18 d.points.toNat ++ bytesLE 10 d.slices.toNat ++ bytesLE 14 0

/-- The defect map's header (R394). -/
def State.mapHeader (s : State) : List Byte := bytesLE 1 1 ++ bytesLE 1 s.grade ++ bytesLE 2 s.wafer ++ bytesLE 12 0

/-- The defect map of the wafer (R394). -/
def State.defectMap (s : State) : List Byte := s.mapHeader ++ retList.flatMap fun r => (s.ret r).defect.bytes

/-- The wafer set of a partition, ascending (R294). -/
def State.wafersOf (s : State) (part : Nat) : List Nat :=
  match (s.partRets part).head?.bind fun r => (s.ret r).part with
  | some p => p.wafers
  | none => [s.wafer]

/-- The defect map of a partition (R393, R394): those of its wafers in turn, each cut to the rectangle; what the other wafers' hold is not this module's (log 1). -/
def State.partMap (s : State) (part : Nat) : List Byte :=
  (s.wafersOf part).flatMap fun w =>
    if w = s.wafer then s.mapHeader ++ (s.partRets part).flatMap fun r => (s.ret r).defect.bytes
    else Config.partMap w part

/-- A live reticle as the manifest's checks see it: its enabled sites, and the fastest operating point of each cluster (R394). -/
structure RetGrade where
  sites : List Nat := []
  points : Nat := 0

/-- The live reticles of a cut defect map of `n` records (R394). -/
def mapGrades (m : List Byte) (n : Nat) : List RetGrade :=
  (List.range n).filterMap fun i =>
    let b := (m.drop (16 + 64 * i)).take 64
    if b.getD 0 0 = 0 then none else some { sites := (List.range 72).filter fun k => bitOf (fieldLE b 13 9) k, points := fieldLE b 22 18 }

/-- The live reticles of a partition, on every wafer of its set (R393). -/
def State.grades (s : State) (part : Nat) : List RetGrade :=
  (s.wafersOf part).flatMap fun w =>
    if w = s.wafer then ((s.partRets part).filter fun r => (s.ret r).live).map fun r => { sites := (s.coresOf r).map siteOf, points := (s.ret r).defect.points.toNat }
    else mapGrades (Config.partMap w part) (s.partRets part).length

/-- The field of the manifest that refuses a record, in the order of R395. -/
def State.manifestField (s : State) (part m : Nat) : Option Nat :=
  let rs := s.grades part
  let clk := bitsOf m 275 272
  if bitsOf m 511 292 ≠ 0 then some (1024 + 292)
  else if bitsOf m 287 281 ≠ 0 then some (1024 + 281)
  else if bitsOf m 279 276 ≠ 0 then some (1024 + 276)
  else if bitsOf m 291 288 ≠ 1 then some (1024 + 288)
  else if rs.length < bitsOf m 271 264 then some (1024 + 264)
  else if rs.any fun r => decide (r.sites.length < bitsOf m 263 256) then some (1024 + 256)
  else if rs.any fun r => r.sites.any fun c => decide (clk < bitsOf r.points (4 * (c / 2) + 3) (4 * (c / 2))) then some (1024 + 272)
  else if bitOf m 280 && decide (m % 2 ^ 256 ≠ natLE (sha256 (s.partMap part))) then some 1024
  else none

/-- What refuses a record before its manifest is read (R34, R276), in order, or the homes of its teams: linear id, wafer and core. -/
def State.fieldsOf (s : State) (ret n : Nat) : Except Nat (List (Nat × Nat × Nat)) :=
  let r := LaunchRec.ofNat n
  let lins := (List.range r.count).map (r.base + ·)
  match badField n with
  | some f => .error f
  | none =>
    if s.partOf ret ≠ r.part then .error 400
    else
      let homes := lins.filterMap fun i => (s.ownerPlace r.part (r.key i)).map fun c => (i, c)
      if homes.length < lins.length then .error 400
      else if r.cls = 0 && (decide (r.base ≠ 0) || decide (r.count ≠ r.nx * r.ny * r.nz)) then .error 160
      else .ok homes

/-- A home core as its team entries find it: one of another wafer with the ways that its module gives it (log 1). -/
def State.homeCore (s : State) (p : Nat × Nat) : Core := if p.1 = s.wafer then s.core p.2 else { l1ways := 4 + Config.partWays p.1 p.2 % 13 }

/-- What refuses a record (R276, R281, R395), in order, or the homes of its teams. -/
def State.checkRecord (s : State) (ret n : Nat) : Except Nat (List (Nat × Nat × Nat)) :=
  let r := LaunchRec.ofNat n
  match s.fieldsOf ret n with
  | .error f => .error f
  | .ok homes =>
    match s.manifest ret r.lbase with
    | none => .error 64
    | some m =>
      match s.manifestField r.part m with
      | some f => .error f
      | none =>
        if r.cls = 0 && (homes.map Prod.snd).eraseDups.any (fun p => (r.tooBig (s.homeCore p) (homes.filter fun e => decide (e.2 = p)).length).isSome) then .error 393
        else .ok homes

/-- The record is checked as far as its manifest, which is then fetched (R395). -/
def State.readsManifest (s : State) (ret n : Nat) : Bool := match s.fieldsOf ret n with
  | .ok _ => true
  | .error _ => false

/-- The record leaves its queue. -/
def State.popRecord (s : State) (ret p : Nat) : State :=
  s.modRet ret fun x => { x.setLq p { x.lq p with head := (x.lq p).head + 1 } with serving := none, unsent := [] }

/-- The entries that a cluster scheduler holds or that are on their way to it (R276). -/
def State.entriesAt (s : State) (ret k : Nat) : Nat :=
  (s.teams.filter fun e => decide (e.2.stage = .entry) && decide (retOf e.2.core = ret) && decide (clusterOf e.2.core = k)).length

/-- New teams of an accepted record, one for each home, by wafer and core. -/
def State.newTeams (s : State) (launch : Nat) (r : LaunchRec) : List (Nat × Nat × Nat) → State × List Nat
  | [] => (s, [])
  | (lin, w, home) :: l =>
    let t := s.nextId
    let s := { s with nextId := t + 1, teams := aput s.teams t { lrec := r, lin := lin, launch := launch, stage := if w = s.wafer then .held else .away, home := home, core := home, arrived := t } }
    let q := s.newTeams launch r l
    (q.1, t :: q.2)

/-- The entry of a team whose home core lies on another wafer leaves for it (R276). -/
def State.sendAway (s : State) (t : Nat) : State :=
  let x := s.team t
  match s.ownerPlace x.lrec.part (x.lrec.key x.lin) with
  | some (w, _) => { s with entriesOut := (w, x.lin, x.lrec.bytes) :: s.entriesOut }
  | none => s

/-- The next entry of the record being served goes to its home core's cluster scheduler, if that has room (R276). None goes for a team that a command has ended meanwhile. -/
def State.sendEntry (s : State) (ret p : Nat) : State :=
  match (s.ret ret).unsent with
  | [] => s.popRecord ret p
  | t :: l =>
    let h := (s.team t).home
    let sent := s.modRet ret fun x => { x with unsent := l }
    let s := match (s.team t).stage with
      | .away => sent.sendAway t
      | .held =>
        if 64 ≤ s.entriesAt (retOf h) (clusterOf h) then s
        else (sent.modTeam t fun x => { x with stage := .entry }).post { ret := retOf h, idx := clusterOf h, team := t } (.teamEntry (retOf h) (.own t))
      | _ => sent
    if (s.ret ret).unsent.isEmpty then s.popRecord ret p else s

/-- The distributor's next record, which is skipped where it takes an error response (R375), or the next entry of the one it serves. -/
def State.distribute (s : State) (ret : Nat) : State :=
  match (s.ret ret).serving with
  | some p => s.sendEntry ret p
  | none =>
    match (s.ret ret).topQueue with
    | none => s
    | some p =>
      let q := (s.ret ret).lq p
      let a := q.slot 128 q.head
      let x := s.unitReads ret a 128
      match x.1 with
      | none => x.2.popRecord ret p
      | some b =>
        let n := natLE b
        let r := LaunchRec.ofNat n
        let s := if x.2.readsManifest ret n then x.2.readManifest ret r.lbase else x.2
        match x.2.checkRecord ret n with
        | .error f => (s.popRecord ret p).refuse ret r (s.partOf ret) f 0xFFFFFFFF
        | .ok homes =>
          let key := s.nextId
          let s := { s with nextId := key + 1, launches := aput s.launches key { lrec := r, ret := ret, left := homes.length } }
          let x := s.newTeams key r homes
          (x.1.modRet ret fun y => { y with serving := some p, unsent := x.2 })

/-- The record at a place in a reticle's DRAM, and what its checks fetch, can be had now (R103, R326). -/
def State.recordHad (s : State) (ret a : Nat) : Bool :=
  let n := natLE (readN (s.seenByte none) a 128)
  !s.homeWaits ret a && !(s.readsManifest ret n && s.manifestWaits ret (LaunchRec.ofNat n).lbase)

/-- The distributor of a reticle has something to do. -/
def State.distributes (s : State) (ret : Nat) : Bool :=
  match (s.ret ret).serving with
  | some _ => match (s.ret ret).unsent with
    | [] => true
    | t :: _ => decide ((s.team t).stage ≠ .held) || decide (s.entriesAt (retOf (s.team t).home) (clusterOf (s.team t).home) < 64)
  | none => (s.ret ret).answers && (match (s.ret ret).topQueue with
    | some p => s.recordHad ret (((s.ret ret).lq p).slot 128 ((s.ret ret).lq p).head)
    | none => false)

/-- LAUNCH_RECORD_READ (R276): the distributor of the step's reticle reads and checks a record, or sends an entry of the one it serves. -/
def execLaunchRecordRead (s : State) : Host.Outcome State Fault Refusal := .next (s.distribute s.cur.ret)

/-- An entry reaches its cluster scheduler; a team that an empty core could not hold is refused and counts as ended by fault (R364). One that has been sent on meanwhile, since its home has lost its supply, does not arrive there (R388). -/
def State.enterTeam (s : State) (ret team : Nat) : State :=
  let x := s.team team
  if x.stage ≠ .entry ∨ retOf x.home ≠ ret ∨ !(s.ret ret).answers ∨ (s.cluster ret (clusterOf x.home)).entries.contains team then s
  else match x.lrec.tooBig (s.core x.home) 1 with
    | some f => (s.refuse ret x.lrec x.lrec.part f x.lin).countEnd team false true
    | none => s.modCluster ret (clusterOf x.home) fun k => { k with entries := k.entries ++ [team] }

/-- The teams here of a grid that another wafer's distributor launched. -/
def State.farTeams (s : State) (w : Nat) (r : LaunchRec) : List (Nat × Team) :=
  s.teams.filter fun e => decide (e.2.origin = some w) && decide (e.2.lrec.grid = r.grid) && decide (e.2.lrec.part = r.part) && decide (e.2.stage ≠ .ended)

/-- An entry that another wafer's distributor sent becomes a team of this one, once its cluster scheduler has room (R276). -/
def State.farEntry (s : State) (ret w lin : Nat) (r : LaunchRec) : State :=
  match s.owner r.part (r.key lin) with
  | none => s
  | some h =>
    if 64 ≤ s.entriesAt (retOf h) (clusterOf h) then s.post s.cur (.teamEntry ret (.far w lin r.bytes))
    else
      let t := s.nextId
      let launch := ((s.farTeams w r).head?.map fun e => e.2.launch).getD (t + 1)
      let s := { s with nextId := t + 2, teams := aput s.teams t { lrec := r, lin := lin, launch := launch, stage := .entry, home := h, core := h, arrived := t, origin := some w } }
      s.enterTeam (retOf h) t

/-- TEAM_ENTRY (R276, R364): an entry reaches its cluster scheduler: of a team that was launched on this wafer, or, an input, one that another wafer's distributor sent to reticle `ret` (log 1). -/
def execTeamEntry (ret : Nat) (e : EntryMsg) (s : State) : Host.Outcome State Fault Refusal :=
  match e with
  | .own t => .next (s.enterTeam ret t)
  | .far w lin rec => .next (s.farEntry ret w lin (LaunchRec.ofNat (natLE rec)))

/-! ### `spawn` (R172, R173) -/

/-- The record bytes that `spawn` reads for the issuing core. -/
def State.spawnRecord (s : State) (va : Nat) : Except Flt (List Nat × Bool) :=
  match s.span s.cur.core va 128 .load with
  | .error f => .error { f with field := 2 }
  | .ok r => .ok r

/-- The status of `spawn` (R172): a queue is full with 2^`LOG2N` records, whether or not the distributor reads it; one that its `LOG2N` disables holds none (R275, log 30). -/
def State.spawnStatus (s : State) (ret : Nat) (r : LaunchRec) : Nat :=
  let own := s.partOf (retOf s.cur.core)
  let q := (s.ret ret).lq r.prio
  if !(s.ret ret).live || decide (s.partOf ret ≠ own) then 2
  else if r.part ≠ own then 3
  else if decide (q.log2n < 4) || decide (15 < q.log2n) || decide (2 ^ q.log2n ≤ q.count) then 1
  else 0

/-- `spawn` (R172, R173). -/
def execSpawn (p : Bool) (d a b : BitVec 8) (x : Bool) (s : State) : Host.Outcome State Fault Refusal :=
  s.control p fun s => Try.act do
    let lo := s.src 2 a
    let hi := s.src 2 (a + 1)
    let B := s.src 3 b x
    s.needFree [d.toNat]
    s.operands [(1, d.toNat, 1), (2, a.toNat, 2), (3, b.toNat, 1)] [lo, hi, B]
    let v := B.u.toNat
    failIf s (decide (v ≠ 0xFFFFFFFF) && decide (64 ≤ v)) { code := 5, field := 3, info := v }
    let va := (mkD hi.u lo.u).toNat
    failIf s (decide (va % 128 ≠ 0)) { code := 6, field := 2, addr := va }
    s.needIssued
    s.needFences
    holdIf (s.walkWaits s.cur.core va) (.memory [va])
    match s.spawnRecord va with
    | .error f => fail s f
    | .ok m =>
      holdIf (m.1.any fun b => (s.homeWaits (retOf s.cur.core) b || (m.2 && s.roomWaits s.cur.core (b / 128))) && !(m.2 && (s.core s.cur.core).validBytes [b])) (.memory [va])
      s.needPerformed fun x => !x.scratch && x.touched.any m.1.contains
      let before := s
      let y := ((s.useTlb s.cur.core va).clearIdem).loadBytes s.cur.core m.2 m.1
      let s := if m.2 then y.2.notePages s.cur.core va m.1 else y.2
      let n := natLE y.1
      let r := LaunchRec.ofNat n
      let ret := if v = 0xFFFFFFFF then retOf s.cur.core else v
      let st := s.spawnStatus ret r
      let q := (s.ret ret).lq r.prio
      let at' := q.slot 128 q.tail
      holdIf (decide (st = 0) && before.releaseWaits 1 0 0xFFFFFFFF) (.acks 1 0 0xFFFFFFFF)
      holdIf (decide (st = 0) && before.homeWaits (retOf s.cur.core) at') (.memory [])
      let s := if st = 0 then
          ((s.release s.cur.core 1 0 0xFFFFFFFF).unitWrites ret at' y.1).modRet ret fun z => z.setLq r.prio { z.lq r.prio with tail := (z.lq r.prio).tail + 1 }
        else s
      return .done (s.ctlWrite d.toNat (uni (BitVec.ofNat 32 st) tN32))

end Sys2Proof.Machine
end

