-- ==== Sys2Proof/Machine/Gather.lean ====
section
/-! DEFINITION. Rank sets (R256), drain detection (R182, R270–R272) and grid barriers (R181, R273, R274). -/

namespace Sys2Proof.Machine

/-- COUNTn of a rank set, an absent axis counting 1. -/
def rankCount (hi : Word) (n : Nat) : Nat := max 1 (bitsOf hi.toNat (10 * n + 7) (10 * n))

/-- The stride of an axis for a grid. -/
def rankStride (hi : Word) (r : LaunchRec) (n : Nat) : Nat :=
  2 ^ bitsOf hi.toNat (10 * n + 9) (10 * n + 8) * (match n with
    | 0 => 1
    | 1 => r.nx
    | _ => r.nx * r.ny)

/-- The linear team ids of a rank set, in rank order (R256). -/
def rankSet (lo hi : Word) (r : LaunchRec) : List Nat :=
  let c0 := rankCount hi 0
  let c1 := rankCount hi 1
  (List.range (c0 * c1 * rankCount hi 2)).map fun q =>
    lo.toNat % 2 ^ 24 + q % c0 * rankStride hi r 0 + q / c0 % c1 * rankStride hi r 1 + q / (c0 * c1) * rankStride hi r 2

/-- A rank set that a team may use: reserved bits 0, inside the grid, no team twice, the issuing team among them. -/
def rankOk (lo hi : Word) (r : LaunchRec) (lin : Nat) : Bool :=
  let l := rankSet lo hi r
  decide (lo.toNat / 2 ^ 24 = 0) && decide (hi.toNat / 2 ^ 30 = 0) && l.all (fun i => decide (i < r.nx * r.ny * r.nz)) && decide (l.eraseDups.length = l.length) && l.contains lin

/-! ### Drain -/

/-- The extents of a grid as a detection keeps them. -/
def Detect.extents (d : Detect) : LaunchRec := { nx := d.nx, ny := d.ny }

/-- The teams here of the rank set of a detection; those at bypassed sites take no part (R271). -/
def State.sweepTeams (s : State) (d : Detect) : List Nat :=
  ((rankSet d.lo d.hi d.extents).filterMap fun i => s.teamOf d.grid d.part i).filter fun t => decide ((s.team t).stage ≠ .away) && !s.bypassed (s.countersAt t)

/-- The sums of a sweep over the teams of a rank set on this wafer (R271). -/
def State.sweepSums (s : State) (d : Detect) : Nat × Nat :=
  let ts := s.sweepTeams d
  (ts.foldl (fun a t => a + (s.team t).snt.toNat) 0, ts.foldl (fun a t => a + (s.team t).don.toNat) 0)

/-- A detection ends for a member: one arrival from each of its groups, and phase_check; held where the team is not resident. -/
def State.drained (s : State) (t : Nat) : State :=
  match (s.team t).drainSet with
  | none => s
  | some d =>
    let n := (s.team t).lrec.groups
    let s := s.modTeam t fun x => { x with drainSet := none }
    if s.isResident t then
      let b := s.bar t d.addr
      (s.setBar t d.addr { b with arrived := b.arrived + n }).checkBar t d.addr
    else s.modTeam t fun x => { x with held := x.held ++ [{ bar := some (d.addr, 0), arrive := n }] }

/-- The wafer and core that a team of a grid is at home on, by a detection's or a barrier's record. -/
def State.homeOf (s : State) (part lin : Nat) (r : LaunchRec) : Option (Nat × Nat) := s.ownerPlace part (r.key lin)

/-- The reticles of the cores that a sweep asks: the buses of their rows and columns carry it. -/
def State.sweepRets (s : State) (d : Detect) : List Nat := ((s.sweepTeams d).map fun t => retOf (s.countersAt t)).eraseDups

/-- The record of a team of a grid here. -/
def State.gridRec (s : State) (grid : Word) (part : Nat) : LaunchRec :=
  ((s.teams.find? fun e => decide (e.2.lrec.grid = grid) && decide (e.2.lrec.part = part)).map fun e => e.2.lrec).getD {}

/-- The other wafers that hold teams of a detection's rank set, each with a reticle there. -/
def State.sweepWafers (s : State) (d : Detect) : List (Nat × Nat) :=
  let r := s.gridRec d.grid d.part
  let l := (rankSet d.lo d.hi d.extents).filterMap fun i => (s.homeOf d.part i r).map fun p => (p.1, retOf p.2)
  (l.filter fun e => decide (e.1 ≠ s.wafer)).foldl (fun l e => if l.any fun x => decide (x.1 = e.1) then l else l ++ [e]) []

/-- A message of a detection to another wafer's endpoint (R271, R304; log 1): 0 a team has joined, 1 a sweep asks, 2 the sums of a wafer, 3 the detection has ended. -/
def State.sendSweep (s : State) (from' wafer ret kind lin : Nat) (d : Detect) (sums : Nat × Nat) : State :=
  let b := bytesLE 4 d.lo.toNat ++ bytesLE 4 d.hi.toNat ++ bytesLE 4 d.nx ++ bytesLE 4 d.ny ++ bytesLE 8 sums.1 ++ bytesLE 8 sums.2
  s.send from' { op := 9, part := d.part, key := d.grid, offset := BitVec.ofNat 64 kind, len := b.length, team := BitVec.ofNat 32 lin, dstWafer := wafer, dstRet := ret, bank := (s.ret from').bank, payload := b } 0 [] none

/-- The detection that a message names. -/
def detectOf (k : Packet) : Detect :=
  { grid := k.key, lo := wordLE k.payload, hi := wordLE (k.payload.drop 4), part := k.part, nx := fieldLE k.payload 8 4, ny := fieldLE k.payload 12 4 }

/-- Two detections of one grid over one rank set. -/
def Detect.same (d e : Detect) : Bool := decide (d.grid = e.grid) && decide (d.part = e.part) && decide (d.lo = e.lo) && decide (d.hi = e.hi)

/-- A detection runs, and a team joins it as `f` says: one that runs already, or a new one. -/
def State.openDetect (s : State) (d : Detect) (f : Detect → Detect) : State :=
  if s.detects.any d.same then { s with detects := s.detects.map fun e => if d.same e then f e else e }
  else { s with detects := s.detects ++ [f d] }

/-- A team of this wafer joins a detection. -/
def Detect.join (t : Nat) (d : Detect) : Detect := { d with members := d.members ++ [t] }

/-- A team of another wafer, by its linear id, joins a detection: where a sweep has asked already, for the next one (R272). -/
def Detect.joinAway (lin : Nat) (d : Detect) : Detect := if d.asked then { d with fresh := d.fresh ++ [lin] } else { d with away := d.away ++ [lin] }

/-- The team joins the drain detection of its rank set (R182, R271), at the wafer that holds rank 0. -/
def State.joinDrain (s : State) (t : Nat) (lo hi : Word) : State :=
  let x := s.team t
  let d : Detect := { grid := x.lrec.grid, lo := lo, hi := hi, part := x.lrec.part, nx := x.lrec.nx, ny := x.lrec.ny }
  match s.homeOf d.part (lo.toNat % 2 ^ 24) x.lrec with
  | some (w, c) => if w = s.wafer then s.openDetect d (Detect.join t) else s.sendSweep (retOf x.core) w (retOf c) 0 x.lin d (0, 0)
  | none => s.openDetect d (Detect.join t)

/-- The members of a detection here, where the wafer that holds rank 0 is another: the teams of its rank set whose groups have all issued `drain` over it. -/
def State.farMembers (s : State) (d : Detect) : List Nat :=
  ((rankSet d.lo d.hi d.extents).filterMap fun i => s.teamOf d.grid d.part i).filter fun t => match (s.team t).drainSet with
    | some j => decide (j.lo = d.lo) && decide (j.hi = d.hi) && decide (j.groups.length = (s.team t).lrec.groups)
    | none => false

/-- A change to the drain of a team. -/
def State.modDrain (s : State) (t : Nat) (f : DrainJoin → DrainJoin) : State := s.modTeam t fun x => { x with drainSet := x.drainSet.map f }

/-- The members here that a sweep of the wafer that holds rank 0 has read (R272). -/
def State.sweptMembers (s : State) (d : Detect) : List Nat := (s.farMembers d).filter fun t => (s.team t).drainSet.any DrainJoin.swept

/-- A message of a detection arrives: what a sweep has read is marked, and the end of the detection is that of the members so marked (R272). -/
def State.sweepMessage (s : State) (k : Packet) : State :=
  let d := detectOf k
  match k.offset.toNat with
  | 0 => s.openDetect d (Detect.joinAway k.team.toNat)
  | 1 => ((s.farMembers d).foldl (fun s t => s.modDrain t fun j => { j with swept := true }) s).sendSweep k.dstRet k.srcWafer k.srcRet 2 0 d (s.sweepSums d)
  | 2 => { s with detects := s.detects.map fun e => if d.same e ∧ e.asked then { e with answers := (k.srcWafer, fieldLE k.payload 16 8, fieldLE k.payload 24 8) :: e.answers.filter fun a => decide (a.1 ≠ k.srcWafer) } else e }
  | _ => (s.sweptMembers d).foldl State.drained s

/-- A packet of the endpoints themselves (R304): a duplicate is acknowledged and dropped, one of another partition refused. -/
def State.message (s : State) (k : Packet) (f : State → State) : State :=
  if s.seen k then s.ack k
  else if s.refused k then s
  else if k.part ≠ s.partOf k.dstRet then (s.refuseNew k 3).firewall k
  else if !(s.ret k.dstRet).answers then s.refuseNew k 6
  else f ((s.markSeen k).ack k)

/-- The sweep of a detection may run: the buses that it needs work (R384), and the wafers that it has asked have answered. -/
def State.maySweep (s : State) (d : Detect) : Bool :=
  s.busesOk d.part (s.sweepRets d) && (!d.asked || decide ((s.sweepWafers d).length ≤ d.answers.length))

/-- One sweep of detection `i`; it ends when two sweeps agree and sent equals done. Over several wafers a sweep first asks the others (R271). -/
def State.sweep (s : State) (i : Nat) (d : Detect) : State :=
  let far := s.sweepWafers d
  if !s.maySweep d then s
  else if !far.isEmpty && !d.asked then
    far.foldl (fun s e => s.sendSweep ((s.sweepRets d).headD 0) e.1 e.2 1 0 d (0, 0)) { s with detects := setAt s.detects i { d with asked := true, answers := [] } }
  else
    let own := s.sweepSums d
    let n := d.answers.foldl (fun a e => (a.1 + e.2.1, a.2 + e.2.2)) own
    if d.last = some n ∧ n.1 = n.2 then
      let s := far.foldl (fun s e => s.sendSweep ((s.sweepRets d).headD 0) e.1 e.2 3 0 d n)
        { s with detects := if d.fresh.isEmpty then s.detects.eraseIdx i else setAt s.detects i { d with members := [], away := d.fresh, fresh := [], last := none, asked := false, answers := [] } }
      d.members.foldl State.drained s
    else { s with detects := setAt s.detects i { d with away := d.away ++ d.fresh, fresh := [], last := some n, asked := false, answers := [] } }

/-- A sweep that another wafer asks for crosses buses here that do not work (R384). -/
def State.sweepWaits (s : State) (k : Packet) : Bool :=
  let d := detectOf k
  decide (k.offset.toNat = 1) && !s.seen k && !s.busesOk d.part (s.sweepRets d)

/-- DRAIN_SWEEP (R271): one sweep of the detection of the step's index, or a message of a detection over several wafers; a sweep whose buses here have stopped does not take place (R384). -/
def execDrainSweep (s : State) : Host.Outcome State Fault Refusal :=
  .next (match s.cur.pkt with
    | some k => if s.sweepWaits k then s else s.message k fun s => s.sweepMessage k
    | none => match s.detects[s.cur.idx]? with
      | none => s
      | some d => s.sweep s.cur.idx d)

/-- The sweeps that may run, by the place of their detection. -/
def State.sweeps (s : State) : List Nat :=
  (List.range s.detects.length).filter fun i => match s.detects[i]? with
    | some d => s.maySweep d
    | none => false

/-- `drain` (R182, R271): the team joins once its last group has issued it. R256 has a bad rank set end a job, and `drain` has none: the model checks nothing, takes the teams of the set that are there, and joins the issuing team whether the set names it or not (log 101, a choice of the model). -/
def execDrain (p : Bool) (a b : BitVec 8) (s : State) : Host.Outcome State Fault Refusal :=
  s.control p fun s => Try.act do
    let A := s.src 2 a
    s.operands [(2, a.toNat, 1), (3, b.toNat, 2)] (A :: s.srcPair 3 b)
    s.barAt A.u
    let lo := (s.src 3 b).u
    let hi := (s.src 3 (b + 1)).u
    let addr := A.u.toNat
    let t := s.here.team
    let gid := s.here.gid
    let n := s.myTeam.lrec.groups
    let d := s.myTeam.drainSet.getD { addr := addr, lo := lo, hi := hi, groups := [] }
    failIf s (d.groups.contains gid || decide (n ≤ d.groups.length)) { code := 15, field := 2, addr := addr, info := 5 }
    failIf s (decide (d.addr ≠ addr) || decide (d.lo ≠ lo) || decide (d.hi ≠ hi)) { code := 15, field := 2, addr := addr, info := 4 }
    s.needIssued
    s.needFences
    let s := s.modMyTeam fun x => { x with drainSet := some { d with groups := d.groups ++ [gid] } }
    return .done (if d.groups.length + 1 = n then s.joinDrain t lo hi else s)

/-! ### Grid barriers -/

/-- The teams of a grid. -/
def LaunchRec.total (r : LaunchRec) : Nat := r.nx * r.ny * r.nz

/-- A grid barrier that still collects for a grid. -/
def GridBar.collects (b : GridBar) (grid : Word) (part : Nat) : Bool := decide (b.grid = grid) && decide (b.part = part) && b.release.isEmpty && decide (b.arrived.length + b.away.length < b.total)

/-- The arrivals that a grid barrier has counted. -/
def GridBar.count (b : GridBar) : Nat := b.arrived.length + b.away.length

/-- An arrival counted on the buses, in the entry of its grid: one that collects, or a new one. -/
def addArrival (l : List GridBar) (grid : Word) (part total : Nat) (f : GridBar → GridBar) : List GridBar :=
  if l.any fun b => b.collects grid part then l.map fun b => if b.collects grid part then f b else b
  else l ++ [f { grid := grid, part := part, total := total }]

/-- The reticles of the cores of the teams that have arrived. -/
def State.barRets (s : State) (b : GridBar) : List Nat := (b.arrived.map fun t => retOf (s.team t).core).eraseDups

/-- A change to the entry of a grid barrier. -/
def State.modBar (s : State) (b : GridBar) (f : GridBar → GridBar) : State := { s with gbars := s.gbars.map fun x => if x = b then f x else x }

/-- Entries that hold nothing are free. -/
def State.freeBars (s : State) : State := { s with gbars := s.gbars.filter fun b => !(b.release.isEmpty && b.arrived.isEmpty && b.away.isEmpty) }

/-- The release of a grid barrier to a team of another wafer (R273, R304). -/
def State.releaseAway (s : State) (r : Nat) (b : GridBar) (e : Nat × Nat × Nat) : State :=
  s.send r { op := 8, part := b.part, key := b.grid, team := BitVec.ofNat 32 e.2.2, dstWafer := e.1, dstRet := e.2.1, bank := (s.ret r).bank } 0 [] none

/-- The release of a complete grid barrier runs back to its teams. -/
def State.releaseBar (s : State) (b : GridBar) : State :=
  let r := (s.barRets b).headD 0
  let s := (s.modBar b fun x => { x with release := x.arrived, away := [] }).freeBars
  let s := b.arrived.foldl (fun s t => s.post { team := t, core := (s.team t).core, ret := retOf (s.team t).core } .gridBarrierRelease) s
  b.away.foldl (fun s e => s.releaseAway r b e) s

/-- The arrival of a team leaves for the wafer that holds team 0 (R273, R304). -/
def State.sendArrival (s : State) (b : GridBar) (w ret t : Nat) : State :=
  let x := s.team t
  let r := retOf x.core
  s.send r { op := 7, part := b.part, key := b.grid, len := b.total, team := BitVec.ofNat 32 x.lin, dstWafer := w, dstRet := ret, bank := (s.ret r).bank } 0 [] none

/-- What the arrivals at a grid barrier lead to, unless a bus that it needs has stopped (R384): here its release once it is complete, or the arrivals' way to the wafer that holds team 0 (R273). -/
def State.settleBar (s : State) (b : GridBar) : State :=
  if !s.busesOk b.part (s.barRets b) then s
  else match b.home with
    | some (w, ret) => (b.arrived.filter fun t => !b.sent.contains t).foldl (fun s t => s.sendArrival b w ret t) (s.modBar b fun x => { x with sent := x.arrived })
    | none => if b.release.isEmpty && decide (b.total ≤ b.count) then s.releaseBar b else s

/-- What the arrivals at the grid barriers on the buses lead to. -/
def State.releaseGrid (s : State) : State := s.gbars.foldl State.settleBar s

/-- A partition's buses have an entry for the arrival of a grid: 16 at once (R273). -/
def State.barRoom (s : State) (grid : Word) (part : Nat) : Bool :=
  s.gbars.any (fun b => b.collects grid part) || decide ((s.gbars.filter fun b => decide (b.part = part)).length < 16)

/-- The arrival of a team here: counted on the buses, and, where another wafer holds team 0, sent on from there. A bypassed site contributes nothing (R22). -/
def State.arriveGrid (s : State) (t : Nat) : State :=
  let x := s.team t
  let r := x.lrec
  match s.homeOf r.part 0 r with
  | some (w, c) =>
    if s.bypassed x.core then s
    else if s.barRoom r.grid r.part then
      ({ s with gbars := addArrival s.gbars r.grid r.part r.total fun b => { b with arrived := b.arrived ++ [t], home := if w = s.wafer then none else some (w, retOf c) } } : State).releaseGrid
    else s.post s.cur .gridBarrierArrival
  | none => s

/-- GRID_BARRIER_ARRIVAL (R273): the arrival of the step's team, or of one of another wafer; it waits while the partition's 16 entries are taken. -/
def execGridBarrierArrival (s : State) : Host.Outcome State Fault Refusal :=
  .next (match s.cur.pkt with
    | some k =>
      if !s.seen k && !s.barRoom k.key k.part then s.post s.cur .gridBarrierArrival
      else s.message k fun s => ({ s with gbars := addArrival s.gbars k.key k.part k.len fun b => { b with away := b.away ++ [(k.srcWafer, k.srcRet, k.team.toNat)] } } : State).releaseGrid
    | none => if (s.team? s.cur.team).isSome then s.arriveGrid s.cur.team else s)

/-- The release reaches a team: the phase update at its barrier, and done (R180, R270, R273); held for a team that is not resident. -/
def State.gridReleased (s : State) (t : Nat) : State :=
  match (s.team t).gbar with
  | none => s
  | some a =>
    let s := s.modTeam t fun x => { x with don := x.don + 1 }
    if s.isResident t then (s.modTeam t fun x => { x with gbar := none, gbarSent := false }).advanceBar t a
    else s.modTeam t fun x => { x with held := x.held ++ [{ bar := some (a, 0), release := true }] }

/-- The release that another wafer sends runs back over the buses to a team here, unless they have stopped (R273, R384); it leaves the entry that its arrival took. -/
def State.releaseHere (s : State) (k : Packet) (t : Nat) : State :=
  if !s.busesOk k.part [retOf (s.team t).core] then s
  else
    let mine (b : GridBar) : Bool := b.home.isSome && decide (b.grid = k.key) && decide (b.part = k.part)
    (({ s with gbars := s.gbars.map fun b => if mine b then { b with arrived := b.arrived.erase t, sent := b.sent.erase t } else b } : State).freeBars).gridReleased t

/-- GRID_BARRIER_RELEASE (R273) at the step's team, the last one of which frees the entry, or at one that another wafer releases. -/
def execGridBarrierRelease (s : State) : Host.Outcome State Fault Refusal :=
  .next (match s.cur.pkt with
    | some k => s.message k fun s => match s.teamOf k.key k.part k.team.toNat with
      | some t => s.releaseHere k t
      | none => s
    | none =>
      let t := s.cur.team
      (({ s with gbars := s.gbars.map fun b => if b.release.contains t then { b with release := b.release.erase t, arrived := [] } else b } : State).freeBars).gridReleased t)

end Sys2Proof.Machine
end

