-- ==== Sys2Proof/Machine/Engine.lean ====
section
/-! DEFINITION. Engine commands: descriptors, completions and job cards (R134, R245, R246, R250–R258, R403), footprints and ordering edges (R247, R262). -/

namespace Sys2Proof.Machine

/-! ### Descriptors -/

/-- The words of a descriptor, by `CMD` (R250–R258). -/
def descLen (cmd : Nat) : Nat :=
  match cmd with
  | 0 => 11
  | 1 => 9
  | 2 => 9
  | 3 => 8
  | 4 => 7
  | 5 => 9
  | 6 => 8
  | 7 => 1
  | _ => 0

/-- Word `i` of a descriptor. -/
def word (w : List Word) (i : Nat) : Nat := (w.getD i 0).toNat

/-- A 64-bit value in words `i` and `i + 1`. -/
def dword (w : List Word) (i : Nat) : Nat := word w i + word w (i + 1) * 2 ^ 32

/-- An address of a descriptor: a scratchpad offset in one word, or a virtual address in two. -/
def place1 (w : List Word) (i : Nat) (scratch : Bool) : Nat := if scratch then word w i else dword w i

/-- A target of R252: a team of the grid, this wafer, or another. -/
def targetOk (w : Nat) : Bool := decide (w = 0xFFFFFFFF) || decide (w < 2 ^ 24) || decide (w / 2 ^ 14 = 0x30000)

/-- The first descriptor word outside its limits (R250–R254). -/
def badWord (cmd : Nat) (w : List Word) : Option Nat :=
  let out (i lo hi : Nat) : List Nat := if word w i < lo ∨ hi < word w i then [word w i] else []
  (match cmd with
  | 0 => out 4 1 (2 ^ 24) ++ out 5 1 65536 ++ out 8 1 65536
  | 1 => out 5 1 (2 ^ 20) ++ out 6 1 4096
  | 2 => out 5 1 (2 ^ 20) ++ out 6 1 4096
  | 3 => out 5 1 (2 ^ 24) ++ (if targetOk (word w 6) then [] else [word w 6])
  | 4 => out 3 1 (2 ^ 24) ++ (if targetOk (word w 6) then [] else [word w 6])
  | 5 => (if word w 1 % 4 = 0 then [] else [word w 1]) ++ (if decide (word w 5 < 256) && decide (word w 5 % 16 ≤ 7) && decide (word w 5 / 16 ≤ 3) && WF.atomOp (word w 5 % 16) (word w 5 / 16) then [] else [word w 5])
      ++ (if targetOk (word w 6) then [] else [word w 6])
  | _ => []).head?

/-! ### Collectives (R255, R403) -/

/-- A collective as its descriptor and the team's record give it: kind, reduction, type, spaces, operand, contributing groups with their working tiles, ranks, bytes per rank. -/
structure CollPlan where
  kind : Nat := 0
  red : Nat := 0
  ty : Nat := 0
  tiles : Bool := true
  dram : Bool := false
  root : Nat := 0
  first : Nat := 0
  n : Nat := 0
  groups : List (Nat × Nat) := []
  ranks : List Nat := []
  lin : Nat := 0
  p : Nat := 1
  s : Nat := 0
  addr : Nat := 0
  deriving DecidableEq, Repr

/-- The groups of a team that hold working tiles, ascending, with their number. -/
def LaunchRec.tileGroups (r : LaunchRec) : List (Nat × Nat) :=
  (r.groupRoles.mapIdx fun i e => (i, roleAcc e.2 - rolePool e.2)).filter fun e => decide (e.2 ≠ 0)

def collPlan (r : LaunchRec) (lin : Nat) (w : List Word) : CollPlan :=
  let x := word w 0
  let tiles := !bitOf x 12
  let g := r.tileGroups
  let hi := w.getD 5 0
  { kind := x % 8, red := bitsOf x 5 4, ty := bitsOf x 9 8, tiles := tiles, dram := bitOf x 13, root := bitsOf x 23 16, first := word w 1, n := word w 2, groups := if tiles then g else [], ranks := rankSet (w.getD 4 0) hi r, lin := lin
    p := rankCount hi 0 * rankCount hi 1 * rankCount hi 2
    s := if tiles then word w 2 * g.length * (if bitsOf x 9 8 = 1 then 1024 else 2048) else word w 2
    addr := dword w 6 }

/-- The bytes of a team's result (R255, R267). -/
def CollPlan.result (c : CollPlan) : Nat :=
  match c.kind with
  | 1 => c.p * c.s
  | 2 => c.s / c.p
  | _ => c.s

/-- An in-place all-gather takes the place of P operands. -/
def CollPlan.span (c : CollPlan) : Nat := if c.kind = 1 ∧ c.dram = false then c.p else 1

/-- The rank of the team. -/
def CollPlan.rank (c : CollPlan) : Nat := c.ranks.idxOf c.lin

/-- Bytes of a chunk element: bf16, f32 or f64. -/
def CollPlan.elem (c : CollPlan) : Nat := if c.ty = 1 then 2 else if c.ty = 2 then 8 else 4

/-- The value at fault of a collective's descriptor: word 0, word 3, and the size rules (R255, R403). The rules name no check of a broadcast's root against P, nor of a tile operand in a team of which no group holds working tiles: both raise the operand-range fault at issue here (log 102, a choice of the model). -/
def CollPlan.bad (c : CollPlan) (w : List Word) : Option Nat :=
  let x := word w 0
  if x / 2 ^ 24 ≠ 0 ∨ bitsOf x 15 14 ≠ 0 ∨ bitsOf x 11 10 ≠ 0 ∨ bitsOf x 7 6 ≠ 0 ∨ bitOf x 3 ∨ 4 < c.kind ∨ c.red = 3 ∨ c.ty = 3 then some x
  else if word w 3 ≠ 0 then some (word w 3)
  else if c.tiles then
    if c.n = 0 ∨ 64 < c.n ∨ c.groups = [] then some c.n
    else if c.ty = 2 ∧ (c.n % 2 = 1 ∨ c.first % 2 = 1) then some (if c.first % 2 = 1 then c.first else c.n)
    else if c.groups.any fun g => decide (g.2 < c.first + c.n * c.span) then some c.n
    else if (c.kind = 2 ∧ c.s % (128 * c.p) ≠ 0) ∨ (c.kind = 4 ∧ c.s % c.p ≠ 0) then some c.n
    else if c.kind = 3 ∧ c.p ≤ c.root then some x
    else none
  else if c.n = 0 ∨ c.n % 128 ≠ 0 then some c.n
  else if (c.kind = 2 ∧ c.s % (128 * c.p) ≠ 0) ∨ (c.kind = 4 ∧ c.s % c.p ≠ 0) then some c.n
  else if c.kind = 3 ∧ c.p ≤ c.root then some x
  else none

/-- The working tiles of the group of the step that a collective names. -/
def State.collRun (s : State) (c : CollPlan) : List Nat :=
  if c.tiles && c.groups.any fun g => decide (g.1 = s.here.gid) then
    (List.range s.here.workTiles).filter fun t => decide (c.first ≤ t) && decide (t < c.first + c.n * c.span)
  else []

/-- Those of them that do not carry its type's tag (R255). -/
def State.collTiles (s : State) (c : CollPlan) : List Nat :=
  if c.ty = 3 then [] else (s.collRun c).filter fun t => decide ((s.tile t).info.tag.toNat ≠ (if c.ty = 2 then 2 else 0))

/-! ### Footprints (R247, R262) -/

/-- An interval of bytes as a command names it: its first byte and one past its last, before it is widened. -/
structure Interval where
  space : Space := .virt
  lo : Int := 0
  hi : Int := 0

/-- `n` bytes from an address. -/
def bytesAt (sp : Space) (a n : Nat) : Interval := { space := sp, lo := a, hi := (a : Int) + n }

/-- The bytes from the lowest to the highest of a strided block. -/
def block3 (sp : Space) (a run c1 c2 : Nat) (s1 s2 : Int) : Interval :=
  let d1 := ((c1 : Int) - 1) * s1
  let d2 := ((c2 : Int) - 1) * s2
  { space := sp, lo := (a : Int) + min 0 d1 + min 0 d2, hi := (a : Int) + max 0 d1 + max 0 d2 + run }

/-- The space of an operand: the scratchpad of a team, or virtual. -/
def spaceOf (t : Nat) (scratch : Bool) : Space := if scratch then .scratch t else .virt

/-- The tiles that a group has in a collective, in the space of its team's tiles. -/
def CollPlan.tilesOf (c : CollPlan) (t gid n : Nat) : List Interval :=
  if c.groups.any fun g => decide (g.1 = gid) then [bytesAt (.tiles t) ((gid * 128 + c.first) * 2048) (n * 2048)] else []

/-- The local read and write bytes of a command, for a group of a team (R247). -/
def footprint (cmd var : Nat) (w : List Word) (t gid : Nat) (c : CollPlan) : List Interval × List Interval :=
  let b0 := bitOf var 0
  let b1 := bitOf var 1
  match cmd with
  | 0 => ([block3 (spaceOf t b0) (place1 w 0 b0) (word w 4) (word w 5) (word w 8) (signed 32 (word w 6)) (signed 32 (word w 9))],
          [block3 (spaceOf t b1) (place1 w 2 b1) (word w 4) (word w 5) (word w 8) (signed 32 (word w 7)) (signed 32 (word w 10))])
  | 1 => ([bytesAt .virt (dword w 0) (word w 2), bytesAt (spaceOf t b0) (place1 w 3 b0) (4 * word w 5)],
          [bytesAt (spaceOf t b1) (place1 w 7 b1) (word w 5 * word w 6)])
  | 2 => ([bytesAt (spaceOf t b1) (place1 w 7 b1) (word w 5 * word w 6), bytesAt (spaceOf t b0) (place1 w 3 b0) (4 * word w 5)],
          [bytesAt .virt (dword w 0) (word w 2)])
  | 3 => ([bytesAt (spaceOf t b0) (place1 w 0 b0) (word w 5)], [])
  | 4 => ([], [bytesAt (spaceOf t b0) (place1 w 4 b0) (word w 3)])
  | 5 => ([], if dword w 7 = 2 ^ 64 - 1 then [] else [bytesAt (spaceOf t b0) (place1 w 7 b0) 4])
  | 6 =>
    (if c.tiles then c.tilesOf t gid c.n else [bytesAt (.scratch t) c.first c.s],
      if c.dram then [bytesAt .virt c.addr c.result]
      else if c.tiles then c.tilesOf t gid (c.n * c.span)
      else if c.kind = 2 then [bytesAt (.scratch t) (c.first + c.rank * c.result) c.result]
      else [bytesAt (.scratch t) c.first c.result])
  | _ => ([], [])

/-- An interval widened outward to 128-byte units; none where it is empty. One that leaves its address space stands for the whole of it. -/
def Interval.widen (x : Interval) : List Range :=
  let top : Int := if x.space = .virt then 2 ^ 64 else 2 ^ 32
  if x.hi ≤ x.lo then []
  else if x.lo < 0 ∨ top < x.hi then [{ space := x.space, lo := 0, hi := top.toNat }]
  else [{ space := x.space, lo := x.lo.toNat / 128 * 128, hi := (x.hi.toNat + 127) / 128 * 128 }]

/-- More than two ranges merge into the enclosing interval of each space (R262). -/
def mergeRanges (l : List Range) : List Range :=
  if l.length ≤ 2 then l
  else ((l.map Range.space).eraseDups).map fun sp =>
    let m := l.filter fun r => decide (r.space = sp)
    { space := sp, lo := m.foldl (fun a r => min a r.lo) ((m.head?.map Range.lo).getD 0), hi := m.foldl (fun a r => max a r.hi) 0 }

/-- The ranges to which the sequencer reduces a footprint (R262). -/
def rangesOf (l : List Interval) : List Range := mergeRanges (l.flatMap Interval.widen)

/-- Two ranges share a space and a 128-byte unit. -/
def Range.meets (x y : Range) : Bool := decide (x.space = y.space) && decide (x.lo < y.hi) && decide (y.lo < x.hi)

def overlap (x y : List Range) : Bool := x.any fun a => y.any a.meets

/-- Every group of the team has issued a team-collective job. -/
def State.allIssued (s : State) (j : Job) : Bool :=
  decide (j.cmd ≠ 6 ∧ j.cmd ≠ 7) || decide ((s.team j.team).lrec.groups ≤ j.issued.length)

/-- Two jobs of a core, of which one may not start before the other has completed (R121, R258, R262). -/
def Job.clashes (j k : Job) : Bool :=
  decide (k.cmd = 8) || decide (j.cmd = 8) || overlap j.writes k.reads || overlap j.writes k.writes || overlap j.reads k.writes

/-- The jobs of a core that a job must follow among those its command finds in the queue (R258, R262). -/
def State.edges (s : State) (c : Nat) (j : Job) : List Nat :=
  ((s.core c).jobs.filter fun k => decide (k.id ≠ j.id) && j.clashes k).map Job.id

/-- A job waits for another, directly or through others: `n` steps. -/
def jobFollows (l : List Job) (a b : Nat) : Nat → Bool
  | 0 => false
  | n + 1 => match l.find? fun j => decide (j.id = a) with
    | some j => j.after.any fun i => decide (i = b) || jobFollows l i b n
    | none => false

/-- The jobs that one already in the queue must follow behind a further group's part of it: those that clash with that part and do not wait for the job themselves (R121, R255, R262). -/
def State.edgesOfPart (s : State) (c : Nat) (j part : Job) : List Nat :=
  (s.edges c part).filter fun i => decide (i ≠ j.id) && !j.after.contains i && !jobFollows (s.core c).jobs i j.id 64

/-- A footprint that clears the idempotent flag (R43). -/
def spoils (cmd size : Nat) (t : Nat) (writes : List Interval) : Bool :=
  decide (cmd = 3) || decide (cmd = 5) || decide (cmd = 6)
  || writes.any fun r => decide (r.lo < r.hi) && (decide (r.space ≠ .scratch t) || decide (r.lo < 0) || decide ((size : Int) < r.hi))

/-- An access of the group of the step is to a byte of an interval: by its address, or, through a window, in the scratchpad or a tile itself (R119). -/
def State.accessesIn (s : State) (a : Access) (x : Interval) : Bool :=
  let c := s.cur.core
  let inWindow (fa : Nat) : Bool := match s.target fa, x.space with
    | .window k off, .tiles t => decide (k = c) && (List.range 32).any fun gid => match s.slotOf t gid with
      | some g => decide (x.lo ≤ (((off : Int) - 0x200000) / 2048 - (s.group c g).accBase + gid * 128) * 2048) && decide ((((off : Int) - 0x200000) / 2048 - (s.group c g).accBase + gid * 128) * 2048 < x.hi)
      | none => false
    | .window k off, .scratch t => decide (k = c) && decide (x.lo ≤ (off : Int) - 0x100000 - (s.team t).scratchBase) && decide ((off : Int) - 0x100000 - (s.team t).scratchBase < x.hi)
    | _, _ => false
  a.lanes.any fun l => l.left.any fun i =>
    (decide (x.space = .virt) && decide (x.lo ≤ (l.va + i : Nat)) && decide (((l.va + i : Nat) : Int) < x.hi)) || inWindow (l.bytes.getD i 0)

/-! ### Issue -/

/-- The continuation word behind a command with yield completion (R134): `b`, condition 0, unmarked, not at a loop end. R134 names no record for a fault of the fetch of that word: it is raised at the command, with the command's PC (log 89, a choice of the model). -/
def State.continuation (s : State) : Try Dword :=
  let at' := s.me.pc + 4
  if s.fetchWaits s.cur.core at'.toNat 4 then .error (.hold (.memory [at'.toNat]))
  else match s.fetchControl s.cur.core at'.toNat with
  | .error f => fail s f
  | .ok w =>
    if w.toNat / 2 ^ 21 ≠ 16 ∨ s.me.atLoopEnd at' then fail s { code := 1 }
    else .ok (Sys2Proof.Machine.target at' (w.setWidth 21))

/-- A control source by its register number. -/
def State.srcAt (s : State) (field r : Nat) : Opd := { s.src field (BitVec.ofNat 8 r) with g := s.ctlReg r }

/-- Every register of a descriptor carries bits, i32 or n32 (R245). -/
def State.eachTag (s : State) : List Opd → Try Unit
  | [] => .ok ()
  | o :: l => if plainTag o.g.tag then s.eachTag l else fail s (tagFault o.field o.g)

/-- The barrier of a completion: 16-byte aligned and in the allocation (R246). -/
def State.complBar (s : State) (a : Nat) : Try Unit := do
  failIf s (decide (a % 16 ≠ 0)) { code := 6, field := 3, addr := a }
  failIf s (decide (s.scratchSize < a + 16)) { code := 7, field := 3, addr := a, info := s.scratchSize }

/-- The next token of a group: 0 is skipped (R246). -/
def Group.nextToken (x : Group) : Word := if x.token = 0xFFFFFFFF then 1 else x.token + 1

/-- The job card (R245). -/
def State.cardOf (s : State) (cmd var compl : Nat) (w : List Word) (last : Word) : List Word :=
  let c := s.cur.core
  BitVec.ofNat 32 (cmd + var * 2 ^ 4 + compl * 2 ^ 7 + s.here.gid * 2 ^ 9 + s.cur.split * 2 ^ 14 + siteOf c * 2 ^ 16 + retOf c * 2 ^ 23)
    :: ((w ++ List.replicate 12 0).take 12 ++ [last, BitVec.ofNat 32 s.myTeam.lin, s.myTeam.lrec.grid])

/-- Completions that agree (R255): the kind, and for a barrier the barrier and parity. -/
def Completion.same (x y : Completion) : Bool :=
  match x, y with
  | .token _, .token _ => true
  | .yield _, .yield _ => true
  | x, y => decide (x = y)

/-- The team-collective job that the group of the step has still to join, with its core: the first in queue order, at whichever core the team's groups have issued it. -/
def State.openJob (s : State) (cmd : Nat) : Option (Nat × Job) :=
  s.cores.findSome? fun k => (k.2.jobs.find? fun j =>
    decide (j.cmd = cmd) && decide (j.team = s.here.team) && decide (j.issued.length < s.myTeam.lrec.groups) && !j.issued.contains s.here.gid).map fun j => (k.1, j)

/-- A count of `coll` jobs issued on a rank set (R309). -/
def countColl (l : List (Dword × Nat)) (k : Dword) : Nat × List (Dword × Nat) :=
  match l.find? fun e => decide (e.1 = k) with
  | some e => (e.2, l.map fun x => if x.1 = k then (k, x.2 + 1) else x)
  | none => (0, l ++ [(k, 1)])

/-- The wafer that an `nput`, `nget` or `natom` of a team goes to, by its target word (R252). -/
def State.targetWafer (s : State) (t w : Nat) : Nat :=
  if w = 0xFFFFFFFF then s.wafer
  else if w / 2 ^ 14 = 0x30000 then w % 2 ^ 14
  else
    let r := (s.team t).lrec
    match s.ownerPlace r.part (r.key w) with
    | some p => p.1
    | none => s.wafer

/-- A job enters the sequencer's queue behind those already there (R248, R262). -/
def State.enqueueJob (s : State) (c : Nat) (j : Job) : State :=
  s.modCore c fun k => { k with jobs := k.jobs ++ [{ j with after := s.edges c j }] }

/-- A further group's part of a team-collective job joins it, where it stands in the queue (R255). -/
def State.joinJob (s : State) (c : Nat) (j part : Job) (bad : Bool) : State :=
  let more := s.edgesOfPart c j part
  s.modJob c j.id fun x =>
    { x with issued := x.issued ++ part.issued, cards := x.cards ++ part.cards, tokens := x.tokens ++ part.tokens, reads := mergeRanges (x.reads ++ part.reads), writes := mergeRanges (x.writes ++ part.writes), after := x.after ++ more, error := if bad then some { reason := 11 } else x.error }

/-- A command takes effect: a new job, or its group's part of a team-collective one. Gives the core and the id of the job. -/
def State.makeJob (s : State) (cmd var : Nat) (compl : Completion) (card w : List Word) : (Nat × Nat) × State :=
  let c := s.cur.core
  let t := s.here.team
  let gid := s.here.gid
  let team := decide (cmd = 6) || decide (cmd = 7)
  let fp := footprint cmd var w t gid (collPlan s.myTeam.lrec s.myTeam.lin w)
  let toks := match compl with
    | .token k => [(gid, k)]
    | _ => []
  let n := countColl s.myTeam.collCount (mkD (w.getD 5 0) (w.getD 4 0))
  let j : Job := { id := (s.core c).jobSeq, card := card, cmd := cmd, var := var, slot := s.cur.slot, split := s.cur.split, gid := gid, team := t, compl := compl, words := w, reads := rangesOf fp.1, writes := rangesOf fp.2, bank := (s.ret (retOf c)).bank, coll := n.1, far := decide (cmd = 3) && decide (s.targetWafer t (word w 6) ≠ s.wafer), issued := if team then [gid] else [], tokens := if team then toks else [], cards := if team then [(gid, card)] else [] }
  let s := if spoils cmd s.scratchSize t fp.2 then s.clearIdem else s
  match if team then s.openJob cmd else none with
  | some (d, k) => ((d, k.id), s.joinJob d k j (decide (k.words ≠ w) || !k.compl.same compl))
  | none =>
    let s := s.modMyTeam fun x => { x with snt := x.snt + 1, jobs := x.jobs + 1, collCount := if cmd = 6 then n.2 else x.collCount }
    ((c, j.id), (s.modCore c fun k => { k with jobSeq := j.id + 1 }).enqueueJob c j)

/-- Every engine command (R134, R245, R246, R248). Its issue is a release of its read footprint: what the group has issued on those bytes and tiles, and its accesses to the scratchpad, come before it (R113, R119). -/
def State.engine (s : State) (p : Bool) (cmd : Nat) (a b : BitVec 8) (compl : BitVec 2) (var : BitVec 3) : Host.Outcome State Fault Refusal :=
  s.control p fun s => Try.act do
    let n := descLen cmd
    let kind := compl.toNat
    let cont ← if kind = 3 then s.continuation else .ok 0
    s.needFree (if kind = 2 then [b.toNat] else [])
    let ds := (List.range n).map fun i => s.srcAt 7 (a.toNat + i)
    let B := s.src 3 b
    let bs := if kind < 2 then [B] else []
    s.rangesOk ((if n = 0 then [] else [(7, a.toNat, n)]) ++ (if kind < 3 then [(3, b.toNat, 1)] else []))
    s.shapesOk (ds ++ bs)
    s.eachTag (ds ++ bs)
    let w := ds.map Opd.u
    let plan := collPlan s.myTeam.lrec s.myTeam.lin w
    match if cmd = 6 then (s.collRun plan).find? fun t => s.tileBusy [t] else none with
    | some t => .error (.hold (.tile t))
    | none =>
    match if cmd = 6 then s.collTiles plan else [] with
    | t :: _ => fail s (s.tileFault 7 t)
    | [] =>
    match badWord cmd w with
    | some v => fail s { code := 5, field := 7, info := v }
    | none =>
    match if cmd = 6 then plan.bad w else none with
    | some v => fail s { code := 5, field := 7, info := v }
    | none =>
    failIf s (decide (kind = 2) && decide (256 ≤ s.here.tokens.length)) { code := 5, field := 3, info := s.here.tokens.length }
    if kind < 2 then s.complBar B.u.toNat
    failIf s (decide (cmd = 6) && !plan.tiles && decide (s.scratchSize < plan.first + plan.s * plan.span)) { code := 7, field := 7, addr := plan.first, info := s.scratchSize }
    s.needIssued
    s.needReleases
    holdIf (decide (64 ≤ (s.core s.cur.core).jobs.length) && !(decide (cmd = 6 ∨ cmd = 7) && (s.openJob cmd).isSome)) .engineFull
    let reads := (footprint cmd var.toNat w s.here.team s.here.gid plan).1
    s.needPerformed fun a => a.scratch || reads.any (s.accessesIn a)
    let s := if kind = 3 then s.useFetch s.cur.core (s.me.pc + 4).toNat 4 else s
    let tok := s.here.nextToken
    let last : Word := if kind < 2 then B.u ||| BitVec.ofNat 32 kind else if kind = 2 then tok else loW cont
    let how : Completion := if kind < 2 then .barrier B.u.toNat kind else if kind = 2 then .token tok else .yield cont
    let r := s.makeJob cmd var.toNat how (s.cardOf cmd var.toNat kind w last) w
    let s := r.2
    if kind = 2 then
      return .done ((s.modHere fun x => { x with token := tok, tokens := x.tokens ++ [(tok, false)] }).ctlWrite b.toNat (uni tok tN32))
    if kind = 3 then return .block s (.engine (jobTag r.1.1 r.1.2) cont (s.me.closes p))
    return .done s

/-- `cpy` (R250). -/
def execCpy (p : Bool) (a b : BitVec 8) (compl : BitVec 2) (var : BitVec 3) (s : State) : Host.Outcome State Fault Refusal := s.engine p 0 a b compl var
/-- `gth` (R251). -/
def execGth (p : Bool) (a b : BitVec 8) (compl : BitVec 2) (var : BitVec 3) (s : State) : Host.Outcome State Fault Refusal := s.engine p 1 a b compl var
/-- `sct` (R251). -/
def execSct (p : Bool) (a b : BitVec 8) (compl : BitVec 2) (var : BitVec 3) (s : State) : Host.Outcome State Fault Refusal := s.engine p 2 a b compl var
/-- `nput` (R252). -/
def execNput (p : Bool) (a b : BitVec 8) (compl : BitVec 2) (var : BitVec 3) (s : State) : Host.Outcome State Fault Refusal := s.engine p 3 a b compl var
/-- `nget` (R253). -/
def execNget (p : Bool) (a b : BitVec 8) (compl : BitVec 2) (var : BitVec 3) (s : State) : Host.Outcome State Fault Refusal := s.engine p 4 a b compl var
/-- `natom` (R254). -/
def execNatom (p : Bool) (a b : BitVec 8) (compl : BitVec 2) (var : BitVec 3) (s : State) : Host.Outcome State Fault Refusal := s.engine p 5 a b compl var
/-- `coll` (R255). -/
def execColl (p : Bool) (a b : BitVec 8) (compl : BitVec 2) (var : BitVec 3) (s : State) : Host.Outcome State Fault Refusal := s.engine p 6 a b compl var
/-- `nswap` (R257). -/
def execNswap (p : Bool) (a b : BitVec 8) (compl : BitVec 2) (var : BitVec 3) (s : State) : Host.Outcome State Fault Refusal := s.engine p 7 a b compl var
/-- `l1ways` (R258). -/
def execL1ways (p : Bool) (b : BitVec 8) (compl : BitVec 2) (var : BitVec 3) (s : State) : Host.Outcome State Fault Refusal := s.engine p 8 0 b compl var

end Sys2Proof.Machine
end

