-- ==== Sys2Proof/Machine/Save.lean ====
section
/-! DEFINITION. The save area of an evicted team (R290, R356) and what an evicted team waits for (R42, R291). -/

namespace Sys2Proof.Machine

/-- Bytes padded with zeros to a multiple of `n`. -/
def padTo (n : Nat) (l : List Byte) : List Byte := l ++ List.replicate ((n - l.length % n) % n) 0

def zeros (n : Nat) : List Byte := List.replicate n 0

/-- A loop stack, bottom first, in four entries of 24 bytes. -/
def loopBytes (l : List LoopEntry) : List Byte :=
  ((l.reverse.flatMap fun e => bytesLE 8 e.start.toNat ++ bytesLE 8 e.stop.toNat ++ bytesLE 4 e.count.toNat ++ zeros 4) ++ zeros 96).take 96

/-- Wait form, the two operands and the continuation of a blocked split (R290). -/
def Wait.bytes (w : Wait) : Nat × Word × Word × Dword :=
  match w with
  | .bar a ph => (0, a, ph, 0)
  | .batch n => (1, n, 0, 0)
  | .tok t => (2, t, 0, 0)
  | .merge _ => (3, 0, 0, 0)
  | .yld c _ => (4, 0, 0, c)
  | .engine _ c _ => (5, 0, 0, c)

/-- The card word of a job by its tag, 0 once it has ended. -/
def State.cardWord (s : State) (tag : Nat) : Nat :=
  ((s.cores.findSome? fun k => (k.2.jobs.find? fun j => decide (jobTag k.1 j.id = tag)).map fun j => (j.card.headD 0).toNat)).getD 0

/-- A split record (R290). -/
def State.splitBytes (s : State) (y : Split) : List Byte :=
  let w := match y.ctl with
    | .blocked w => w
    | _ => .yld 0 true
  let f := w.bytes
  let job := match w with
    | .engine t _ _ => (t, s.cardWord t)
    | _ => (0, 0)
  bytesLE 8 y.pc.toNat ++ bytesLE 4 y.active.toNat ++ bytesLE 4 (1 + (if y.inHandler then 2 else 0) + 4 * y.loops.length) ++ bytesLE 4 y.cmpA.toNat ++ bytesLE 4 y.cmpB.toNat
  ++ loopBytes y.loops ++ zeros 20 ++ bytesLE 4 y.cursor ++ bytesLE 4 f.1 ++ bytesLE 4 f.2.1.toNat ++ bytesLE 4 f.2.2.1.toNat ++ bytesLE 8 f.2.2.2.toNat
  ++ bytesLE 4 y.refHi.toNat ++ bytesLE 4 job.1 ++ bytesLE 4 job.2 ++ zeros 16

/-- Register data by shape (R290). -/
def RegVal.bytes (v : RegVal) : List Byte :=
  match v with
  | .uniform w => bytesLE 4 w.toNat
  | .affine b st => bytesLE 4 b.toNat ++ bytesLE 4 st.toNat
  | .general ws => ws.flatMap fun w => bytesLE 4 w.toNat

/-- The staged runs of `rgn` (R290). -/
def stagedWord (l : List (Option Nat)) : Nat :=
  ((l.mapIdx fun i r => match r with
    | some b => b / 8 * 2 ^ (5 * i) + 2 ^ (20 + i)
    | none => 0)).foldl (· + ·) 0

/-- A group section (R290): its registers and tiles in order; `PARTNER` relative to the start of the run. -/
def State.groupBytes (s : State) (x : Group) (regs : List GReg) (tiles : List Tile) : List Byte :=
  let live := (List.range 4).flatMap fun p => match aget x.splits p with
    | some y => s.splitBytes y
    | none => zeros 192
  let kept := x.failed.filterMap fun f => f.entry.map fun _ => f
  let head := bytesLE 4 (x.gid + x.role * 256) ++ bytesLE 4 x.batch.toNat ++ bytesLE 4 x.join.toNat
    ++ bytesLE 8 (x.gang.seq.toNat * 2 ^ 48 + x.gang.size.toNat * 2 ^ 32 + x.gang.members.toNat) ++ bytesLE 4 (stagedWord x.staged) ++ zeros 4
    ++ ((List.range 15).flatMap fun i => bytesLE 4 (tget (0 : Word) x.masks (i + 1)).toNat) ++ zeros 4
    ++ live ++ bytesLE 4 x.token.toNat ++ bytesLE 4 x.tokens.length ++ bytesLE 4 x.acqs.length
    ++ bytesLE 4 (min 16 kept.length + (x.failed.length - min 16 kept.length) * 2 ^ 16) ++ zeros 144
  let body := padTo 128 (regs.flatMap fun g => bytesLE 2 g.tagWord.toNat) ++ padTo 128 (regs.flatMap fun g => g.val.bytes)
    ++ padTo 128 (tiles.flatMap fun t => bytesLE 8 t.info.word.toNat) ++ (tiles.flatMap fun t => t.words.flatMap (bytesLE 4))
    ++ padTo 128 (x.tokens.flatMap fun t => bytesLE 4 t.1.toNat ++ bytesLE 4 (if t.2 then 1 else 0))
    ++ padTo 128 (x.acqs.flatMap fun a => bytesLE 4 a.bar ++ bytesLE 4 (a.scope * 4 + 1) ++ bytesLE 4 a.base.toNat ++ bytesLE 4 a.len.toNat)
    ++ ((kept.take 16).flatMap FailedJob.bytes)
  bytesLE 4 (4 + head.length + body.length) ++ head ++ body

/-- A trap block (R356). -/
def Split.trapBytes (y : Split) : List Byte :=
  if y.inHandler then
    (y.trap.regs.flatMap fun w => bytesLE 4 w.toNat) ++ loopBytes y.savedLoops ++ bytesLE 4 y.savedCmpA.toNat ++ bytesLE 4 y.savedCmpB.toNat ++ zeros 88
  else zeros 256

/-- The team header (R290). -/
def Team.headerBytes (x : Team) : List Byte :=
  let books := (List.range 8).flatMap fun k =>
    let b := tget {} x.codebooks k
    ((List.range 16).flatMap fun j => bytesLE 2 (b.entries.getD j 0).toNat) ++ bytesLE 1 b.emin.toNat ++ zeros 7
  bytesLE 4 x.lrec.grid.toNat ++ bytesLE 4 x.lin ++ bytesLE 8 (x.lrec.key x.lin).toNat ++ bytesLE 4 ((if x.idem then 1 else 0) + x.lrec.cls * 2 + x.lrec.prio * 8)
  ++ bytesLE 4 (siteOf x.core + retOf x.core * 256) ++ bytesLE 8 x.snt.toNat ++ bytesLE 8 x.don.toNat
  ++ bytesLE 4 (match x.gbar with
    | some a => a / 16 * 16 + 1
    | none => 0) ++ zeros 84 ++ x.lrec.bytes ++ books ++ zeros 448

/-- The whole save image (R290, R356). -/
def State.saveImage (s : State) (x : Team) (v : SavedTeam) : List Byte :=
  let secs := (v.groups.mapIdx fun i g => s.groupBytes g (v.regs.getD i []) (v.tiles.getD i [])).flatten
  let scratch := (List.range (x.lrec.scratch * 4096)).map fun i => tget 0 v.scratch i
  let traps := v.groups.flatMap fun g => (List.range 4).flatMap fun p => match aget g.splits p with
    | some y => y.trapBytes
    | none => zeros 256
  padTo 4096 (x.headerBytes ++ secs) ++ scratch ++ traps

/-- The context of a resident team as it is saved: groups in index order, `PARTNER` relative, the latch released (R237, R290). -/
def State.context (s : State) (t : Nat) : SavedTeam :=
  let x := s.team t
  let k := s.core x.core
  let gs := sortBy (fun a b => decide (a.gid < b.gid)) ((k.groups.filter fun e => decide (e.2.team = t)).map Prod.snd)
  let rel (g : Group) (y : Tile) : Tile :=
    if 2 ≤ y.info.tag.toNat then { y with info := { y.info with partner := y.info.partner - BitVec.ofNat 8 g.accBase } } else y
  { groups := gs.map fun g => { g with latch := none }
    regs := gs.map fun g => (List.range g.regN).map fun i => k.reg (g.regBase + i)
    tiles := gs.map fun g => (List.range g.accN).map fun i => rel g (k.tile (g.accBase + i))
    scratch := k.scratch.filterMap fun e => if x.scratchBase ≤ e.1 ∧ e.1 < x.scratchBase + x.lrec.scratch * 4096 then some (e.1 - x.scratchBase, e.2) else none }

/-! ### Blocking points (R41, R42, R360) -/

/-- A split is at a blocking point: its wait stands, its condition does not hold or is a batch that ended without `PEND`, its queue is empty and nothing is outstanding. -/
def State.splitBlocked (s : State) (c g p : Nat) (y : Split) : Bool :=
  y.trapDue.isNone && y.queue.isEmpty && !(s.group c g).outstanding p && match y.ctl with
  | .blocked (.batch n) => !s.waitMet c g (.batch n) || (s.pendTiles c g).isEmpty
  | .blocked w => !s.waitMet c g w
  | _ => false

/-- A group is at a blocking point. -/
def State.groupBlocked (s : State) (c g : Nat) (x : Group) : Bool := x.splits.all fun e => s.splitBlocked c g e.1 e.2

/-- The groups of a team on its core. -/
def State.groupsOf (s : State) (t : Nat) : List (Nat × Group) :=
  (s.core (s.team t).core).groups.filter fun e => decide (e.2.team = t)

/-- A resident team is at a blocking point. -/
def State.teamBlocked (s : State) (t : Nat) : Bool :=
  s.isResident t && !(s.team t).byFault && !(s.team t).abandoned && (s.groupsOf t).all fun e => s.groupBlocked (s.team t).core e.1 e.2

/-- Its matrix operations have ended as well, what it has issued is performed, and its core's dirty lines can be written back, so that it can be saved (R42, R107). -/
def State.canLeave (s : State) (t : Nat) : Bool :=
  let c := (s.team t).core
  s.teamBlocked t && !(s.groupsOf t).all (fun e => e.2.finished) && (s.groupsOf t).all (fun e => e.2.pending.isEmpty && ((s.core c).opsOf e.1).isEmpty) && s.releasable c 1 0 0xFFFFFFFF

/-! ### Wake conditions (R291) -/

/-- A saved split's wait condition holds (R159, R291). -/
def State.savedMet (s : State) (cells : List Host.Cell) (x : Group) (w : Wait) : Bool :=
  match w with
  | .bar a ph => (barOf cells a.toNat).passed ph
  | .batch n => x.batchDone n
  | .tok t => x.tokenMet t
  | .merge _ => x.splits.all fun e => match e.2.ctl with
    | .blocked (.merge _) => true
    | _ => false
  | .yld _ _ => true
  | .engine tag _ _ => !s.jobLives tag

/-- An evicted team's wake condition (R42, R291); one that restarts holds it at once (R372), behind its jobs, and one that ends does not come back (R357). -/
def State.wakes (s : State) (t : Nat) : Bool :=
  let x := s.team t
  !x.abandoned && !x.ending && match x.saved with
  | none => true
  | some v =>
    let cells := x.foldHeld v.scratch
    v.groups.any fun g => g.splits.any fun e => match e.2.ctl with
      | .blocked w => s.savedMet cells g w
      | _ => true

end Sys2Proof.Machine
end

