-- ==== Sys2Proof/Machine/Transfer.lean ====
section
/-! DEFINITION. The work of the engine sequencer: reads and landings of jobs (R112, R122, R249, R266), the segments of `cpy`, `gth` and `sct` (R250, R251, R260) and their ends (R261, R392), and `l1ways` (R97, R258). -/

namespace Sys2Proof.Machine

/-! ### Reading and landing -/

/-- A step of a job runs for its issuing group, where that is still there. -/
def State.asJob (s : State) (c : Nat) (j : Job) : State :=
  { s with cur := { core := c, slot := if (s.group c j.slot).team = j.team then j.slot else 64, team := j.team, ret := retOf c, idx := j.id } }

/-- The reason and the address of R264 for a fault of an access: 1 translation, 2 permission, 3 error response, 4 out of bounds. -/
def Flt.reason (f : Flt) : JobError :=
  { reason := if f.code = 8 then 1 else if f.code = 9 then 2 else if f.code = 10 then 3 else 4
    space := if f.code = 7 then 1 else 0
    addr := BitVec.ofNat 64 f.addr }

/-- The scratchpad of a team. Of a team that is not resident a job reads the saved image with the landings held for it, so that an earlier job's count as performed (R121, R247, R266; log 103, a choice of the model). -/
def State.teamScratch (s : State) (t : Nat) : Nat → Byte :=
  let x := s.team t
  match x.saved with
  | some v => let cells := x.foldHeld v.scratch; fun a => tget 0 cells a
  | none => fun a => s.scratchByte x.core (x.scratchBase + a)

/-- Bytes of a team's allocation that a job names: out of bounds is a fault of the job (R249). -/
def State.inScratch (s : State) (t a n : Nat) : Except Flt Unit :=
  if (s.team t).lrec.scratch * 4096 < a + n then .error { code := 7, addr := a } else .ok ()

/-- A virtual access of an engine waits: for the walker, for a slot to end, or for a plane to be usable; what the L1 serves does not (R89, R103, R326). -/
def State.engineHeld (s : State) (c : Nat) (sp : Space) (a n : Nat) (u : Use) (l1 : Bool) : Bool :=
  match sp with
  | .scratch _ => false
  | .tiles _ => false
  | .virt => s.walksWait c [a, a + n - 1] || (match s.span c a n u with
    | .ok r => r.1.any fun b => (s.homeWaits (retOf c) b || (l1 && r.2 && s.roomWaits c (b / 128))) && !(l1 && r.2 && (decide (u = .store) || (s.core c).validBytes [b]))
    | .error _ => false)

/-- The TLB of a core serves the pages of `n` bytes. -/
def State.usePages (s : State) (c a n : Nat) : State :=
  if a / 65536 = (a + n - 1) / 65536 then s.useTlb c a else (s.useTlb c a).useTlb c (a + n - 1)

/-- Bytes read by a job: virtual ones through its core's L1 where the page is cached (R112). -/
def State.engineRead (s : State) (c : Nat) (sp : Space) (a n : Nat) : Except Flt (List Byte × State) :=
  match sp with
  | .scratch t => (s.inScratch t a n).map fun _ => (readN (s.teamScratch t) a n, s)
  | _ => (s.span c a n .load).map fun r =>
    let x := (s.usePages c a n).loadBytes c r.2 r.1
    (x.1, if r.2 then x.2.notePages c a r.1 else x.2)

/-- Bytes landed by a job in a team's storage: at once where it is resident, else held (R266). -/
def State.landTeam (s : State) (t : Nat) (tile : Option Nat) (off : Nat) (bytes : List Byte) (job : Option (Nat × Nat)) : State :=
  if s.isResident t then
    match tile with
    | none => s.putTeam t false off bytes
    | some j => s.putTeam t true (j * 2048 + off) bytes
  else s.modTeam t fun x => { x with held := x.held ++ [{ tile := tile, off := off, bytes := bytes, job := job }] }

/-- The bytes at a virtual address that a landing writes: it takes an error response where nothing answers (R12, R388). -/
def State.landSpan (s : State) (c a n : Nat) : Except Flt (List Nat × Bool) :=
  match s.span c a n .store with
  | .error f => .error f
  | .ok r => match r.1.find? s.dark with
    | some fa => .error { code := 10, addr := a, info := 4, fa := fa }
    | none => .ok r

/-- Bytes landed by a job for its team: through the L1 of its core where the page is cached (R112, R266). -/
def State.engineWrite (s : State) (c : Nat) (j : Job) (sp : Space) (a : Nat) (bytes : List Byte) : Except Flt State :=
  match sp with
  | .scratch t => (s.inScratch t a bytes.length).map fun _ => s.landTeam t none a bytes (some (c, j.id))
  | .tiles t => .ok (s.landTeam t (some (a / 2048)) (a % 2048) bytes (some (c, j.id)))
  | .virt => (s.landSpan c a bytes.length).map fun r =>
    let s := (s.usePages c a bytes.length).storeBytes c j.team r.2 (r.1.zip bytes)
    if r.2 then s.notePages c a r.1 else s

/-- Bytes landed by the endpoint engine or the collective unit: in DRAM at the home slice, whatever the page (R266, R310). -/
def State.unitWrite (s : State) (c : Nat) (j : Job) (sp : Space) (a : Nat) (bytes : List Byte) : Except Flt State :=
  match sp with
  | .scratch _ | .tiles _ => s.engineWrite c j sp a bytes
  | .virt => (s.landSpan c a bytes.length).map fun r => (s.usePages c a bytes.length).storeBytes c j.team false (r.1.zip bytes)

/-! ### Counts and errors -/

/-- The bytes of a job's count C (R267). -/
def State.jobCount (s : State) (j : Job) : Nat :=
  match j.cmd with
  | 0 => word j.words 4 * word j.words 5 * word j.words 8
  | 1 => word j.words 5 * word j.words 6
  | 2 => word j.words 5 * word j.words 6
  | 3 => word j.words 5
  | 4 => word j.words 3
  | 5 => 4
  | 6 => (collPlan (s.team j.team).lrec (s.team j.team).lin j.words).result
  | 7 => 0
  | _ => 1

/-! ### `cpy`, `gth`, `sct`, and the source of an `nput` -/

/-- A run of bytes of a job's data: where they are read, where they land, how many. -/
structure Piece where
  src : Space := .virt
  srcAt : Nat := 0
  dst : Space := .virt
  dstAt : Nat := 0
  n : Nat := 0

/-- An address of a space. -/
def wrapAt (sp : Space) (a : Int) : Nat := wrap (if sp = .virt then 64 else 32) a

/-- The piece of a `cpy` at byte `o` of its data, runs in ascending (i, j) (R250). -/
def copyPiece (t var : Nat) (w : List Word) (o : Nat) : Piece :=
  let ss := spaceOf t (bitOf var 0)
  let ds := spaceOf t (bitOf var 1)
  let run := word w 4
  let q := o / run
  let i : Int := (q / word w 8 : Nat)
  let k : Int := (q % word w 8 : Nat)
  let r : Int := (o % run : Nat)
  { src := ss, dst := ds, n := run - o % run
    srcAt := wrapAt ss ((place1 w 0 (bitOf var 0) : Nat) + i * signed 32 (word w 6) + k * signed 32 (word w 9) + r)
    dstAt := wrapAt ds ((place1 w 2 (bitOf var 1) : Nat) + i * signed 32 (word w 7) + k * signed 32 (word w 10) + r) }

/-- The piece of a `gth` or `sct` at byte `o`, for the index value `x` of its element (R251). -/
def indexPiece (t cmd var : Nat) (w : List Word) (o x : Nat) : Piece :=
  let ds := spaceOf t (bitOf var 1)
  let size := word w 6
  let table : Int := (dword w 0 + x * size + o % size : Nat)
  let dense : Int := (place1 w 7 (bitOf var 1) + o : Nat)
  if cmd = 1 then { srcAt := wrapAt .virt table, dst := ds, dstAt := wrapAt ds dense, n := size - o % size }
  else { src := ds, srcAt := wrapAt ds dense, dstAt := wrapAt .virt table, n := size - o % size }

/-- The place of the index value of the element at byte `o`. -/
def Job.indexPlace (j : Job) (o : Nat) : Space × Nat :=
  let sp := spaceOf j.team (bitOf j.var 0)
  (sp, wrapAt sp ((place1 j.words 3 (bitOf j.var 0) + 4 * (o / word j.words 6) : Nat) : Int))

/-- The index value of the element at byte `o`, inside the table (R251). -/
def State.indexAt (s : State) (c : Nat) (j : Job) (o : Nat) : Except Flt (Nat × State) :=
  let w := j.words
  match s.engineRead c (j.indexPlace o).1 (j.indexPlace o).2 4 with
  | .error f => .error f
  | .ok r =>
    let x := natLE r.1
    if word w 2 < (x + 1) * word w 6 then .error { code := 5, addr := dword w 0 + x * word w 6 } else .ok (x, r.2)

/-- The piece of a job at byte `o`; the data of an `nput` leave in packets, and those of an `nget` come in them. -/
def State.pieceAt (s : State) (c : Nat) (j : Job) (o : Nat) : Except Flt (Piece × State) :=
  if j.cmd = 0 then .ok (copyPiece j.team j.var j.words o, s)
  else if j.cmd = 3 then
    let sp := spaceOf j.team (bitOf j.var 0)
    .ok ({ src := sp, srcAt := wrapAt sp ((place1 j.words 0 (bitOf j.var 0) + o : Nat) : Int), n := word j.words 5 - o }, s)
  else if j.cmd = 4 then
    let sp := spaceOf j.team (bitOf j.var 0)
    .ok ({ dst := sp, dstAt := wrapAt sp ((place1 j.words 4 (bitOf j.var 0) + o : Nat) : Int), n := word j.words 3 - o }, s)
  else (s.indexAt c j o).map fun r => (indexPiece j.team j.cmd j.var j.words o r.1, r.2)

/-- Some run of a row of runs, `n` of them `d` apart, takes in an offset `e` from the first. -/
def inRow (run n : Nat) (d e : Int) : Bool :=
  if d = 0 then decide (0 < n) && decide (0 ≤ e ∧ e < run)
  else
    let (x, y) := if 0 < d then ((e - run) / d + 1, e / d) else (-(e / (-d)), -((e - run) / (-d) + 1))
    decide (max x 0 ≤ min y ((n : Int) - 1))

/-- A run at an address shares a byte with the destination of a `cpy`. -/
def meetsDest (w : List Word) (var : Nat) (a : Int) : Bool :=
  let run := word w 4
  (List.range (word w 8)).any fun (k : Nat) =>
    inRow (2 * run - 1) (word w 5) (signed 32 (word w 7)) (a + run - 1 - place1 w 2 (bitOf var 1) - (k : Int) * signed 32 (word w 10))

/-- The source and the destination of a `cpy` overlap (R250). -/
def Job.overlaps (j : Job) : Bool :=
  let w := j.words
  decide (j.cmd = 0) && decide (bitOf j.var 0 = bitOf j.var 1) &&
    (List.range (word w 5)).any fun (i : Nat) => (List.range (word w 8)).any fun (k : Nat) =>
      meetsDest w j.var (place1 w 0 (bitOf j.var 0) + (i : Int) * signed 32 (word w 6) + (k : Int) * signed 32 (word w 9))

/-! ### A segment in progress -/

/-- The bytes of a segment that are still to be read. -/
def Landing.unread (l : Landing) : Nat := l.reads.foldl (fun a e => a + (e.2 - e.1)) 0

/-- The `k`th byte of a list of intervals, and the end of the interval that it lies in. -/
def spotIn : List (Nat × Nat) → Nat → Nat × Nat
  | [], _ => (0, 0)
  | e :: l, k => if k < e.2 - e.1 then (e.1 + k, e.2) else spotIn l (k - (e.2 - e.1))

/-- Intervals without `n` bytes from `o` of the one that holds `o`. -/
def cutFrom (l : List (Nat × Nat)) (o n : Nat) : List (Nat × Nat) :=
  l.flatMap fun e => if e.1 ≤ o ∧ o < e.2 then [(e.1, o), (o + n, e.2)].filter fun x => decide (x.1 < x.2) else [e]

/-- Every byte has been read and written. -/
def Landing.over (l : Landing) : Bool := l.reads.isEmpty && l.pieces.isEmpty

/-- A job of the endpoint engine. -/
def Job.remote (j : Job) : Bool := decide (3 ≤ j.cmd) && decide (j.cmd ≤ 5)

/-- The unit that runs a job's segments: 1 sequencer, 2 endpoint engine, 3 collective unit. -/
def Job.engine (j : Job) : Nat := if j.cmd = 6 then 3 else if j.remote then 2 else 1

/-- A maintenance-overrun event of slot `n` (R392). -/
def State.overrun (s : State) (r n unit site step late past word : Nat) : State :=
  s.event (s.partOf r) r site 0x0031 (if late = 1 then 2 else 1)
    (bytesLE 4 n ++ bytesLE 1 unit ++ bytesLE 1 site ++ bytesLE 1 step ++ bytesLE 1 late ++ bytesLE 4 past ++ bytesLE 4 word)

/-- A segment has ended; one that a slot has found running is reported, with the time past that slot's start (R261, R392). -/
def State.segmentEnd (s : State) (c : Nat) (j : Job) (l : Landing) : State :=
  match l.late with
  | some (n, at') => s.overrun (retOf c) n j.engine (siteOf c) 1 0 (s.now - at') (word j.card 0)
  | none => s

/-- A started segment of a job has changed; one that is over goes. -/
def State.setSegment (s : State) (c : Nat) (j : Job) (i : Nat) (l : Landing) : State :=
  let s := s.modJob c j.id fun x => { x with flight := (setAt x.flight i l).filter fun l => !l.over }
  if l.over then s.segmentEnd c j l else s

/-- Bytes that random values replace (log 11). -/
def State.freeList (s : State) : Nat → List Byte × State
  | 0 => ([], s)
  | n + 1 =>
    let d := s.draw
    let r := d.2.freeList n
    (d.1.setWidth 8 :: r.1, r.2)

/-- The bytes from `o` to `stop` of a failed job, where they would have landed, are unspecified (R249). -/
def State.scramble (s : State) (c : Nat) (j : Job) (o stop : Nat) : Nat → State
  | 0 => s
  | k + 1 =>
    if stop ≤ o then s
    else match s.pieceAt c j o with
      | .error _ => s
      | .ok (p, s) =>
        let n := min p.n (min (stop - o) (128 - p.dstAt % 128))
        let r := s.freeList n
        match (if j.cmd ≤ 2 then r.2.engineWrite c j p.dst p.dstAt r.1 else r.2.unitWrite c j p.dst p.dstAt r.1) with
        | .ok s => s.scramble c j (o + n) stop k
        | .error _ => r.2.scramble c j (o + n) stop k

/-- What an unfinished segment of a failed job has landed is unspecified (R249): of one that lands in order of its data, all of its bytes, of any other those that it holds. -/
def State.spoilSegment (s : State) (c : Nat) (j : Job) (l : Landing) : State :=
  if j.cmd ≤ 2 ∨ j.cmd = 4 then s.scramble c j l.lo l.hi 65536
  else if j.cmd = 3 ∨ !l.reads.isEmpty then s
  else l.pieces.foldl (fun s p =>
    let r := s.freeList p.2.2.2.length
    match r.2.unitWrite c j p.2.1 p.2.2.1 r.1 with
    | .ok s => s
    | .error _ => r.2) s

/-- A job stops in segment `seg` at an error (R249, R264); of its unfinished segments the landed bytes are unspecified. -/
def State.stopJob (s : State) (c : Nat) (j : Job) (seg : Nat) (e : JobError) : State :=
  let s := j.flight.foldl (fun s l => (s.spoilSegment c j l).segmentEnd c j l) s
  s.modJob c j.id fun x => { x with error := some (x.error.getD e), seg := seg, flight := [] }

/-- A job stops at a fault of one of its accesses; an error response is logged by the unit that gives it (R92, R264). -/
def State.stopAt (s : State) (c : Nat) (j : Job) (seg : Nat) (f : Flt) : State := (s.report (retOf c) f).stopJob c j seg f.reason

/-- `n` landed bytes of a job's segment `seg` counted into its barrier (R246, R266); a balance out of range stops the job. -/
def State.countJob (s : State) (c : Nat) (j : Job) (seg n : Nat) : State :=
  let s := s.modJob c j.id fun x => { x with counted := x.counted + n }
  match j.compl with
  | .barrier a par =>
    let r := s.countInto j.team a par n (some (c, j.id))
    if r.1 then r.2.stopJob c (((s.core c).jobs.find? fun x => decide (x.id = j.id)).getD j) seg { reason := 9, space := 1, addr := BitVec.ofNat 64 a } else r.2
  | _ => s

/-- Bytes of segment `i` are read: any of those left, as many as lie in one piece and one 128-byte unit of the destination, or fewer; single ones where source and destination overlap, so that each takes what the copy has left there so far (R122, R250, R260). -/
def State.readSome (s : State) (c : Nat) (j : Job) (i : Nat) (l : Landing) : State :=
  let k := s.choose l.unread
  let at' := spotIn l.reads k.1
  if j.cmd = 1 ∨ j.cmd = 2 then
    if k.2.engineHeld c (j.indexPlace at'.1).1 (j.indexPlace at'.1).2 4 .load true then k.2
    else go k.2 at'
  else go k.2 at'
where
  go (s : State) (at' : Nat × Nat) : State :=
    match s.pieceAt c j at'.1 with
    | .error f => s.stopAt c j l.num f
    | .ok (p, s) =>
      let m := s.choose (if j.overlaps then 1 else min p.n (min (at'.2 - at'.1) (128 - p.dstAt % 128)))
      let n := if j.overlaps then 1 else min p.n (min (at'.2 - at'.1) (128 - p.dstAt % 128)) - m.1
      let s := m.2
      if s.engineHeld c p.src p.srcAt n .load true then s
      else match s.engineRead c p.src p.srcAt n with
        | .error f => s.stopAt c j l.num f
        | .ok (b, s) => s.setSegment c j i
          { l with reads := cutFrom l.reads at'.1 n, pieces := insertBy (fun x y => decide (x.1 < y.1)) (at'.1, p.dst, p.dstAt, b) l.pieces }

/-- A run of the bytes of a piece, inside one 128-byte unit, as the part takes it: where it begins, and its length. For `sct`, which writes in ascending order, it begins with the piece (R106, R251). -/
def State.someRun (s : State) (j : Job) (a : Nat) (b : List Byte) : (Nat × Nat) × State :=
  let x := if j.cmd = 2 then (0, s) else s.choose b.length
  let room := min (b.length - x.1) (128 - (a + x.1) % 128)
  let m := x.2.choose room
  ((x.1, room - m.1), m.2)

/-- The part of a landing of `n` bytes that the job's count takes: none of a `natom`'s, and of bf16 elements, which are widened in their tiles, the two bytes that they have in the result (R267, R403). -/
def Job.counts (j : Job) (sp : Space) (a n : Nat) : Nat :=
  if j.cmd = 5 then 0
  else if j.cmd = 6 ∧ sp = .tiles j.team ∧ bitsOf (word j.words 0) 9 8 = 1 then ((List.range n).filter fun i => decide (2 ≤ (a + i) % 4)).length
  else n

/-- A run of bytes of segment `i` lands and is counted: of any piece read, of the first for `sct` (R122, R251, R260, R266). Gives the segment as it then stands, none where nothing landed. Where source and destination of a `cpy` overlap, a byte may also keep its old value (R250, log 9). -/
def State.landRun (s : State) (c : Nat) (j : Job) (i : Nat) (l : Landing) : Option (Landing × Nat) × State :=
  let k := if j.cmd = 2 then (0, s) else s.choose l.pieces.length
  match l.pieces[k.1]? with
  | none => (none, k.2)
  | some (o, sp, a, b) =>
    let r := k.2.someRun j a b
    let x := r.1.1
    let n := r.1.2
    let s := r.2
    let at' := wrapAt sp (a + x : Nat)
    let part := (b.drop x).take n
    if s.engineHeld c sp at' n .store (decide (j.cmd ≤ 2)) then (none, s)
    else
      let keep := if j.overlaps then s.choose 2 else (0, s)
      match if keep.1 = 1 then .ok keep.2 else if j.cmd ≤ 2 then keep.2.engineWrite c j sp at' part else keep.2.unitWrite c j sp at' part with
      | .error f => (none, s.stopAt c j l.num f)
      | .ok s =>
        let rest := [(o, sp, a, b.take x), (o + x + n, sp, wrapAt sp (a + x + n : Nat), b.drop (x + n))].filter fun p => !p.2.2.2.isEmpty
        let l := { l with pieces := l.pieces.take k.1 ++ rest ++ l.pieces.drop (k.1 + 1) }
        (some (l, j.counts sp at' n), s.setSegment c j i l)

/-- Such a run of a job of the sequencer or of the endpoint engine. -/
def State.landSome (s : State) (c : Nat) (j : Job) (i : Nat) (l : Landing) : State :=
  let r := s.landRun c j i l
  match r.1 with
  | some (l, n) => r.2.countJob c j l.num n
  | none => r.2

/-- The first piece of a segment may land before what is still to be read: always, but for `sct`, which writes in ascending order (R251). -/
def Landing.mayLand (l : Landing) (cmd : Nat) : Bool :=
  match l.pieces with
  | [] => false
  | p :: _ => decide (cmd ≠ 2) || l.reads.all fun r => decide (p.1 < r.1)

/-- The next segment of a job of the sequencer, or of an `nput`, starts: at most 64 KiB of its data (R260). -/
def State.startSegment (s : State) (c : Nat) (j : Job) : State :=
  let stop := min (s.jobCount j) (j.pos + 65536)
  s.modJob c j.id fun x => { x with pos := stop, seg := x.seg + 1, flight := x.flight ++ [{ lo := j.pos, hi := stop, num := j.seg, reads := [(j.pos, stop)] }] }

/-! ### `l1ways` -/

/-- The scratchpad pages in use on a core end here. -/
def State.pagesEnd (s : State) (c : Nat) : Nat := (s.usedPages c).foldl (fun a e => max a (e.1 + e.2)) 0

/-- The pages that the reserved allocation of a core's queued team takes end here (R258, R279): the run that it would get now; where none is free, the lowest pages of the pool, as many as it needs (log 39, a choice of the model). A team that is held there has its run already (R281). -/
def State.reservedEnd (s : State) (c : Nat) : Nat :=
  match (s.core c).reserve with
  | none => 0
  | some r =>
    let n := (s.team r.team).lrec.scratch
    if (s.core c).teamsOn.contains r.team then 0
    else match firstFit (s.usedPages c) n (s.core c).pages with
    | some p => p + n
    | none => n

/-- The lines of a way leave the L1, their dirty bytes written back (R97). -/
def State.emptyWay (s : State) (c way : Nat) : State :=
  ((s.core c).l1.filter fun l => decide (l.way = way)).foldl (fun s l => s.evictLine c l) s

/-- The move of `l1ways` (R97, R258): none where it is refused. Way c − 1 leaves the L1, or the top way of the scratchpad joins it. -/
def State.moveWay (s : State) (c : Nat) (toL1 : Bool) : Option State :=
  let n := (s.core c).l1ways
  let pages := (16 - (n + 1)) * 16
  if toL1 then
    (if 16 ≤ n ∨ pages < s.pagesEnd c ∨ pages < s.reservedEnd c then none
    else some (s.modCore c fun k => { k with l1ways := n + 1, scratch := k.scratch.filter fun e => decide (e.1 < pages * 4096) }))
  else if n ≤ 4 then none
  else some ((s.emptyWay c (n - 1)).modCore c fun k => { k with l1ways := n - 1, scratch := k.scratch.filter fun e => decide (e.1 < (16 - n) * 65536) })

/-- Dirty bytes of a way that the scratchpad takes back cannot reach their home for now (R97, R103). -/
def State.wayWaits (s : State) (c way : Nat) : Bool :=
  (s.core c).l1.any fun l => decide (l.way = way) && decide (l.dirty ≠ 0) && s.homeWaits (retOf c) (lineBase l.line)

/-- `l1ways` runs. -/
def State.runWays (s : State) (c : Nat) (j : Job) : State :=
  if bitOf j.var 0 && s.wayWaits c ((s.core c).l1ways - 1) then s
  else match (s.asJob c j).moveWay c (!bitOf j.var 0) with
  | some s => s.modJob c j.id fun x => { x with pos := 1 }
  | none => s.modJob c j.id fun x => { x with error := some { reason := 8 } }

end Sys2Proof.Machine
end

