-- ==== Sys2Proof/Machine/Collective.lean ====
section
/-! DEFINITION. Collectives (R255, R308–R310, R340, R403): where the elements of an operand lie, what a rank sends, the fold, and what lands. -/

namespace Sys2Proof.Machine

/-! ### Tiles of a team, wherever it stands -/

/-- A saved tile of a team, by its place in the space of the team's tiles, with the landings held for it (log 103). -/
def Team.foldTile (x : Team) (at' : Nat) (y : Tile) : Tile :=
  let put (y : Tile) (off : Nat) (bytes : List Byte) : Tile :=
    { y with elems := (bytes.mapIdx fun i b => (off + i, b)).foldl (fun e b =>
        if b.1 / 2048 = at' then tset 0 e (b.1 % 2048 / 4) (wordLE ((List.range 4).map fun k => if k = b.1 % 4 then b.2 else byteOf (tget 0 e (b.1 % 2048 / 4)) k)) else e) y.elems }
  x.held.foldl (fun y h =>
    match h.tile, h.req with
    | some _, some k => if k.op = 1 then put y k.offset.toNat k.payload else y
    | some j, none => put y (j * 2048 + h.off) h.bytes
    | none, _ => y) y

/-- A tile of a group of a team, resident or saved. -/
def State.teamTile (s : State) (t gid i : Nat) : Tile :=
  match (s.team t).saved with
  | some v => (s.team t).foldTile (gid * 128 + i) <| (v.tiles.getD (v.groups.findIdx fun g => decide (g.gid = gid)) []).getD i {}
  | none => match s.slotOf t gid with
    | some g => (s.core (s.team t).core).tile ((s.group (s.team t).core g).accBase + i)
    | none => {}

/-- A change to the metadata of such a tile. -/
def State.modTeamTile (s : State) (t gid i : Nat) (f : TileMeta → TileMeta) : State :=
  match (s.team t).saved with
  | some v =>
    let n := v.groups.findIdx fun g => decide (g.gid = gid)
    let l := v.tiles.getD n []
    let x := l.getD i {}
    s.modTeam t fun y => { y with saved := some { v with tiles := setAt v.tiles n (setAt l i { x with info := f x.info }) } }
  | none => match s.slotOf t gid with
    | some g => s.modCore (s.team t).core fun k =>
      let a := (s.group (s.team t).core g).accBase + i
      k.setTile a { k.tile a with info := f (k.tile a).info }
    | none => s

/-! ### Elements of an operand (R403) -/

/-- Bytes of chunk data that a tile, or an f64 pair, holds. -/
def CollPlan.perTile (c : CollPlan) : Nat := if c.ty = 1 then 1024 else if c.ty = 2 then 4096 else 2048

/-- The tile of the `k`th tile (or pair) of the operand, and on through the operands of an in-place all-gather: group and tile. -/
def CollPlan.tileAt (c : CollPlan) (k : Nat) : Nat × Nat :=
  let step := if c.ty = 2 then 2 else 1
  let each := c.n / step
  let all := each * c.groups.length
  ((c.groups.getD (k % all / each) (0, 0)).1, c.first + k / all * c.n + k % all % each * step)

/-- Bytes that an element takes where it is read: in a tile, or in both tiles of a pair. -/
def CollPlan.rawElem (c : CollPlan) : Nat := if c.ty = 2 then 8 else 4

/-- The bytes that are read for bytes `lo` to `hi` of the operand: of tiles, those of every element that has a byte there. -/
def CollPlan.rawRun (c : CollPlan) (lo hi : Nat) : Nat × Nat :=
  if c.tiles then (lo / c.elem * c.rawElem, ((hi - 1) / c.elem + 1) * c.rawElem) else (lo, hi)

/-- Such a byte, as it stands in the team's tiles or scratchpad. -/
def State.rawByte (s : State) (t : Nat) (c : CollPlan) (x : Nat) : Byte :=
  if c.tiles then
    let e := x / c.rawElem
    let p := c.tileAt (e / 512)
    byteOf (tget 0 (s.teamTile t p.1 (p.2 + x % c.rawElem / 4)).elems (e % 512)) (x % 4)
  else s.teamScratch t (c.first + x)

/-- The values of a chunk's bytes. -/
def valuesLE (w : Nat) : Nat → List Byte → List Nat
  | 0, _ => []
  | n + 1, l => natLE (l.take w) :: valuesLE w n (l.drop w)

/-- The elements of bytes read from tiles. -/
def CollPlan.rawValues (c : CollPlan) (raw : List Byte) : List Nat := valuesLE c.rawElem (raw.length / c.rawElem) raw

/-- Bytes `lo` to `hi` of the operand, as a chunk carries them, from the bytes read for them: the words, those rounded to bf16, or a pair's values (R403). -/
def CollPlan.chunkBytes (c : CollPlan) (lo hi : Nat) (raw : List Byte) : List Byte :=
  if c.tiles then
    (((c.rawValues raw).flatMap fun w => bytesLE c.elem (if c.ty = 1 then roundF bf16F 0 (f32F.decode w) else w)).drop (lo % c.elem)).take (hi - lo)
  else raw

/-- What a rounding step did to a list of elements (R78). -/
def statOf (F : FFmt) (l : List Rounded) : RoundStat :=
  let fin := l.filter fun r => r.exact.isFin
  { inexact := !fin.all fun r => (F.decode r.bits).dy.eq r.exact.dy
    overflow := fin.any fun r => decide (F.maxMag < roundMag F 0 r.exact.sign r.exact.dy.i.natAbs r.exact.dy.e)
    top := fin.foldl (fun a r => if (F.decode r.bits).isFin then max a (r.bits % 2 ^ (F.ew + F.mw)) else a) 0 }

/-- The statistics of the same step over further elements of a tile. -/
def joinStat (a b : RoundStat) : RoundStat :=
  { inexact := a.inexact || b.inexact, overflow := a.overflow || b.overflow, top := max a.top b.top }

/-- step_bound under ne from the statistics of a step over a tile (R78). -/
def statBound (F : FFmt) (r : RoundStat) : Bound :=
  if r.overflow then none
  else if !r.inexact then some (0, 0)
  else match F.decode r.top with
    | .fin _ m e => some (1, ulpExp F m e - 1)
    | _ => none

/-- The entry rounding of a unit under bf16, from the bytes read for it (R403). -/
def CollPlan.entryStat (c : CollPlan) (raw : List Byte) : RoundStat :=
  if c.tiles ∧ c.ty = 1 then
    statOf bf16F ((c.rawValues raw).map fun w =>
      let v := f32F.decode w
      { exact := v, bits := roundF bf16F 0 v })
  else {}

/-- The silt of the tile that holds byte `o`. -/
def State.operandSilt (s : State) (t : Nat) (c : CollPlan) (o : Nat) : BitVec 16 :=
  if c.tiles then
    let p := c.tileAt (o / c.perTile)
    (s.teamTile t p.1 p.2).info.silt
  else 0

/-! ### The fold (R255, R403) -/

/-- The additions of a left fold: values, and the statistics of each. -/
def foldSum (F : FFmt) : List (List Nat) → List Nat → List RoundStat → List Nat × List RoundStat
  | [], a, st => (a, st)
  | v :: l, a, st =>
    let d := roundAll F 0 (List.zipWith (fun x y => faddV 0 (F.decode x) (F.decode y)) a v)
    foldSum F l (d.map Rounded.bits) (st ++ [statOf F d])

/-- The left fold of the contributions of a unit, rank 0 first: the result's values and the statistics of its roundings. -/
def CollPlan.fold (c : CollPlan) (vs : List (List Nat)) : List Nat × List RoundStat :=
  let F := if c.ty = 1 then bf16F else if c.ty = 2 then f64F else f32F
  match vs with
  | [] => ([], [])
  | v :: l =>
    if c.red = 0 then
      (if c.ty = 1 then
        let r := foldSum f32F (l.map fun x => x.map (· * 65536)) (v.map (· * 65536)) []
        let d := roundAll bf16F 0 (r.1.map f32F.decode)
        (d.map Rounded.bits, r.2 ++ [statOf bf16F d])
      else foldSum F l v [])
    else (l.foldl (fun a x => List.zipWith (fminmax F (decide (c.red = 2))) a x) v, [])

/-- The silt of a reduced tile from what its units carry: every rank's silt, the entry roundings, the additions and the final rounding, in that order (R255, R403). -/
def CollPlan.silt (c : CollPlan) (k : CollTag) : BitVec 16 :=
  let F := if c.ty = 2 then f64F else f32F
  let s := match k.silts with
    | [] => 0
    | x :: l => l.foldl (fun a b => siltAdd a (siltVal b)) x
  let s := k.entry.foldl (fun a e => siltAdd a (statBound bf16F e)) s
  (k.steps.mapIdx fun i e => (i, e)).foldl (fun a e => siltAdd a (statBound (if c.ty = 1 ∧ e.1 + 1 = k.steps.length then bf16F else F) e.2)) s

/-- Notes of two units of a tile, taken together. -/
def joinNote (a b : CollTag) : CollTag :=
  { a with silts := List.zipWith (fun (x y : BitVec 16) => if x.toNat < y.toNat then y else x) a.silts b.silts, entry := List.zipWith joinStat a.entry b.entry, steps := List.zipWith joinStat a.steps b.steps }

/-! ### Collectives of a reticle -/

/-- The units of an operand (R308). -/
def CollPlan.units (c : CollPlan) : Nat := c.s / 128

/-- The rank that owns a unit (R308). -/
def CollPlan.ownerOf (c : CollPlan) (u : Nat) : Nat := u * c.p / c.units

/-- The plan of a job. -/
def State.planOf (s : State) (j : Job) : CollPlan := collPlan (s.team j.team).lrec (s.team j.team).lin j.words

/-- The bytes of its operand that a rank sends. -/
def CollPlan.sends (c : CollPlan) : Nat := if c.kind = 3 ∧ c.rank ≠ c.root then 0 else c.s

/-- The ranks to which a unit of the operand goes whole: every one under all-gather and broadcast, else one send serves (R308). -/
def CollPlan.copies (c : CollPlan) : Nat := if c.kind = 1 ∨ c.kind = 3 then c.p else 1

/-- The chunks of an all-to-all, in ascending order of the operand: the rank, and the bytes of its slice that lie in one unit (R308). -/
def CollPlan.slices (c : CollPlan) : List (Nat × Nat × Nat) :=
  let n := c.s / c.p
  (List.range c.units).flatMap fun u => ((List.range c.p).filter fun q => decide (q * n < (u + 1) * 128) && decide (u * 128 < (q + 1) * n)).map fun q =>
    (q, max (u * 128) (q * n), min ((u + 1) * 128) ((q + 1) * n))

/-- The sends of a rank's first stage, one chunk each (R340). -/
def CollPlan.work (c : CollPlan) : Nat := if c.kind = 4 then c.slices.length else c.sends / 128 * c.copies

/-- A send of the first stage: the rank that it goes to, the bytes of the operand, and the stage and unit that its chunk carries. -/
structure CollSend where
  rank : Nat := 0
  lo : Nat := 0
  hi : Nat := 0
  stage : Nat := 2
  unit : Nat := 0
  deriving DecidableEq, Repr

/-- Send `i` of the first stage of R308: a unit of the operand to its owner, or to one of the ranks, or a piece of it to the rank of its slice. -/
def CollPlan.sendAt (c : CollPlan) (i : Nat) : CollSend :=
  let u := i / c.copies
  let o := u * 128
  match c.kind with
  | 1 => { rank := i % c.copies, lo := o, hi := o + 128, unit := c.rank * c.s + o }
  | 3 => { rank := i % c.copies, lo := o, hi := o + 128, unit := o }
  | 4 =>
    let x := c.slices.getD i (0, 0, 0)
    let n := c.s / c.p
    { rank := x.1, lo := x.2.1, hi := x.2.2, unit := c.rank * n + (x.2.1 - x.1 * n) }
  | _ => { rank := c.ownerOf u, lo := o, hi := o + 128, stage := 1, unit := u }

/-- The ranks to which a folded unit goes: every one, or the owner alone under reduce-scatter (R308). -/
def CollPlan.spread (c : CollPlan) : List Nat := if c.kind = 2 then [c.rank] else List.range c.p

/-- The units that a rank folds, ascending. -/
def CollPlan.owned (c : CollPlan) : List Nat :=
  if c.kind = 0 ∨ c.kind = 2 then (List.range c.units).filter fun u => decide (c.ownerOf u = c.rank) else []

/-- The sends of a rank's second stage (R340). -/
def CollPlan.second (c : CollPlan) : Nat := c.owned.length * c.spread.length

/-- The unit and the rank of a send of the second stage: units ascending, and in each the ranks (R260, R340). -/
def CollPlan.secondAt (c : CollPlan) (i : Nat) : Nat × Nat := (c.owned.getD (i / c.spread.length) 0, c.spread.getD (i % c.spread.length) 0)

/-- A job of a core. -/
def State.job? (s : State) (c id : Nat) : Option Job := (s.core c).jobs.find? fun j => decide (j.id = id)

/-- The collective of a job at its reticle. -/
def State.coll? (s : State) (c id : Nat) : Option CollState := (s.ret (retOf c)).colls.find? fun x => decide (x.core = c) && decide (x.job = id)

def State.modColl (s : State) (c id : Nat) (f : CollState → CollState) : State :=
  s.modRet (retOf c) fun r => { r with colls := r.colls.map fun x => if x.core = c ∧ x.job = id then f x else x }

/-- A chunk belongs to a job's collective (R309): the grid, the rank set, the ordinal and the team. -/
def State.chunkFor (s : State) (j : Job) (k : Packet) : Bool :=
  match k.coll with
  | none => false
  | some g =>
    let x := s.team j.team
    decide (j.cmd = 6) && decide (x.lrec.grid = k.key) && decide (x.lrec.part = k.part) && decide (x.lin = k.team.toNat) && decide (g.lo = j.words.getD 4 0) && decide (g.hi = j.words.getD 5 0) && decide (g.ordinal = j.coll)

/-! ### Sending -/

/-- A chunk for a rank: it goes to the reticle of that team's home core (R309). -/
def State.sendChunk (s : State) (c : Nat) (j : Job) (p : CollPlan) (q : Nat) (g : CollTag) (bytes : List Byte) : State :=
  let r := (s.team j.team).lrec
  let lin := p.ranks.getD q 0
  match s.ownerPlace r.part (r.key lin) with
  | none => s
  | some (w, d) =>
    s.send (retOf c) { op := 6, part := r.part, key := r.grid, offset := BitVec.ofNat 64 g.unit, len := bytes.length, team := BitVec.ofNat 32 lin, tagRet := retOf c, tagSite := siteOf c, tagSeq := j.id, dstWafer := w, dstRet := retOf d, bank := j.bank, payload := bytes, coll := some { g with lo := j.words.getD 4 0, hi := j.words.getD 5 0, ordinal := j.coll, rank := p.rank } } c j.card none

/-- The next segment of a collective's first stage: one send (R340), whose number its `lo` holds; its bytes are still to be read. -/
def State.collSegment (s : State) (c : Nat) (j : Job) : State :=
  let p := s.planOf j
  let e := p.sendAt j.pos
  s.modJob c j.id fun x => { x with pos := j.pos + 1, seg := x.seg + 1, flight := x.flight ++ [{ lo := j.pos, hi := j.pos + 1, num := j.seg, reads := [p.rawRun e.lo e.hi] }] }

/-- Bytes of a send are read, as many as the part takes (R122); with the last of them the chunk is formed, and its packet belongs to the endpoint, which ends the segment (R340). -/
def State.readChunk (s : State) (c : Nat) (j : Job) (i : Nat) (l : Landing) : State :=
  let p := s.planOf j
  let k := s.choose l.unread
  let at' := spotIn l.reads k.1
  let m := k.2.choose (at'.2 - at'.1)
  let n := at'.2 - at'.1 - m.1
  let b := (List.range n).map fun x => m.2.rawByte j.team p (at'.1 + x)
  let l := { l with reads := cutFrom l.reads at'.1 n, pieces := insertBy (fun x y => decide (x.1 < y.1)) (at'.1, .virt, 0, b) l.pieces }
  if !l.reads.isEmpty then m.2.setSegment c j i l
  else
    let e := p.sendAt l.lo
    let raw := l.pieces.flatMap fun x => x.2.2.2
    let s := m.2.setSegment c j i { l with pieces := [] }
    s.sendChunk c j p e.rank { stage := e.stage, unit := e.unit, silts := if e.stage = 1 then [s.operandSilt j.team p e.lo] else [], entry := if e.stage = 1 then [p.entryStat raw] else [] } (p.chunkBytes e.lo e.hi raw)

/-- The other ranks learn that a rank's job has failed (R309, R385). -/
def State.spreadFailure (s : State) (c : Nat) (j : Job) : State :=
  let p := s.planOf j
  ((List.range p.p).filter fun q => decide (q ≠ p.rank)).foldl (fun s q => s.sendChunk c j p q { stage := 3 } []) s

/-! ### Landing (R310) -/

/-- The tile writes of result bytes from offset `d`: group and tile index, byte, bytes. An element that comes in parts is written in parts. -/
def CollPlan.tileWrites (c : CollPlan) (d : Nat) (bytes : List Byte) : List (Nat × Nat × List Byte) :=
  (((List.range ((d + bytes.length - 1) / c.elem + 1 - d / c.elem)).flatMap fun x =>
    let o := (d / c.elem + x) * c.elem
    let lo := max d o
    let k := lo - o
    let b := (bytes.drop (lo - d)).take (o + c.elem - lo)
    let p := c.tileAt (o / c.perTile)
    let j := p.1 * 128 + p.2
    let i := o % c.perTile / c.elem * 4
    if c.ty = 1 then (if k = 0 then [(j, i, 0 :: 0 :: b)] else [(j, i + 2 + k, b)])
    else if c.ty = 2 then [(j, i + k, b.take (4 - k)), (j + 1, i + (k - 4), b.drop (4 - k))]
    else [(j, i + k, b)]).filter fun e => !e.2.2.isEmpty)

/-- The silt of the tile of a landed unit (R255, R403): of everything landed in it so far. -/
def State.landSilt (s : State) (t : Nat) (c : CollPlan) (notes : List CollTag) (d : Nat) : State :=
  match notes.filter fun g => decide (g.unit / c.perTile = d / c.perTile) with
  | [] => s
  | g :: l =>
    let p := c.tileAt (d / c.perTile)
    s.modTeamTile t p.1 p.2 fun m => { m with silt := c.silt (l.foldl joinNote g) }

/-- The offset in a rank's result of a chunk's bytes: a reduce-scatter's in DRAM begins at the rank's own slice (R310). -/
def CollPlan.offset (c : CollPlan) (g : CollTag) : Nat := if c.kind = 2 ∧ c.dram then g.unit - c.rank * c.result else g.unit

/-- The pieces of result bytes from offset `d` of it, each with its place (R310). -/
def CollPlan.resultPieces (c : CollPlan) (t d : Nat) (bytes : List Byte) : List (Nat × Space × Nat × List Byte) :=
  if c.dram then [(d, .virt, wrapAt .virt (c.addr + d : Nat), bytes)]
  else if !c.tiles then [(d, .scratch t, c.first + d, bytes)]
  else (c.tileWrites d bytes).map fun e => (d, .tiles t, e.1 * 2048 + e.2.1, e.2.2)

/-- A chunk of a rank's result is to land: its bytes do so in any order (R122, R260). Its own chunk is a segment of the job, one that has come from another rank none (R340). -/
def State.landChunk (s : State) (c : Nat) (j : Job) (g : CollTag) (bytes : List Byte) (own : Bool) : State :=
  let p := s.planOf j
  let d := p.offset g
  let s := if p.tiles && !p.dram && decide (p.kind = 0 ∨ p.kind = 2) then s.modColl c j.id fun x => { x with notes := x.notes ++ [g] } else s
  s.modJob c j.id fun x => { x with flight := x.flight ++ [{ lo := d, hi := d + bytes.length, num := j.seg, own := own, pieces := p.resultPieces j.team d bytes }] }

/-- A run of bytes of a landing chunk lands, and counts (R266, R267, R310). With its last byte the silt of a reduced tile takes what the chunk carries. -/
def State.landResult (s : State) (c : Nat) (j : Job) (i : Nat) (l : Landing) : State :=
  let p := s.planOf j
  let r := s.landRun c j i l
  match r.1 with
  | none => r.2
  | some (l, n) =>
    let s := r.2.modColl c j.id fun x => { x with landed := x.landed + n }
    let open' := (((s.job? c j.id).map Job.flight).getD []).filter fun q => q.reads.isEmpty
    let s := if l.over then s.landSilt j.team p ((((s.coll? c j.id).map CollState.notes).getD []).filter fun g => !open'.any fun q => decide (q.lo = p.offset g)) l.lo else s
    s.countJob c j l.num n

/-- The folded packet that the next send of the second stage takes: its unit has been folded. -/
def CollState.ready (x : CollState) (p : CollPlan) : Option Packet :=
  if x.out < p.second then x.folded.find? fun k => decide (k.coll.map CollTag.unit = some (p.secondAt x.out).1) else none

/-- The tag of that send. -/
def CollState.tag (x : CollState) (p : CollPlan) (k : Packet) : CollTag := { k.coll.getD {} with stage := 2, unit := (p.secondAt x.out).1 * 128 }

/-- A send of the second stage may start: its unit is folded. -/
def State.mayFold (s : State) (c : Nat) (j : Job) : Bool :=
  match s.coll? c j.id with
  | none => false
  | some x => (x.ready (s.planOf j)).isSome

/-- The next segment behind a fold: one chunk of a folded unit, to the next rank, or the owner's own, which lands in its result (R308, R340). -/
def State.foldedSegment (s : State) (c : Nat) (j : Job) : State :=
  let p := s.planOf j
  match (s.coll? c j.id).bind fun x => (x.ready p).map fun k => (x, k) with
  | none => s
  | some (x, k) =>
    let e := p.secondAt x.out
    let last := decide ((x.out + 1) % p.spread.length = 0)
    let g := x.tag p k
    let s := (s.modColl c j.id fun x => { x with out := x.out + 1, folded := if last then x.folded.erase k else x.folded }).modJob c j.id fun y => { y with seg := y.seg + 1 }
    if e.2 = p.rank then s.landChunk c j g k.payload true else s.sendChunk c j p e.2 g k.payload

/-! ### Chunks -/

/-- In place, an all-gather or all-to-all lands nothing before the rank has read its own operand. -/
def CollPlan.mustWait (c : CollPlan) (j : Job) : Bool := !c.dram && decide (c.kind = 1 ∨ c.kind = 4) && (decide (j.pos < c.work) || j.flight.any fun l => !l.reads.isEmpty)

/-- A chunk reaches its collective (R308). -/
def State.takeChunk (s : State) (c id : Nat) (k : Packet) : State :=
  match s.job? c id, k.coll with
  | some j, some g =>
    if j.error.isSome then s
    else if g.stage = 3 then s.stopJob c j j.seg { reason := 3, space := 2, addr := BitVec.ofNat 64 (k.srcWafer * 2 ^ 42 + k.srcRet * 2 ^ 36) }
    else if g.stage = 1 then
      let s := s.modColl c id fun x => { x with parts := x.parts ++ [k] }
      let n := (((s.coll? c id).map CollState.parts).getD []).filter fun x => decide (x.coll.map CollTag.unit = some g.unit)
      if n.length = (s.planOf j).p then s.post { core := c, ret := retOf c, idx := id } (.collectiveFold (retOf c) c id g.unit) else s
    else s.landChunk c j g k.payload false
  | _, _ => s

/-- A chunk that waits for a job's collective can be taken now. -/
def State.chunkOpen (s : State) (j : Job) (k : Packet) : Bool :=
  s.chunkFor j k && !((s.planOf j).mustWait j && decide (k.coll.map CollTag.stage = some 2))

/-- The chunks that wait for a job's collective are taken, except those that still have to wait. -/
def State.takeWaiting (s : State) (c id : Nat) : State :=
  match s.job? c id with
  | none => s
  | some j =>
    let (now, later) := (s.ret (retOf c)).chunks.partition (s.chunkOpen j)
    now.foldl (fun s k => s.takeChunk c id k) (s.modRet (retOf c) fun r => { r with chunks := later })

/-- The collective of a job begins at its reticle (R259, R309). -/
def State.startColl (s : State) (c : Nat) (j : Job) : State :=
  let p := s.planOf j
  let x : CollState := { core := c, job := j.id, team := j.team, rank := p.rank, ranks := p.ranks }
  ((s.modRet (retOf c) fun r => { r with colls := r.colls ++ [x] }).modJob c j.id fun y => { y with forwarded := true }).takeWaiting c j.id

/-- The collective of a job is over; chunks still waiting for it go. -/
def State.endColl (s : State) (c : Nat) (j : Job) : State :=
  s.modRet (retOf c) fun r => { r with colls := r.colls.filter fun x => decide (x.core ≠ c) || decide (x.job ≠ j.id), chunks := r.chunks.filter fun k => !s.chunkFor j k }

/-- COLLECTIVE_FOLD (R255, R308, R340): the owner folds a unit whose contributions are all present. -/
def execCollectiveFold (ret core job unit : Nat) (s : State) : Host.Outcome State Fault Refusal :=
  .next (match s.job? core job, s.coll? core job with
    | some j, some x =>
      let p := s.planOf j
      let l := sortBy (fun (a b : Packet) => decide ((a.coll.map CollTag.rank).getD 0 < (b.coll.map CollTag.rank).getD 0)) (x.parts.filter fun k => decide (k.coll.map CollTag.unit = some unit))
      if l.length ≠ p.p ∨ retOf core ≠ ret ∨ j.error.isSome then s
      else
        let r := p.fold (l.map fun k => valuesLE p.elem (128 / p.elem) k.payload)
        let tags := l.filterMap Packet.coll
        let g : CollTag := { stage := 2, unit := unit, silts := tags.flatMap CollTag.silts, entry := tags.flatMap CollTag.entry, steps := r.2 }
        let k : Packet := { op := 6, payload := r.1.flatMap (bytesLE p.elem), coll := some g }
        s.modColl core job fun x => { x with parts := x.parts.filter (fun k => decide (k.coll.map CollTag.unit ≠ some unit)), folded := x.folded ++ [k] }
    | _, _ => s)

/-! ### Arrival -/

/-- The team that a chunk is for, resident or not, by grid, partition and linear id: ended ones behind live ones. -/
def State.chunkTeam (s : State) (k : Packet) : Option Nat :=
  match s.teamOf k.key k.part k.team.toNat with
  | some t => some t
  | none => (s.teams.find? fun e => decide (e.2.lrec.grid = k.key) && decide (e.2.lrec.part = k.part) && decide (e.2.lin = k.team.toNat)).map Prod.fst

/-- The team has issued the collective of a chunk already. -/
def State.issuedColl (s : State) (t : Nat) (g : CollTag) : Bool :=
  (s.team t).collCount.any fun e => decide (e.1 = mkD g.hi g.lo) && decide (g.ordinal < e.2)

/-- The bytes of the chunks that wait at a reticle. -/
def Reticle.chunkBytes (r : Reticle) : Nat := (r.chunks.map fun k => k.payload.length).foldl (· + ·) 0

/-- The buffer of a chunk's reticle has no room for it (R309). -/
def State.chunkFull (s : State) (k : Packet) : Bool := decide (2 ^ 20 < (s.ret k.dstRet).chunkBytes + k.payload.length)

/-- The job that a chunk is for, where it stands on a core of the reticle. -/
def State.chunkJob (s : State) (k : Packet) : Option (Nat × Job) :=
  (s.ret k.dstRet).colls.findSome? fun x =>
    match s.job? x.core x.job with
    | some j => if s.chunkFor j k then some (x.core, j) else none
    | none => none

/-- A job on the reticle that has issued a chunk's collective and has not begun it. -/
def State.chunkQueued (s : State) (k : Packet) : Bool :=
  s.cores.any fun e => decide (retOf e.1 = k.dstRet) && e.2.jobs.any fun j => s.chunkFor j k

/-- COLLECTIVE_CHUNK (R309): a chunk is taken, or waits in the reticle's 1 MiB buffer, or is held back; one for a collective that is over takes an error response. -/
def execCollectiveChunk (k : Packet) (s : State) : Host.Outcome State Fault Refusal :=
  let r := k.dstRet
  .next (
    if s.seen k then s.ack k
    else if s.refused k then s
    else if k.part ≠ s.partOf r then (s.refuseNew k 3).firewall k
    else if !(s.ret r).answers then s.refuseNew k 6
    else
      let stage := (k.coll.getD {}).stage
      let wait : State :=
        if !s.chunkFull k then ((s.markSeen k).modRet r fun x => { x with chunks := x.chunks ++ [k] }).ack k
        else s.post (unitOf k) (.collectiveChunk k)
      match s.chunkJob k with
      | some (c, j) =>
        if (s.planOf j).mustWait j && decide (stage = 2) then wait
        else ((s.markSeen k).takeChunk c j.id k).ack k
      | none =>
        if s.chunkQueued k then wait
        else match s.chunkTeam k with
          | none => wait
          | some t =>
            if (s.team t).stage = .ended ∨ s.issuedColl t (k.coll.getD {}) then
              (if stage = 3 then (s.markSeen k).ack k else s.refuseNew k 6)
            else wait)

end Sys2Proof.Machine
end

