-- ==== Sys2Proof/Machine/Ends.lean ====
section
/-! DEFINITION. Ends of windows (R61), taking a trap that waited (R350), words that are no instruction (R138), and the walker's and the slices' own steps (R88, R89, R102). -/

namespace Sys2Proof.Machine

/-- The lane block that executes once the lane stream's park is over: none where its last instruction has issued (R61, R63). -/
def Split.freed (x : Split) : Option (Block × Bool) := x.running.filter fun b => !b.2

/-- The control stream goes on after a park: every window is closed, and what the block of a marked `lrun` has written does not show in the next (R61, R62, R63). -/
def Split.unpark (x : Split) (now : Nat) : Split :=
  { x with ctl := .ready, cWin := { hideVs := x.late.vs, hideMs := x.late.ms }, lWin := {}, ctlLast := [], late := {}, laneParked := false, ctlSince := now, laneSince := if x.laneParked then now else x.laneSince, running := if x.laneParked then x.freed else x.running }

/-- The lane stream goes on: its window is closed. -/
def Split.unparkLane (x : Split) (now : Nat) : Split := { x with lWin := {}, laneParked := false, laneSince := now, running := x.freed }

/-- PARK_END (R61): the control stream of the step's split once the split is quiet, or, by the index 1, its lane stream once its results have returned. -/
def execParkEnd (s : State) : Host.Outcome State Fault Refusal :=
  .next (
    if s.cur.idx = 0 then
      (if s.me.ctl = .parked ∧ s.quiet then s.modMe fun x => x.unpark s.cycle else s)
    else if s.me.laneParked ∧ !s.here.outstanding s.cur.split then s.modMe fun x => x.unparkLane s.cycle
    else s)

/-- TRAP_ENTRY (R350): a trap that waited for outstanding results is taken. -/
def execTrapEntry (s : State) : Host.Outcome State Fault Refusal :=
  .next (match s.me.trapDue with
    | some r => if s.trapWaits s.cur.core s.cur.slot s.cur.split then s else s.enterTrap s.cur.core s.cur.slot s.cur.split r
    | none => s)

/-- ILLEGAL_ENCODING (R138, R353): cause 1 in the stream that issued the word. -/
def execIllegalEncoding (w : RawWord) (s : State) : Host.Outcome State Fault Refusal :=
  match w with
  | .control _ => s.control false fun s => .trap s { code := 1 }
  | .lane _ =>
    match s.me? with
    | none => .fault .noIssuer
    | some x => if x.queue.isEmpty then .fault .noIssuer else .next (s.raiseLane { code := 1 })

/-! ### The walker -/

/-- A walk ends at a 32 MiB leaf: its last entry stands in an L1 table. -/
def State.walkBig (s : State) (r va : Nat) : Bool := (((s.walked r va).getLast?).map Prod.fst) = some 1

/-- A translation enters a core's TLB as its most recent; the least recently used leaves a full one (R89). -/
def Core.addTlb (k : Core) (e : TlbEntry) : Core := { k with tlb := (e :: k.tlb.erase e).take 2048 }

/-- The sound entries above the last level that a walk has read (R89). -/
def upperEntries (l : List (Nat × Nat × Dword)) : List (Nat × Dword) :=
  (l.filter fun e => decide (0 < e.1) && pteSound e.2.2).map fun e => e.2

/-- The walker has read the entries of a walk at their home slices; its caches keep them beside what they hold, or lose what they hold (log 64). -/
def State.useWalk (s : State) (r : Nat) (l : List (Nat × Nat × Dword)) : State :=
  let s := s.serveAll none (l.map fun e => e.2.1)
  let k := s.choose 2
  k.2.modRet r fun x => { x with walkCache := if k.1 = 1 then [] else (upperEntries l).foldl (fun c e => aput c e.1 e.2) x.walkCache }

/-- TLB_WALK (R88, R89): the walker ends a walk, once every entry of its path can be had; a translation enters the core's TLB, and a walk that finds none leaves nothing. -/
def execTlbWalk (core : Nat) (va : Dword) (s : State) : Host.Outcome State Fault Refusal :=
  let r := retOf core
  let a := va.toNat
  let l := s.walked r a
  .next (
    if (s.tlbHit core a).isSome then s
    else if l.any fun e => s.homeWaits r e.2.1 then s.postOnce (walkOf core a).unit (walkOf core a).ins
    else match s.walk r a with
      | .fault _ | .error _ => s.useWalk r l
      | .ok _ pte => (s.useWalk r l).modCore core fun k => k.addTlb { part := s.partOf r, vpage := a / 65536, big := s.walkBig r a, pte := pte })

/-! ### The slice -/

/-- LEASE_RECALL (R102) of a line of the reticle's DRAM, by its number. -/
def execLeaseRecall (ret line : Nat) (s : State) : Host.Outcome State Fault Refusal := .next (s.recallLease (s.fa ret (line * 128)))

end Sys2Proof.Machine
end

