-- ==== Sys2Proof/Machine/Sched.lean ====
section
/-! DEFINITION. Cluster schedulers: admission, reservations and requests (R278–R281, R365, R366), donation (R282, R283), eviction, re-admission and abandonment (R289–R291, R372). -/

namespace Sys2Proof.Machine

/-! ### Candidates (R278) -/

/-- The scheduler of a core works: the core is enabled, and its reticle has its supply (R19, R22). -/
def State.works (s : State) (c : Nat) : Bool := s.enabled c && (s.ret (retOf c)).answers

/-- The owner of a team's key now: its home core, or that core's successor (R38, R291). -/
def State.homeNow (s : State) (t : Nat) : Nat :=
  let x := s.team t
  (s.owner x.lrec.part (x.lrec.key x.lin)).getD x.home

/-- The reticle whose save pool a team uses: its home core's. -/
def State.saveRet (s : State) (t : Nat) : Nat := retOf (s.homeNow t)

/-! ### Entries, forwarding and re-admission (R39, R283, R291) -/

/-- A team's entry and reservation are gone. -/
def State.freeEntry (s : State) (c t : Nat) : State :=
  let s := s.modCluster (retOf c) (clusterOf c) fun k => { k with entries := k.entries.filter fun x => decide (x ≠ t) }
  s.modCore c fun k =>
    { k with reserve := (match k.reserve with
        | some r => if r.team = t then none else some r
        | none => none)
             misfit := (match k.misfit with
        | some m => if m.1 = t then none else some m
        | none => none) }

/-- A team that runs away from its home core registers there (R39, R283). -/
def State.register (s : State) (t : Nat) : State :=
  let x := s.team t
  if x.core = x.home then s else s.modCore x.home fun k => { k with forwards := k.forwards ++ [(t, x.core)] }

/-- The teams of a launch on this wafer. -/
def State.launchTeams (s : State) (l : Nat) : List Nat := (s.teams.filter fun e => decide (e.2.launch = l) && decide (e.2.stage ≠ .away)).map Prod.fst

/-- The restored form of a group: its new place, the waits of `yld` over (R159), and its failed jobs without log entries yet. -/
def Group.restored (x : Group) (p : Group) (cycle : Nat) : Group :=
  { x with regBase := p.regBase, accBase := p.accBase, splits := x.splits.map fun e => (e.1, match e.2.ctl with
      | .blocked (.yld c _) => { e.2 with ctl := .blocked (.yld c true), ctlSince := cycle, laneSince := cycle }
      | _ => { e.2 with ctlSince := cycle, laneSince := cycle }) }

/-- The failed jobs of a group written again into the error log of its core, 16 at most (R290). -/
def State.relog (s : State) (c g : Nat) : State :=
  let l := (s.group c g).failed
  let r := l.foldl (fun (r : List FailedJob × State) f =>
    if f.entry.isSome && decide ((r.1.filterMap FailedJob.entry).length < 16) then let q := r.2.logJob c f; (r.1 ++ [q.1], q.2) else (r.1 ++ [{ f with entry := none }], r.2)) ([], s)
  r.2.modGroup c g fun x => { x with failed := r.1 }

/-- Group `i` of a saved team into its new slot. -/
def State.restoreGroup (s : State) (t : Nat) (v : SavedTeam) (i : Nat) : State :=
  match v.groups[i]? with
  | none => s
  | some x =>
    let c := (s.team t).core
    match s.slotOf t x.gid with
    | none => s
    | some g =>
      let p := s.group c g
      let y := x.restored p (s.cycleOf c)
      let s := s.setGroup c g y
      let s := s.modCore c fun k => ((v.regs.getD i []).mapIdx fun j r => (j, r)).foldl (fun k e => k.setReg (y.regBase + e.1) e.2) k
      let s := s.modCore c fun k => ((v.tiles.getD i []).mapIdx fun j r => (j, r)).foldl (fun k e =>
        k.setTile (y.accBase + e.1) (if 2 ≤ e.2.info.tag.toNat then { e.2 with info := { e.2.info with partner := e.2.info.partner + BitVec.ofNat 8 y.accBase } } else e.2)) k
      s.relog c g

/-- The save units of a team are free again. -/
def State.freeSave (s : State) (t : Nat) : State :=
  match (s.team t).saveAt with
  | none => s
  | some (a, n) =>
    let r := s.saveRet t
    let u := (a - bitsOf (s.ret r).saveBase.toNat 55 16 * 65536) / 65536
    (s.modRet r fun x => { x with saveUsed := x.saveUsed.erase (u, n) }).modTeam t fun x => { x with saveAt := none }

/-! ### Ending a team that is not resident -/

/-- A team's entry leaves every cluster that queues it. -/
def State.dropEntries (s : State) (t : Nat) : State :=
  (s.rets.map Prod.fst).foldl (fun s r =>
    (((s.ret r).clusters.filter fun e => e.2.entries.contains t).map Prod.fst).foldl (fun s k =>
      s.modCluster r k fun x => { x with entries := x.entries.filter fun u => decide (u ≠ t) }) s) s

/-- The team has storage on a core (it is held for its grid, or resident). -/
def State.placed (s : State) (t : Nat) : Bool := (s.core (s.team t).core).teamsOn.contains t

/-- A team that is not resident is gone: entry, storage held for its grid, save area and forwarding entry. -/
def State.endAway (s : State) (t : Nat) (lost fault : Bool) : State :=
  let s := s.dropEntries t
  let s := if s.placed t then s.dropPlace t else s
  ((s.freeSave t).unforward t).countEnd t lost fault

/-- A team that is not resident ends by fault: at once, or, evicted, when its engine jobs have completed (R357, R367). -/
def State.endOut (s : State) (t : Nat) : State :=
  if (s.team t).jobs = 0 then s.endAway t false true else s.modTeam t fun x => { x with ending := true, byFault := true, idem := false, request := none, abandoned := false }

/-- A team is over once its engine jobs have completed: every group of it has ended (R44), or a command has ended it while it was evicted (R357, R367). -/
def State.teamOver (s : State) (t : Nat) : Bool :=
  let x := s.team t
  let gs := (s.core x.core).groups.filter fun e => decide (e.2.team = t)
  decide (x.jobs = 0) && ((decide (x.stage = .resident) && !x.abandoned && !gs.isEmpty && gs.all fun e => e.2.finished)
    || (decide (x.stage = .evicted) && x.ending))

/-- TEAM_END (R44): the storage of the step's team is released and its end counted. A team that runs on another wafer ends by this step as well, which is then an input: the index holds 1 for a team lost, 2 for one that ended by a fault (log 1). -/
def execTeamEnd (s : State) : Host.Outcome State Fault Refusal :=
  let t := s.cur.team
  if s.teamOver t then
    .next (if (s.team t).stage = .evicted then s.endAway t false true
      else ((s.dropPlace t).unforward t).countEnd t false (s.team t).byFault)
  else if (s.team t).stage = .away then .next (s.countEnd t (decide (s.cur.idx = 1)) (decide (s.cur.idx = 2)))
  else .next s

/-! ### The save area at restore (R291, R375) -/

/-- The first addresses of the lines of a team's save image. -/
def State.saveLines (s : State) (t : Nat) : List Nat :=
  let x := s.team t
  match x.saveAt, x.saved with
  | some (a, _), some v => (List.range (((s.saveImage x v).length + 127) / 128)).map fun i => a + 128 * i
  | _, _ => []

/-- The line of a team's save area that the restore finds lost (R375, R376). -/
def State.saveLost (s : State) (t : Nat) : Option Nat := (s.saveLines t).find? s.lost

/-- The save area of a team cannot be read now: its reticle is in a slot, or no plane leads to it (R103, R326). -/
def State.saveWaits (s : State) (t : Nat) : Bool := (s.saveLines t).any (s.homeWaits (retOf (s.homeNow t)))

/-- A team whose save area is lost ends by fault at its restore: the slice logs the access, and the area is freed (R375–R377). -/
def State.endLost (s : State) (t a : Nat) : State :=
  (s.report (s.saveRet t) { code := 10, info := 4, fa := a }).endOut t

/-- An evicted team is placed, restored, and takes the landings held for it; one that restarts starts afresh (R291, R372). It sees what its stores wrote elsewhere: clean bytes of the core are fetched anew (R400). -/
def State.readmit (s : State) (c t : Nat) : State :=
  match s.place? c (s.team t).lrec with
  | none => s
  | some p =>
    match (s.team t).saved with
    | none => (((s.takePlace c t p).freeEntry c t).startTeam t).register t
    | some v =>
      let s := (((s.serveAll none (s.saveLines t)).acquire c 1 0 0xFFFFFFFF).takePlace c t p).freeEntry c t
      let s := (List.range v.groups.length).foldl (fun s i => s.restoreGroup t v i) s
      let b := (s.team t).scratchBase
      let s := v.scratch.foldl (fun s e => s.setScratch c (b + e.1) e.2) s
      let held := (s.team t).held
      let s := s.modTeam t fun x => { x with stage := .resident, saved := none, held := [], admitted := s.now }
      ((held.foldl (fun s h => s.applyHeld t h) s).freeSave t).register t

/-- The evicted teams that come back together: a concurrent grid's all (R40). -/
def State.returners (s : State) (t : Nat) : List Nat :=
  if (s.team t).lrec.cls = 0 then (s.launchTeams (s.team t).launch).filter fun u => decide ((s.team u).stage = .evicted) && !(s.team u).ending else [t]

/-- A team comes back, with the teams that come back together with it: each to its home, all or none (R40). -/
def State.comeBack (s : State) (t : Nat) : Option State :=
  let l := s.returners t
  let s' := l.foldl (fun s u => s.readmit (s.homeNow u) u) s
  if l.all s'.isResident then some s' else none

/-! ### Ranking (R278) -/

/-- Registers in use on a core. -/
def Core.regsUsed (k : Core) : Nat := (k.usedRegs.map Prod.snd).foldl (· + ·) 0

/-- The core of a cluster that a donated team goes to (R283): the one with more free registers, the lower site on a tie. -/
def State.donationCore (s : State) (ret k : Nat) : Nat :=
  let a := ret * 72 + 2 * k
  if !s.enabled (a + 1) then a
  else if !s.enabled a then a + 1
  else if (s.core (a + 1)).regsUsed < (s.core a).regsUsed then a + 1 else a

/-- The core that an entry of a cluster is a candidate for: its home, or that of a donated team. -/
def State.entryCore (s : State) (ret k t : Nat) : Nat :=
  let h := s.homeNow t
  if retOf h = ret ∧ clusterOf h = k then h else s.donationCore ret k

/-- The candidates of a core by rank (R278): by priority, then woken evicted teams by eviction, then entries by arrival. A team that is held for its grid, or whose condition does not hold, is none, except those of `also`. -/
def State.rankedWith (s : State) (c : Nat) (also : List Nat) : List Nat :=
  let ev := sortBy (fun a b => decide ((s.team a).evictedAt < (s.team b).evictedAt))
    ((s.teams.filter fun e => decide (e.2.stage = .evicted) && decide (s.homeNow e.1 = c) && (s.wakes e.1 || also.contains e.1)).map Prod.fst)
  let en := (s.cluster (retOf c) (clusterOf c)).entries.filter fun t =>
    decide ((s.team t).stage = .entry) && (!s.placed t || also.contains t) && decide (s.entryCore (retOf c) (clusterOf c) t = c)
  sortBy (fun a b => decide ((s.team b).lrec.prio < (s.team a).lrec.prio)) (ev ++ en)

def State.ranked (s : State) (c : Nat) : List Nat := s.rankedWith c []

/-- A candidate fits the core now; an evicted team of a concurrent grid where all that come back with it fit (R40). -/
def State.fits (s : State) (c t : Nat) : Bool :=
  if (s.team t).stage = .evicted ∧ (s.team t).lrec.cls = 0 then (s.comeBack t).isSome else (s.place? c (s.team t).lrec).isSome

/-- The candidates, with those of `also`, that a reservation still lets in (R279): those ranked above its team, and the team itself, where it is not held already (R281). -/
def State.allowedWith (s : State) (c : Nat) (also : List Nat) : List Nat :=
  match (s.core c).reserve with
  | none => s.rankedWith c also
  | some r => (s.rankedWith c (r.team :: also)).takeWhile (fun t => decide (t ≠ r.team)) ++ (if (s.rankedWith c also).contains r.team then [r.team] else [])

def State.allowed (s : State) (c : Nat) : List Nat := s.allowedWith c []

/-- A team may come back to its core beside those of `l`: the core works, its reservation lets the team in, and no other candidate that fits there ranks ahead (R278, R279). -/
def State.mayReturn (s : State) (l : List Nat) (u : Nat) : Bool :=
  let c := s.homeNow u
  let a := s.allowedWith c l
  s.works c && a.contains u && (a.takeWhile fun v => decide (v ≠ u)).all fun v => l.contains v || !s.fits c v

/-- The teams that come back with a team do so where each may on its own core (R40, R278, R279). -/
def State.returnAll (s : State) (t : Nat) : Option State :=
  if (s.returners t).all (s.mayReturn (s.returners t)) then s.comeBack t else none

/-- A candidate that fits and can go in now: with an evicted team of a concurrent grid all that come back with it can. -/
def State.goesIn (s : State) (c t : Nat) : Bool :=
  if (s.team t).stage = .evicted ∧ (s.team t).lrec.cls = 0 then (s.returnAll t).isSome else (s.place? c (s.team t).lrec).isSome

/-- The team that is let in next: the first by rank that fits (R278), on a core that works. -/
def State.choice (s : State) (c : Nat) : Option Nat := if s.works c then (s.allowed c).find? (s.goesIn c) else none

/-- The highest-ranked candidate that does not fit (R279). -/
def State.misfitNow (s : State) (c : Nat) : Option Nat := (s.ranked c).find? fun t => !s.fits c t

/-! ### Admission (R277, R278, R281) -/

/-- Every team of a launch that is homed on this wafer has come: of one that another wafer launched, as many as its grid has here. -/
def State.gridHere (s : State) (t : Nat) : Bool :=
  let x := s.team t
  match x.origin with
  | none => true
  | some _ => decide (((List.range x.lrec.total).filter fun i => (s.owner x.lrec.part (x.lrec.key i)).isSome).length ≤ (s.launchTeams x.launch).length)

/-- A holding becomes a reservation of its core, which holds one at a time (R279, R281). -/
def State.reserveHeld (s : State) (t : Nat) : State :=
  s.modCore (s.team t).core fun k => { k with reserve := match k.reserve with
    | some r => some r
    | none => some { team := t, since := s.now } }

/-- The holdings of a launch have become reservations: its time is over, or one of its teams has a reservation where it is held. -/
def State.holdOver (s : State) (l : Nat) : Bool :=
  ((aget s.launches l).any Launch.timedOut) || (s.launchTeams l).any fun t => s.placed t && (match (s.core (s.team t).core).reserve with
    | some r => decide (r.team = t)
    | none => false)

/-- A candidate takes its storage and starts; a concurrent one is held until every team of its grid on this wafer is (R281; log 1). -/
def State.letIn (s : State) (c t : Nat) : State :=
  let x := s.team t
  match s.place? c x.lrec with
  | none => s
  | some p =>
    if x.lrec.cls ≠ 0 then (((s.takePlace c t p).freeEntry c t).startTeam t).register t
    else
      let first := !(s.launchTeams x.launch).any s.placed
      let past := s.holdOver x.launch
      let s := s.takePlace c t p
      let l := (s.launchTeams x.launch).filter fun u => decide ((s.team u).stage ≠ .ended)
      if s.gridHere t && l.all s.placed then l.foldl (fun s u => (s.freeEntry (s.team u).core u).startTeam u) s
      else if past then s.reserveHeld t
      else if first then s.postIn 4096 { idx := x.launch } .concurrentHoldTimeout else s

/-- ADMISSION: the next candidate of the step's core, where it is an entry. -/
def execAdmission (s : State) : Host.Outcome State Fault Refusal :=
  let c := s.cur.core
  .next (match s.choice c with
    | some t => if (s.team t).stage = .entry then s.letIn c t else s
    | none => s)

/-- CONCURRENT_HOLD_TIMEOUT (R281): the holdings of the launch of the step's index become reservations. -/
def execConcurrentHoldTimeout (s : State) : Host.Outcome State Fault Refusal :=
  let s : State := match aget s.launches s.cur.idx with
    | some l => { s with launches := aput s.launches s.cur.idx { l with timedOut := true } }
    | none => s
  .next ((s.launchTeams s.cur.idx).foldl (fun s t => if (s.team t).stage = .entry ∧ s.placed t then s.reserveHeld t else s) s)

/-! ### Reservations and requests (R279, R280, R365) -/

/-- The reservation of a core has lost its team. -/
def State.staleReserve (s : State) (c : Nat) : Bool :=
  match (s.core c).reserve with
  | some r => !(decide ((s.team r.team).stage = .entry) || decide ((s.team r.team).stage = .evicted))
  | none => false

/-- A holding on a core that becomes its reservation: another team's stood there when its holding had lasted long enough (R281). -/
def State.heldDue (s : State) (c : Nat) : Option Nat :=
  if (s.core c).reserve.isSome then none
  else (s.core c).teamsOn.find? fun t => decide ((s.team t).stage = .entry) && decide ((s.team t).lrec.cls = 0) && s.holdOver (s.team t).launch

/-- RESERVATION (R279, R281): a holding whose time is over takes the reservation that has become free; the core notes its highest-ranked candidate that does not fit, and reserves for one that has been it for 4,096 reference cycles; never for one of class weak. -/
def execReservation (s : State) : Host.Outcome State Fault Refusal :=
  let c := s.cur.core
  let k := s.core c
  .next (
    if s.staleReserve c then s.modCore c fun k => { k with reserve := none }
    else if (s.heldDue c).isSome then s.reserveHeld ((s.heldDue c).getD 0)
    else match s.misfitNow c with
      | none => s.modCore c fun k => { k with misfit := none }
      | some t =>
        if k.misfit.map Prod.fst ≠ some t then s.modCore c fun k => { k with misfit := some (t, s.now) }
        else if k.reserve.isNone && decide ((s.team t).lrec.cls ≠ 2) && decide (((k.misfit.map Prod.snd).getD s.now) + 4096 ≤ s.now) then
          s.modCore c fun k => { k with reserve := some { team := t, since := s.now } }
        else s)

/-- RESERVATION has something to do. -/
def State.mayReserve (s : State) (c : Nat) : Bool :=
  let k := s.core c
  s.staleReserve c || (s.heldDue c).isSome || (match s.misfitNow c with
    | none => k.misfit.isSome
    | some t => decide (k.misfit.map Prod.fst ≠ some t) ||
        (k.reserve.isNone && decide ((s.team t).lrec.cls ≠ 2) && decide (((k.misfit.map Prod.snd).getD s.now) + 4096 ≤ s.now)))

/-- Teams of a core at a blocking point with a priority up to `prio`, most recently admitted first (R280). -/
def State.askable (s : State) (c prio : Nat) : List Nat :=
  sortBy (fun a b => decide ((s.team b).admitted < (s.team a).admitted))
    ((s.core c).teamsOn.filter fun t => decide ((s.team t).lrec.prio ≤ prio) && s.teamBlocked t)

/-- A team is asked to leave (R289, R366); with a team of a concurrent grid every resident team of the grid is asked, since they leave together (R40). -/
def State.askTeam (s : State) (t source : Nat) : State :=
  let ask (s : State) (u n : Nat) : State := if (s.team u).request.isSome then s else s.modTeam u fun x => { x with request := some { source := n, since := s.now } }
  let s := ask s t source
  if (s.team t).lrec.cls ≠ 0 then s
  else ((s.launchTeams (s.team t).launch).filter s.isResident).foldl (fun s u => ask s u 3) s

/-- Requests go out one by one until the team would fit (R280). -/
def State.askFor (s : State) (c t : Nat) : List Nat → State
  | [] => s
  | u :: l =>
    let gone := (s.core c).teamsOn.filter fun v => (s.team v).request.isSome
    if (s.placeWithout c (s.team t).lrec gone).isSome then s
    else
      (s.askTeam u 1).askFor c t l

/-- PREEMPTION_REQUEST_REPEAT (R280, R365): the woken evicted team of the step, where it still does not fit, asks and asks again 256 reference cycles later. -/
def execPreemptionRequestRepeat (s : State) : Host.Outcome State Fault Refusal :=
  let t := s.cur.team
  let c := s.homeNow t
  .next (
    if (s.team t).stage = .evicted ∧ s.wakes t ∧ !s.fits c t then
      (s.askFor c t (s.askable c (s.team t).lrec.prio)).postIn 256 s.cur .preemptionRequestRepeat
    else s)

/-- RESERVATION_PREEMPTION (R280): the reservation of the step's core, standing 4,096 reference cycles, asks teams of lower priority, and asks again as R365 says. -/
def execReservationPreemption (s : State) : Host.Outcome State Fault Refusal :=
  let c := s.cur.core
  .next (match (s.core c).reserve with
    | none => s
    | some r =>
      let p := (s.team r.team).lrec.prio
      if r.since + 4096 ≤ s.now ∧ !s.placed r.team ∧ !s.fits c r.team then
        (if p = 0 then s else s.askFor c r.team (s.askable c (p - 1))).postIn 256 s.cur .reservationPreemption
      else s)

/-- A step of the kind waits for its time. -/
def State.timed (s : State) (u : Cur) (i : Instr) : Bool := s.timers.any fun e => decide (e.2 = ⟨u, i⟩)

/-- A group of a team that holds a request has not been at a blocking point for `PREEMPT_WIN` reference cycles (R360, R366). -/
def State.groupOverdue (s : State) (c : Nat) (r : Request) (e : Nat × Group) : Bool :=
  !s.groupBlocked c e.1 e.2 && decide (max r.since ((aget r.reached e.2.gid).getD 0) + (s.ret (retOf c)).preemptWin ≤ s.now)

/-- A request is overdue (R366). -/
def State.overdue (s : State) (t : Nat) : Bool :=
  let x := s.team t
  match x.request with
  | some r => !r.overdue && s.isResident t && (s.groupsOf t).any (s.groupOverdue x.core r)
  | none => false

/-- PREEMPTION_OVERDUE (R366) of the step's team. -/
def execPreemptionOverdue (s : State) : Host.Outcome State Fault Refusal :=
  let t := s.cur.team
  let x := s.team t
  let c := x.core
  if !s.overdue t then .next s
  else
    let r := x.request.getD {}
    let g := (sortBy (fun a b => decide (a.2.gid < b.2.gid)) (s.groupsOf t)).find? (s.groupOverdue c r)
    match g with
    | none => .next s
    | some e =>
      let y := (e.2.splits.find? fun q => !s.splitBlocked c e.1 q.1 q.2).getD (0, {})
      .next ((s.modTeam t fun x => { x with request := some { r with overdue := true } }).event x.lrec.part (retOf c) (siteOf c) 0x0004 1
        (bytesLE 4 x.lrec.grid.toNat ++ bytesLE 4 x.lin ++ bytesLE 1 e.2.gid ++ bytesLE 1 y.1 ++ bytesLE 1 r.source ++ bytesLE 1 0 ++ bytesLE 4 (s.ret (retOf c)).preemptWin ++ bytesLE 8 y.2.pc.toNat))

/-! ### Donation (R282, R283) -/

/-- The enabled cores of a cluster have no candidate, and a group slot of one is free (R282). -/
def State.clusterIdle (s : State) (ret k : Nat) : Bool :=
  let l := [ret * 72 + 2 * k, ret * 72 + 2 * k + 1].filter s.enabled
  l.all (fun c => (s.ranked c).isEmpty) && l.any fun c => decide ((s.core c).groups.length < 32)

/-- The clusters that an idle cluster asks, in order: ascending from behind the last one asked, wrapping. -/
def State.askOrder (s : State) (ret k : Nat) : List Nat :=
  let last := (s.cluster ret k).askedLast
  ((List.range 36).map fun i => (last + 1 + i) % 36).filter fun j => decide (j ≠ k) && s.clusterOn ret j

/-- IDLE_CLUSTER (R282): the cluster of the step's index notes that it is idle, or no longer, and after 1,024 reference cycles sends a steal request. -/
def execIdleCluster (s : State) : Host.Outcome State Fault Refusal :=
  let ret := s.cur.ret
  let k := s.cur.idx
  let x := s.cluster ret k
  .next (
    if !s.clusterIdle ret k then s.modCluster ret k fun x => { x with idleSince := none, askRound := 0 }
    else match x.idleSince with
      | none => s.modCluster ret k fun x => { x with idleSince := some s.now }
      | some t =>
        if t + 1024 ≤ s.now ∧ !x.asking then
          match s.askOrder ret k with
          | [] => s
          | v :: _ => (s.modCluster ret k fun x => { x with asking := true, askedLast := v }).post { ret := ret, idx := v } (.stealRequest ret v k)
        else s)

/-- IDLE_CLUSTER has something to do. -/
def State.mayIdle (s : State) (ret k : Nat) : Bool :=
  let x := s.cluster ret k
  let idle := s.clusterIdle ret k
  (!idle && x.idleSince.isSome) || (idle && (match x.idleSince with
    | none => true
    | some t => decide (t + 1024 ≤ s.now) && !x.asking && !(s.askOrder ret k).isEmpty))

/-- Forwarding entries of a core that are taken, or that teams on their way to another cluster will take (R283). -/
def State.forwardsTaken (s : State) (h : Nat) : Nat :=
  (s.core h).forwards.length + (s.teams.filter fun e => decide (e.2.stage = .entry) && decide (e.2.home = h) && decide (e.2.core / 2 ≠ h / 2)).length

/-- Entries, up to `n` of them, that a cluster can take together: each fits beside those before it, in the thief's list (R276) and among the forwarding entries of its home (R283). -/
def State.takeable (s : State) (ret thief : Nat) : Nat → List Nat → List Nat
  | 0, _ => []
  | _, [] => []
  | n + 1, t :: l =>
    let a := s.donationCore ret thief
    match (if s.entriesAt ret thief < 64 ∧ s.forwardsTaken (s.team t).home < 64 then s.place? a (s.team t).lrec else none) with
    | some p => t :: (s.takePlace a t p).takeable ret thief n l
    | none => s.takeable ret thief (n + 1) l

/-- Unstarted entries of a victim that a thief may take (R282, R283), in rank order. -/
def State.stealable (s : State) (ret victim thief : Nat) : List Nat :=
  let cores := [ret * 72 + 2 * victim, ret * 72 + 2 * victim + 1]
  let held (t : Nat) : Bool := cores.any fun c => match (s.core c).reserve with
    | some r => decide (r.team = t)
    | none => false
  s.takeable ret thief 4 (sortBy (fun a b => decide ((s.team b).lrec.prio < (s.team a).lrec.prio)) ((s.cluster ret victim).entries.filter fun t =>
    decide ((s.team t).stage = .entry) && !s.placed t && decide ((s.team t).lrec.cls ≠ 0) && !held t))

/-- STEAL_REQUEST (R282): the victim answers with up to four entries. -/
def execStealRequest (ret victim thief : Nat) (s : State) : Host.Outcome State Fault Refusal :=
  let l := s.stealable ret victim thief
  let s := s.modCluster ret victim fun x => { x with entries := x.entries.filter fun t => !l.contains t }
  let s := [ret * 72 + 2 * victim, ret * 72 + 2 * victim + 1].foldl (fun s c => s.modCore c fun k => { k with misfit := match k.misfit with
    | some m => if l.contains m.1 then none else some m
    | none => none }) s
  let s := l.foldl (fun s t => s.modTeam t fun x => { x with core := ret * 72 + 2 * thief }) s
  .next (s.post { ret := ret, idx := thief } (.stealAnswer ret thief l))

/-- STEAL_ANSWER (R282, R283): the thief takes the entries that are still sent to it; after a full round of empty answers it waits. A cluster without supply takes none (R19). -/
def execStealAnswer (ret thief : Nat) (teams : List Nat) (s : State) : Host.Outcome State Fault Refusal :=
  let n := (s.askOrder ret thief).length
  let x := s.cluster ret thief
  let sent := teams.filter fun t => decide ((s.team t).stage = .entry) && decide ((s.team t).core = ret * 72 + 2 * thief) && !x.entries.contains t
  .next (
    if !(s.ret ret).answers then s
    else if teams.isEmpty then
      if n ≤ x.askRound + 1 then
        (s.modCluster ret thief fun x => { x with askRound := 0 }).postIn 4096 { ret := ret, idx := thief } .stealBackoff
      else s.modCluster ret thief fun x => { x with asking := false, askRound := x.askRound + 1 }
    else s.modCluster ret thief fun x => { x with asking := false, askRound := 0, idleSince := none, entries := x.entries ++ sent })

/-- STEAL_BACKOFF (R282): the cluster of the step's index may ask again. -/
def execStealBackoff (s : State) : Host.Outcome State Fault Refusal :=
  .next (s.modCluster s.cur.ret s.cur.idx fun x => { x with asking := false })

/-! ### Eviction (R289, R290) -/

/-- The lowest free run of save units of a reticle. -/
def State.saveRun (s : State) (ret units : Nat) : Option Nat :=
  firstFit (s.ret ret).saveUsed units (s.ret ret).saveSize

/-- The save units that an image takes. -/
def saveUnits (l : List Byte) : Nat := (l.length + 65535) / 65536

/-- A team leaves its core: the dirty bytes of the core reach their home slices, where the core that it comes back to finds them (R400); its context is saved in the run of units, written to the save pool, and its storage freed. -/
def State.evictTo (s : State) (t u n : Nat) : State :=
  let s := s.release (s.team t).core 1 0 0xFFFFFFFF
  let v := s.context t
  let r := s.saveRet t
  let a := bitsOf (s.ret r).saveBase.toNat 55 16 * 65536 + u * 65536
  let img := s.saveImage (s.team t) v
  let s := s.homeWrites none (img.mapIdx fun i b => (a + i, b))
  let s := s.modRet r fun x => { x with saveUsed := insertBy (fun a b => decide (a.1 < b.1)) (u, n) x.saveUsed }
  ((s.dropPlace t).unforward t).modTeam t fun x => { x with stage := .evicted, saved := some v, saveAt := some (a, n), evictedAt := s.now, request := none, core := x.home }

/-- One team is evicted, where its save area has room (R289). -/
def State.evictOne (s : State) (t : Nat) : Option State :=
  let n := saveUnits (s.saveImage (s.team t) (s.context t))
  (s.saveRun (s.saveRet t) n).map fun u => s.evictTo t u n

/-- Teams evicted together, all or none (R40). -/
def State.evictAll (s : State) : List Nat → Option State
  | [] => some s
  | t :: l => match s.evictOne t with
    | some s => s.evictAll l
    | none => none

/-- The teams that leave with a team: a concurrent grid's all together (R40). -/
def State.leavers (s : State) (t : Nat) : List Nat :=
  if (s.team t).lrec.cls = 0 then (s.launchTeams (s.team t).launch).filter s.isResident else [t]

/-- A team and those that leave with it hold requests and are at blocking points (R42, R289), and no save pool of theirs waits for a slot to end (R326). -/
def State.mayEvict (s : State) (t : Nat) : Bool :=
  (s.team t).request.isSome && (s.leavers t).all fun u => s.canLeave u && !s.homeWaits (retOf (s.team u).core) (bitsOf (s.ret (s.saveRet u)).saveBase.toNat 55 16 * 65536)

/-- EVICTION (R289) of the step's team. -/
def execEviction (s : State) : Host.Outcome State Fault Refusal :=
  let t := s.cur.team
  .next (if s.mayEvict t then (s.evictAll (s.leavers t)).getD s else s)

/-- The teams that come back with a candidate, and their save areas, are ready: one of them that is lost ends its team first (R375). -/
def State.comesBack (s : State) (c t : Nat) : State :=
  match (s.returners t).findSome? fun u => (s.saveLost u).map fun a => (u, a) with
  | some e => s.endLost e.1 e.2
  | none =>
    if (s.returners t).any s.saveWaits then s
    else if (s.team t).lrec.cls ≠ 0 then s.readmit c t
    else (s.returnAll t).getD s

/-- RE_ADMISSION (R291): the next candidate of the step's core, where it is an evicted team. A concurrent grid comes back once all its teams fit. -/
def execReAdmission (s : State) : Host.Outcome State Fault Refusal :=
  let c := s.cur.core
  .next (match s.choice c with
    | some t => if (s.team t).stage = .evicted then s.comesBack c t else s
    | none => s)

/-! ### Abandonment (R372) -/

/-- A team restarts: its storage or its save area is released, what is held for it discarded, and it ranks as an evicted team whose condition holds. -/
def State.restart (s : State) (t : Nat) : State :=
  let s := s.discardHeld t
  let s := if s.isResident t then (s.dropPlace t).unforward t else s.freeSave t
  s.modTeam t fun x =>
    { x with stage := .evicted, saved := none, held := [], evictedAt := if x.stage = .evicted then x.evictedAt else s.now, request := none, gbar := none, gbarSent := false, drainSet := none, arrivals := [], abandoned := false, core := x.home }

/-- Every split of a team that is abandoned stops issuing: step 1 of R372. -/
def State.stopForRestart (s : State) (t : Nat) : State :=
  let s := s.modTeam t fun x => { x with abandoned := true, request := none }
  s.modCore (s.team t).core fun k =>
    { k with groups := k.groups.map fun e => if e.2.team = t then (e.1, { e.2 with splits := [], fences := [] }) else e, held := k.held.filter fun o => decide (o.team ≠ t) }

/-- Nothing that an abandoned team issued is still under way: its jobs have run to completion, and so have the accesses and operations of one that is resident. -/
def State.settled (s : State) (t : Nat) : Bool :=
  decide ((s.team t).jobs = 0) && (decide ((s.team t).stage = .evicted) || (s.groupsOf t).all fun e => e.2.pending.isEmpty && ((s.core (s.team t).core).opsOf e.1).isEmpty)

/-- The distributor abandons teams instead of evicting them: those that would leave together are all idempotent, and find no save run (R40, R372). -/
def State.mayStop (s : State) (t : Nat) : Bool :=
  s.isResident t && s.mayEvict t && ((s.leavers t).all fun u => (s.team u).idem) && (s.evictAll (s.leavers t)).isNone

/-- The abandoned teams that restart together: those of a concurrent grid (R40). -/
def State.restarters (s : State) (t : Nat) : List Nat :=
  if (s.team t).lrec.cls = 0 then (s.launchTeams (s.team t).launch).filter fun u => (s.team u).abandoned else [t]

/-- An abandoned team restarts once nothing is under way for it and those that restart with it (R372). -/
def State.mayRestart (s : State) (t : Nat) : Bool := (s.team t).abandoned && (s.restarters t).all s.settled

/-- ABANDONMENT (R372) of the step's team: the distributor stops it, with those of its concurrent grid; or a stopped one restarts. -/
def execAbandonment (s : State) : Host.Outcome State Fault Refusal :=
  let t := s.cur.team
  .next (
    if s.mayStop t then (s.leavers t).foldl State.stopForRestart s
    else if s.mayRestart t then (s.restarters t).foldl State.restart s
    else s)

/-! ### Steps -/

/-- The cores whose schedulers may have something to do: those that hold state, and those of candidates. -/
def State.schedCores (s : State) : List Nat :=
  (s.cores.map Prod.fst ++ s.teams.filterMap fun e => match e.2.stage with
    | .entry => some (s.entryCore (retOf e.2.core) (clusterOf e.2.core) e.1)
    | .evicted => some (s.homeNow e.1)
    | _ => none).eraseDups

/-- Steps of a core's scheduler. -/
def State.schedSteps (s : State) (c : Nat) : List Pend :=
  let u : Cur := { core := c, ret := retOf c }
  (match s.choice c with
    | some t => if (s.team t).stage ≠ .evicted then [⟨u, .admission⟩]
      else if (s.returners t).any s.saveWaits && !(s.returners t).any fun u => (s.saveLost u).isSome then [] else [⟨u, .reAdmission⟩]
    | none => [])
  ++ (if s.works c && s.mayReserve c then [⟨u, .reservation⟩] else [])
  ++ (match (s.core c).reserve with
    | some r => if s.works c ∧ r.since + 4096 ≤ s.now ∧ !s.placed r.team ∧ !s.fits c r.team ∧ !s.timed u .reservationPreemption then [⟨u, .reservationPreemption⟩] else []
    | none => [])

/-- Steps of a team. -/
def State.teamSteps (s : State) (t : Nat) : List Pend :=
  let x := s.team t
  let u : Cur := { team := t, core := x.core, ret := retOf x.core }
  (if s.teamOver t then [⟨u, .teamEnd⟩] else [])
  ++ (if s.mayEvict t && (s.evictAll (s.leavers t)).isSome then [⟨u, .eviction⟩] else [])
  ++ (if s.mayStop t || s.mayRestart t then [⟨u, .abandonment⟩] else [])
  ++ (if s.overdue t then [⟨u, .preemptionOverdue⟩] else [])
  ++ (let h := s.homeNow t
      let v : Cur := { team := t }
      if x.stage = .evicted ∧ s.wakes t ∧ s.works h ∧ !s.fits h t ∧ !s.timed v .preemptionRequestRepeat then [⟨v, .preemptionRequestRepeat⟩] else [])

/-- Steps of a reticle's distributor and clusters. -/
def State.distSteps (s : State) (ret : Nat) : List Pend :=
  (if s.distributes ret then [⟨{ ret := ret }, .launchRecordRead⟩] else [])
  ++ ((List.range 36).filter (s.mayIdle ret)).map fun k => ⟨{ ret := ret, idx := k }, .idleCluster⟩

end Sys2Proof.Machine
end

