-- ==== Sys2Proof/Machine/Command.lean ====
section
/-! DEFINITION. The system queue (R328): records, their answers and the fields that refuse them. -/

namespace Sys2Proof.Machine

/-- A host link by its number (R330). -/
def State.link (s : State) (l : Nat) : HostLink := if l = 0 then s.link0 else s.link1

def State.setLink (s : State) (l : Nat) (x : HostLink) : State := if l = 0 then { s with link0 := x } else { s with link1 := x }

/-- The fabric address of the record that a link executes next. -/
def State.recordAt (s : State) (l : Nat) : Nat := (s.link l).sq.slot 64 (s.link l).sq.head

/-- Status, refused field and result of a record (R328), written at its address. -/
def State.answer (s : State) (a status field result : Nat) : State :=
  s.unitWrites (faRet a) (a + 56) (bytesLE 1 status ++ bytesLE 3 field ++ bytesLE 4 result)

/-- The record has been taken from its queue. -/
def State.taken (s : State) (l : Nat) : State :=
  s.setLink l { s.link l with sq := { (s.link l).sq with head := (s.link l).sq.head + 1 } }

/-- A record done with a result. -/
def State.doneWith (s : State) (l result : Nat) : State := (s.answer (s.recordAt l) 1 0 result).taken l

/-- A record refused, naming the bit offset of a field. -/
def State.refusedAt (s : State) (l field : Nat) : State := (s.answer (s.recordAt l) 2 field 0).taken l

/-- The first operand byte, from byte 4, that is not listed and not 0 (R329). -/
def badByte (rec : List Byte) (used : Nat → Bool) : Option Nat :=
  ((List.range 52).map (· + 4)).find? fun i => !used i && decide (rec.getD i 0 ≠ 0)

/-- A command whose unlisted operand bytes are 0; otherwise it is refused, naming the first of them. -/
def State.command (s : State) (l : Nat) (rec : List Byte) (used : Nat → Bool) (f : State → State) : Host.Outcome State Fault Refusal :=
  if rec.getD 3 0 ≠ 0 then .next (s.refusedAt l 24)
  else match badByte rec used with
  | some i => .next (s.refusedAt l (8 * i))
  | none => .next (f s)

/-- An operand of `n` bytes at byte `i`. -/
def operand (rec : List Byte) (i n : Nat) : Nat := fieldLE rec i n

/-- The reticle of a host link: reticle 0 for link 0 and 63 for link 1 (R20). -/
def linkRet (l : Nat) : Nat := if l = 0 then 0 else 63

/-- Host traffic of a link, which enters the fabric at the endpoint of the link's reticle (R20), reaches a reticle: that endpoint answers, and a plane carries the packet there. -/
def State.hostReaches (s : State) (l wafer ret : Nat) : Bool :=
  let e := linkRet l
  (s.ret e).answers && (decide (wafer = s.wafer ∧ ret = e) || decide (s.route e (s.ret e).bank wafer ret ≠ .held))

end Sys2Proof.Machine
end

