-- ==== Sys2Proof/Machine/Jobs.lean ====
section
/-! DEFINITION. The steps of engine jobs: forwarding, segments, landings and completion (R249, R252–R254, R259–R262, R266, R267). -/

namespace Sys2Proof.Machine

/-! ### Where a job stands -/

/-- The unit of a job's steps. -/
def jobUnit (c : Nat) (j : Job) : Cur := { core := c, slot := j.slot, team := j.team, ret := retOf c, idx := j.id }

/-- The jobs of a reticle's cores, by core. -/
def State.retJobs (s : State) (r : Nat) : List (Nat × Job) :=
  (s.cores.filter fun k => decide (retOf k.1 = r)).flatMap fun k => k.2.jobs.map fun j => (k.1, j)

/-- Its issuing group's role has `COMM` (R33, R259). -/
def State.commJob (s : State) (j : Job) : Bool :=
  match (s.team j.team).lrec.groupRoles[j.gid]? with
  | some r => r.2.getLsbD 28
  | none => false

/-- Packets of a job that are neither acknowledged nor refused. -/
def State.packetsOut (s : State) (tag : Nat) : Nat :=
  ((s.ret (tag % 64)).tx.filter fun t => decide (pktTag t.pkt = tag) && decide (t.pkt.op = 1)).length

/-- The job that the endpoint engine takes next (R259): `COMM` roles first, then one job per core in round-robin order of site. -/
def State.endpointNext (s : State) (r : Nat) : Option (Nat × Nat) :=
  let l := (s.retJobs r).filter fun e => e.2.remote && e.2.forwarded && decide (e.2.pos = 0) && e.2.error.isNone
  let comm := l.filter fun e => s.commJob e.2
  let last := (s.ret r).epLast
  let rank (e : Nat × Job) : Nat := (siteOf e.1 + 71 - last % 72) % 72
  (firstBy (fun a b => decide (rank a < rank b)) (if comm.isEmpty then l else comm)).map fun e => (e.1, e.2.id)

/-- Engines of a reticle may start segments (R261). -/
def State.engineOpen (s : State) (r : Nat) : Bool := !(s.ret r).inSlot && decide (2000 < s.slotNext r)

/-- A job has a segment, or its one step, still to start and may start it now (R248, R259–R262). -/
def State.mayStart (s : State) (c : Nat) (j : Job) : Bool :=
  let r := retOf c
  s.allIssued j && j.after.isEmpty && j.error.isNone && (
    if j.cmd ≤ 2 ∨ j.cmd = 8 then
      decide (j.pos < s.jobCount j) && s.engineOpen r && (decide (0 < j.pos) || decide ((s.running c).length < 4))
    else if j.cmd = 7 then decide (j.pos = 0) && decide ((s.running c).length < 4)
    else if j.remote then
      j.forwarded && decide (j.pos < s.jobCount j) && s.engineOpen r
        && (decide (0 < j.pos) || (decide (((s.retJobs r).filter fun e => e.2.remote && decide (0 < e.2.pos)).length < 256) && decide (s.endpointNext r = some (c, j.id))))
    else j.forwarded && s.engineOpen r && (decide (j.pos < (s.planOf j).work) || s.mayFold c j))

/-- A remote or collective job may pass to its reticle unit (R259). -/
def State.mayForward (s : State) (c : Nat) (j : Job) : Bool :=
  (j.remote || decide (j.cmd = 6)) && s.allIssued j && j.after.isEmpty && !j.forwarded && j.error.isNone
    && (if j.cmd = 6 then decide ((s.ret (retOf c)).colls.length < 64) else decide (((s.retJobs (retOf c)).filter fun e => e.2.remote && e.2.forwarded).length < 1024))

/-- JOB_FORWARD (R256, R259): the step's job passes to the endpoint engine or the collective unit. -/
def execJobForward (s : State) : Host.Outcome State Fault Refusal :=
  let c := s.cur.core
  .next (match s.job? c s.cur.idx with
    | none => s
    | some j =>
      if !s.mayForward c j then s
      else if j.cmd ≠ 6 then s.modJob c j.id fun x => { x with forwarded := true }
      else if rankOk (j.words.getD 4 0) (j.words.getD 5 0) (s.team j.team).lrec (s.team j.team).lin then s.startColl c j
      else s.modJob c j.id fun x => { x with error := some { reason := 6 } })

/-! ### Segments of remote operations -/

/-- The fabric address that stands for a target reticle. -/
def targetBase (wafer r : Nat) : Nat := wafer * 2 ^ 42 + r * 2 ^ 36

/-- The wafer and reticle of a remote operation (R252, R299). -/
def State.jobTarget (s : State) (j : Job) : Nat × Nat :=
  (s.targetWafer j.team (word j.words 6), keyRet (j.words.getD (if j.cmd = 3 then 2 else 0) 0))

/-- The header of a remote operation's packets (R304). -/
def State.jobPacket (s : State) (c : Nat) (j : Job) : Packet :=
  let t := s.jobTarget j
  let w := word j.words 6
  { op := if j.cmd = 3 then 1 else if j.cmd = 4 then 2 else 4, part := s.partOf (retOf c), key := j.words.getD (if j.cmd = 3 then 2 else 0) 0, team := if w < 2 ^ 24 then BitVec.ofNat 32 w else 0xFFFFFFFF, tagRet := retOf c, tagSite := siteOf c, tagSeq := j.id, dstWafer := t.1, dstRet := t.2, bank := j.bank }

/-- Lengths of at most 4,096 that make up `n`, with their offsets. -/
def packetParts : Nat → Nat → Nat → List (Nat × Nat)
  | 0, _, _ => []
  | k + 1, o, n => if n = 0 then [] else (o, min n 4096) :: packetParts k (o + min n 4096) (n - min n 4096)

/-- A segment of an `nput` has been read: its packets belong to the endpoint (R252, R260). Those of an ordered job take one path (R298). -/
def State.putSegment (s : State) (c : Nat) (j : Job) (i : Nat) (l : Landing) : State :=
  let w := j.words
  let r := retOf c
  let k := s.jobPacket c j
  let b := l.pieces.flatMap fun e => e.2.2.2
  let ordered := bitOf j.var 1
  let rt := s.again r { k with ordered := ordered, ord := l.lo / 4096 }
  let path : Option Route := if ordered then some (match j.path with
    | some p => if s.pathUsable r k.dstWafer k.dstRet p then pathRoute (some p) else rt
    | none => rt) else none
  let bar := if word w 7 = 0xFFFFFFFF then none else some (w.getD 7 0)
  let n := packetParts 16 0 (l.hi - l.lo)
  let s := n.foldl (fun (s : State) (e : Nat × Nat) =>
    s.send r { k with ordered := ordered, ord := (l.lo + e.1) / 4096, offset := mkD (w.getD 4 0) (w.getD 3 0) + BitVec.ofNat 64 (l.lo + e.1), len := e.2, bar := bar, payload := (b.drop e.1).take e.2 } c j.card path) s
  let tag := jobTag c j.id
  let s := if j.far then
      s.modGroupOf j.team j.gid fun x =>
        { x with posted := if x.posted.any fun p => decide (p.job = tag) then x.posted.map fun p => if p.job = tag then { p with left := p.left + n.length } else p
          else x.posted ++ [{ job := tag, src := place1 w 0 (bitOf j.var 0), len := word w 5, scratch := bitOf j.var 0, left := n.length }] }
    else s
  (s.setSegment c j i { l with pieces := [] }).modJob c j.id fun x => { x with path := if ordered then path.bind Route.number else x.path }

/-- The next segment of an `nget`: requests for at most 64 KiB (R253, R260). -/
def State.ngetSegment (s : State) (c : Nat) (j : Job) : State :=
  let w := j.words
  let stop := min (word w 3) (j.pos + 65536)
  let k := s.jobPacket c j
  let l := packetParts 16 0 (stop - j.pos)
  let s := l.foldl (fun (s : State) (e : Nat × Nat) => s.send (retOf c) { k with offset := mkD (w.getD 2 0) (w.getD 1 0) + BitVec.ofNat 64 (j.pos + e.1), len := e.2 } c j.card none) s
  s.modJob c j.id fun x => { x with pos := stop, seg := x.seg + 1, acks := x.acks + l.length, flight := x.flight ++ [{ lo := j.pos, hi := stop, num := j.seg, reads := [(j.pos, stop)] }] }

/-- The one request of an `natom` (R254). -/
def State.natomSegment (s : State) (c : Nat) (j : Job) : State :=
  let w := j.words
  let s := s.send (retOf c) { s.jobPacket c j with offset := mkD (w.getD 2 0) (w.getD 1 0), len := 4, atomOp := word w 5 % 256, payload := bytesLE 4 (word w 3) ++ bytesLE 4 (word w 4) } c j.card none
  s.modJob c j.id fun x => { x with pos := 4, seg := x.seg + 1, acks := 1, flight := [{ hi := 4, num := j.seg, reads := [(0, 4)] }] }

/-- The source firewall (R295): a target outside the partition ends the job, and the address is logged. -/
def State.outside (s : State) (c : Nat) (j : Job) (fa : Nat) : State :=
  (s.modRet (retOf c) fun r => { r with logged := BitVec.ofNat 64 fa :: r.logged }).stopJob c j j.seg { reason := 3, space := 2, addr := BitVec.ofNat 64 fa }

/-- A segment of a remote operation. -/
def State.remoteSegment (s : State) (c : Nat) (j : Job) : State :=
  let t := s.jobTarget j
  let s := if j.pos = 0 then s.modRet (retOf c) fun r => { r with epLast := siteOf c } else s
  if !s.inPart (retOf c) (targetBase t.1 t.2) then s.outside c j (targetBase t.1 t.2)
  else if j.cmd = 3 then s.startSegment c j
  else if j.cmd = 4 then s.ngetSegment c j
  else s.natomSegment c j

/-- The next step of a collective: its first stage, else a folded unit (R308, R340); once the operand is read, chunks that waited for that land. -/
def State.collStep (s : State) (c : Nat) (j : Job) : State :=
  if j.pos < (s.planOf j).work then (s.collSegment c j).takeWaiting c j.id else s.foldedSegment c j

/-- An `nswap` takes its place; one whose phase has completed while it waited for one flips now (R257, R259; log 92). -/
def State.startSwap (s : State) (c : Nat) (j : Job) : State :=
  if j.counted ≠ 0 then s.flipBank c j else s.modJob c j.id fun x => { x with pos := 1 }

/-- SEGMENT_START (R260, R261) of the step's job. -/
def execSegmentStart (s : State) : Host.Outcome State Fault Refusal :=
  let c := s.cur.core
  .next (match s.job? c s.cur.idx with
    | none => s
    | some j =>
      if !s.mayStart c j then s
      else if j.cmd ≤ 2 then s.startSegment c j
      else if j.cmd = 7 then s.startSwap c j
      else if j.cmd = 8 then s.runWays c j
      else if j.cmd = 6 then s.collStep c j
      else s.remoteSegment c j)

/-! ### Landings -/

/-- A step of a segment has something to do: bytes that have been read or have come are to land, or, but for what other reticles answer, are to be read. -/
def Job.works (j : Job) (l : Landing) : Bool := !l.pieces.isEmpty || (decide (j.cmd ≠ 4 ∧ j.cmd ≠ 5) && !l.over)

/-- The segments of a job that may go on, by place: any of them, but of `sct` and `nput` the first (R251, R298). -/
def Job.workable (j : Job) : List Nat :=
  let l := (List.range j.flight.length).filter fun i => j.works (j.flight.getD i {})
  if j.cmd = 2 ∨ j.cmd = 3 then l.take 1 else l

/-- A step of segment `i` of a job: more of its bytes are read, or a run of bytes lands, as the part takes it (R122, R260); the packets of an `nput`, and the chunk of a collective's send, are formed when all are read. -/
def State.segmentWork (s : State) (c : Nat) (j : Job) (i : Nat) (l : Landing) : State :=
  if j.cmd = 6 then (if l.reads.isEmpty then s.landResult c j i l else s.readChunk c j i l)
  else if j.cmd = 4 ∨ j.cmd = 5 then s.landSome c j i l
  else if j.cmd = 3 then (if l.reads.isEmpty then s.putSegment c j i l else s.readSome c j i l)
  else if l.reads.isEmpty then s.landSome c j i l
  else if l.mayLand j.cmd then
    let k := s.choose 2
    if k.1 = 1 then k.2.readSome c j i l else k.2.landSome c j i l
  else s.readSome c j i l

/-- Chunks wait that a job's collective can take now. -/
def State.chunksWait (s : State) (c : Nat) (j : Job) : Bool := decide (j.cmd = 6) && j.forwarded && j.error.isNone && (s.ret (retOf c)).chunks.any (s.chunkOpen j)

/-- LANDING (R260, R266): a started segment of the step's job goes on; a collective takes the chunks that wait for it. -/
def execLanding (s : State) : Host.Outcome State Fault Refusal :=
  let c := s.cur.core
  .next (match s.job? c s.cur.idx with
    | none => s
    | some j =>
      if s.chunksWait c j then s.takeWaiting c j.id
      else
        let k := s.choose j.workable.length
        match j.workable[k.1]? with
        | none => s
        | some i => (k.2.asJob c j).segmentWork c j i (j.flight.getD i {}))

/-! ### Completion -/

/-- The group and record of a posted `nput`, wherever its team stands. -/
def State.postedOf (s : State) (tag : Nat) : Option (Nat × Nat × Posted) :=
  let of (x : Group) : Option (Nat × Nat × Posted) := (x.posted.find? fun p => decide (p.job = tag)).map fun p => (x.team, x.gid, p)
  match s.cores.findSome? fun k => k.2.groups.findSome? fun e => of e.2 with
  | some r => some r
  | none => s.teams.findSome? fun t => match t.2.saved with
    | some v => v.groups.findSome? of
    | none => none

/-- Releases of a group no longer wait for an `nput` (R125). -/
def Group.forget (x : Group) (tag : Nat) : Group :=
  ({ x with fences := x.fences.map fun f => { f with jobs := f.jobs.filter fun t => decide (t ≠ tag) } } : Group).dropFences

/-- An `nput` whose job has ended and whose packets are all acknowledged or refused is done (R125, R270). -/
def State.settle (s : State) (tag : Nat) : State :=
  match s.postedOf tag with
  | none => s
  | some (t, gid, p) =>
    if p.left ≠ 0 ∨ s.jobLives tag then s
    else
      let s := s.modGroupOf t gid fun x => { x.forget tag with posted := x.posted.filter fun q => decide (q.job ≠ tag) }
      if p.counted then s else s.modTeam t fun x => { x with don := x.don + 1 }

/-- The collective of a job is complete at its rank. -/
def State.collDone (s : State) (c : Nat) (j : Job) : Bool :=
  match s.coll? c j.id with
  | none => false
  | some x => decide (j.pos = (s.planOf j).work) && decide (x.out = (s.planOf j).second) && x.parts.isEmpty && decide (x.landed = (s.planOf j).result)

/-- The team of a job runs on the job's core. A job of any other ends only when what its core's L1 holds dirty can reach its home, where the team finds it (R120, R400). -/
def State.atHome (s : State) (c : Nat) (j : Job) : Bool := s.isResident j.team && decide ((s.team j.team).core = c)

/-- A job has ended, with or without error, and its end is still to be signalled. -/
def State.jobOver (s : State) (c : Nat) (j : Job) : Bool :=
  s.allIssued j && (s.atHome c j || s.releasable c 1 0 0xFFFFFFFF) && (j.error.isSome || (j.flight.isEmpty && decide (j.pos = (if j.cmd = 6 then (s.planOf j).work else s.jobCount j)) && (match j.cmd with
    | 3 => j.far || decide (s.packetsOut (jobTag c j.id) = 0)
    | 4 => decide (j.acks = 0)
    | 5 => decide (j.acks = 0)
    | 6 => s.collDone c j
    | 7 => false
    | _ => true)))

/-- The end of a job (R124, R246, R249, R267, R270). -/
def State.finishJob (s : State) (c : Nat) (j : Job) : State :=
  let tag := jobTag c j.id
  let s := if s.atHome c j then s else s.release c 1 0 0xFFFFFFFF
  let r : Bool × State := match j.compl with
    | .barrier a par => s.countInto j.team a par (s.jobCount j - j.counted) (some (c, j.id))
    | _ => (false, s)
  let err : Option JobError := match j.error, j.compl with
    | none, .barrier a _ => if r.1 then some { reason := 9, space := 1, addr := BitVec.ofNat 64 a } else none
    | e, _ => e
  let s : State := r.2
  let s := if j.cmd = 6 ∧ j.forwarded then (if err.isSome then s.spreadFailure c j else s).endColl c j else s
  let out : Nat := s.packetsOut tag
  if j.cmd = 3 then
    let s := s.endJob c j.id err (!j.far && decide (out = 0))
    let s := if j.far then
        (if (s.postedOf tag).isSome then s
         else (s.modGroupOf j.team j.gid fun x => x.forget tag).modTeam j.team fun x => { x with don := x.don + 1 })
      else if out = 0 then s
      else s.modGroupOf j.team j.gid fun x => { x with posted := x.posted ++ [{ job := tag, left := out, refused := true }] }
    s.settle tag
  else s.endJob c j.id err true

/-- JOB_COMPLETION (R249, R262) of the step's job. -/
def execJobCompletion (s : State) : Host.Outcome State Fault Refusal :=
  let c := s.cur.core
  .next (match s.job? c s.cur.idx with
    | none => s
    | some j => if s.jobOver c j then (s.asJob c j).finishJob c j else s)

/-- The steps of a core's jobs. -/
def State.jobSteps (s : State) (c : Nat) : List Pend :=
  (s.core c).jobs.flatMap fun j =>
    let u := jobUnit c j
    (if s.mayForward c j then [⟨u, .jobForward⟩] else [])
    ++ (if s.mayStart c j then [⟨u, .segmentStart⟩] else [])
    ++ (if !j.workable.isEmpty || s.chunksWait c j then [⟨u, .landing⟩] else [])
    ++ (if s.jobOver c j then [⟨u, .jobCompletion⟩] else [])

end Sys2Proof.Machine
end

