-- ==== Sys2Proof/Machine/Remote.lean ====
section
/-! DEFINITION. Packets that arrive (R126, R253, R254, R295, R301–R305, R378–R380), acknowledgements, refusals and retransmission (R304, R305, R385), and a key whose drain has ended (R302). -/

namespace Sys2Proof.Machine

/-! ### Admission at the target -/

/-- The storage addresses of a request to a memory region, all of them mapped, each with whether its page is cached. -/
def KeyEntry.span (e : KeyEntry) (off n : Nat) : Option (List (Nat × Bool)) :=
  (List.range n).foldr (fun i l => match e.page (off + i), l with
    | some t, some l => some ((t.1, pteCached t.2) :: l)
    | _, _ => none) (some [])

/-- The error response that a request to a memory region takes, at the first line that gives one: an unassigned or privileged target, a window through a cached page (R92, R93), a line that does not answer, or a lost one that the request does not write whole (R376). -/
def State.regionError (s : State) (write : Bool) (l : List (Nat × Bool)) : Option (Nat × Nat) :=
  let all := l.map Prod.fst
  l.findSome? fun e =>
    (match s.target e.1 with
    | .unassigned => some 1
    | .privileged => some 2
    | .window _ _ => if e.2 then some 3 else if s.dark e.1 then some 4 else none
    | .dram => if s.dark e.1 || (s.lost e.1 && !(write && (List.range 128).all fun i => all.contains (e.1 / 128 * 128 + i))) then some 4 else none).map fun i => (e.1, i)

/-- A request to a memory region waits in a slice for a slot to end (R103, R326). -/
def State.regionWaits (s : State) (e : KeyEntry) (k : Packet) : Bool :=
  match e.span k.offset.toNat k.len with
  | none => false
  | some l => l.any fun a => s.slotWaits a.1

/-- The place of the core whose job sent a packet (R38). -/
def issuerOf (k : Packet) : Nat := k.srcWafer * 8192 + k.tagRet * 128 + k.tagSite

/-- An admitted request at a memory region: performed at the home slices or window storage, acknowledged, answered and completed (R126, R127, R303); the slice notes an atomic as its core's (R100). -/
def State.serveMemory (s : State) (e : KeyEntry) (k : Packet) : State :=
  let r := k.dstRet
  match e.span k.offset.toNat k.len with
  | none => (s.refuseNew k 6).release1 r k.key
  | some l =>
    match s.regionError (decide (k.op = 1)) l with
    | some (fa, i) => ((s.report r { code := 10, info := i, fa := fa }).refuseNew k 6).release1 r k.key
    | none =>
      let l := l.map Prod.fst
      match k.op with
      | 1 => ((s.homeWrites none (l.zip k.payload)).ack k).release1 r k.key
      | 2 =>
        let x := s.homeReads none l
        ((x.2.ack k).answerWith k 3 x.1).release1 r k.key
      | _ =>
        let x := (s.noteAtomic (issuerOf k) (l.headD 0)).homeReads none l
        let old := wordLE x.1
        (((x.2.homeWrites none (l.zip ((List.range 4).map (byteOf (atomNew k old))))).ack k).answerWith k 5 ((List.range 4).map (byteOf old))).release1 r k.key

/-- The team of a team-bound region, live before ended ones (R303). -/
def State.keyTeam (s : State) (e : KeyEntry) : Option Nat :=
  match s.teamOf e.grid e.part e.team with
  | some t => some t
  | none => (s.teams.find? fun x => decide (x.2.lrec.grid = e.grid) && decide (x.2.lrec.part = e.part) && decide (x.2.lin = e.team)).map Prod.fst

/-- A request arrives (R295, R301, R303, R305, R378): a duplicate of an admitted packet is acknowledged and dropped, one of a refused packet is dropped, one of an ordered job that comes before its turn is dropped and comes again, one that fails a check is refused, and an admitted one is performed, or held while its team is not resident. -/
def State.request (s : State) (k : Packet) (right : Nat) : State :=
  let r := k.dstRet
  let j := keyIdx k.key
  let e := s.key r j
  if s.seen k then s.ack k
  else if s.refused k || s.early k then s
  else if k.part ≠ s.partOf r then (s.refuseNew k 3).firewall k
  else if !(s.ret r).answers then s.refuseNew k 6
  else if keyRet k.key ≠ r then s.refuseNew k 1
  else match e.refuses k right with
    | some reason => s.refuseNew k reason
    | none =>
      if 65535 ≤ e.inflight ∨ (e.kind = 0 ∧ s.regionWaits e k) then s.post (unitOf k) (arrivalOf k)
      else
        let t : State := (s.markSeen k).modKey r j fun e => { e with inflight := e.inflight + 1 }
        if e.kind = 0 then t.serveMemory e k
        else match s.keyTeam e with
          | none => s.post (unitOf k) (arrivalOf k)
          | some u =>
            if (s.team u).stage = .ended then (t.refuseNew k 6).release1 r k.key
            else if s.isResident u then t.serveTeam u e.tiles k
            else t.modTeam u fun x => { x with held := x.held ++ [{ tile := if e.tiles then some 0 else none, req := some k }] }

/-- PUT (R301, R303). -/
def execPut (pkt : Packet) (s : State) : Host.Outcome State Fault Refusal := .next (s.request pkt 1)

/-- GET_REQUEST (R253, R301). -/
def execGetRequest (pkt : Packet) (s : State) : Host.Outcome State Fault Refusal := .next (s.request pkt 0)

/-- ATOMIC (R254, R301). -/
def execAtomic (pkt : Packet) (s : State) : Host.Outcome State Fault Refusal := .next (s.request pkt 2)

/-! ### Answers at the initiator -/

/-- The job that a packet's tag names, on its core. -/
def State.tagJob (s : State) (k : Packet) : Option (Nat × Job) :=
  let c := k.tagRet * 72 + k.tagSite
  ((s.core c).jobs.find? fun j => decide (jobTag c j.id = pktTag k)).map fun j => (c, j)

/-- An answer has come for the bytes from `o` of a job's data: a request less is open, and its bytes are to land at `a` in the job's local destination, if anywhere, in any order (R122, R253, R254). -/
def State.landAnswer (s : State) (c : Nat) (j : Job) (o : Nat) (a : Option Int) (bytes : List Byte) : State :=
  let sp := spaceOf j.team (bitOf j.var 0)
  let s := s.modJob c j.id fun x => { x with acks := x.acks - 1 }
  match j.flight.findIdx? fun l => l.reads.any fun e => decide (e.1 ≤ o ∧ o < e.2) with
  | none => s
  | some i =>
    let l := j.flight.getD i {}
    let new := match a with
      | some a => [(o, sp, wrapAt sp a, bytes)]
      | none => []
    s.setSegment c j i { l with reads := cutFrom l.reads o bytes.length, pieces := l.pieces ++ new }

/-- The place in its job's data of an answer's first byte, and where it lands: no place for the result of an atomic that names none. -/
def Job.answerAt (j : Job) (k : Packet) : Nat × Option Int :=
  if j.cmd = 4 then
    let o := (k.offset - mkD (j.words.getD 2 0) (j.words.getD 1 0)).toNat
    (o, some ((place1 j.words 4 (bitOf j.var 0) : Nat) + (o : Nat)))
  else (0, if dword j.words 7 = 2 ^ 64 - 1 then none else some (place1 j.words 7 (bitOf j.var 0) : Nat))

/-- An answer of the endpoint of another reticle to a job of kind `cmd`: a duplicate is acknowledged and dropped. -/
def State.answered (s : State) (k : Packet) (cmd : Nat) (f : State → Nat → Job → State) : State :=
  if s.seen k then s.ack k
  else if s.refused k then s
  else if k.part ≠ s.partOf k.dstRet then (s.refuseNew k 3).firewall k
  else match s.tagJob k with
    | none => (s.markSeen k).ack k
    | some (c, j) =>
      if j.cmd ≠ cmd ∨ j.error.isSome then (s.markSeen k).ack k
      else f ((s.markSeen k).ack k) c j

/-- GET_DATA (R253): the data land as the offset of the packet places them. -/
def execGetData (pkt : Packet) (s : State) : Host.Outcome State Fault Refusal :=
  .next (s.answered pkt 4 fun s c j => s.landAnswer c j (j.answerAt pkt).1 (j.answerAt pkt).2 pkt.payload)

/-- ATOMIC_RESULT (R254): the old value lands where a result address is named. -/
def execAtomicResult (pkt : Packet) (s : State) : Host.Outcome State Fault Refusal :=
  .next (s.answered pkt 5 fun s c j => s.landAnswer c j (j.answerAt pkt).1 (j.answerAt pkt).2 pkt.payload)

/-! ### Acknowledgements and refusals -/

/-- The packet of an endpoint by its sequence number, while it is outstanding. -/
def State.sent? (s : State) (r psn : Nat) : Option TxPacket := (s.ret r).tx.find? fun t => decide (t.pkt.psn = psn)

/-- A packet is no longer outstanding at its endpoint; its port counts it as acknowledged (R311). -/
def State.retire (s : State) (r : Nat) (t : TxPacket) : State :=
  let s := s.modRet r fun x => { x with tx := x.tx.filter fun y => decide (y.pkt.psn ≠ t.pkt.psn) }
  match t.port with
  | some p => s.modPort p fun x => { x with psnAcked := x.psnAcked + 1 }
  | none => s

/-- A change to the record of a posted `nput`. -/
def State.modPosted (s : State) (tag : Nat) (f : Posted → Posted) : State :=
  match s.postedOf tag with
  | none => s
  | some (t, gid, _) => s.modGroupOf t gid fun x => { x with posted := x.posted.map fun p => if p.job = tag then f p else p }

/-- A packet of an `nput` is acknowledged or refused. -/
def State.oneDone (s : State) (t : TxPacket) : State :=
  if t.pkt.op = 1 then (s.modPosted (pktTag t.pkt) fun p => { p with left := p.left - 1 }).settle (pktTag t.pkt) else s

/-- ACKNOWLEDGEMENT (R126, R305) at an endpoint, of a packet it sent. -/
def execAcknowledgement (ret psn : Nat) (s : State) : Host.Outcome State Fault Refusal :=
  .next (match s.sent? ret psn with
    | some t => (s.retire ret t).oneDone t
    | none => s)

/-- The reason of R264 for a NACK's (R304). -/
def nackReason (n : Nat) : Nat := if n = 3 ∨ n = 6 then 3 else 5

/-- The segment of its job that a packet belongs to: of `nput` and `nget` by its offset from the target's first byte. -/
def TxPacket.segment (t : TxPacket) : Nat :=
  let w (i : Nat) : Word := t.card.getD (i + 1) 0
  match t.pkt.op with
  | 1 => (t.pkt.offset - mkD (w 4) (w 3)).toNat / 65536
  | 2 => (t.pkt.offset - mkD (w 2) (w 1)).toNat / 65536
  | _ => 0

/-- The log entry of a posted `nput`: the card as issued, the reason and the target (R304, R385). -/
def TxPacket.failure (t : TxPacket) (reason : Nat) : FailedJob :=
  { card := t.card, word := JobError.word { reason := reason, space := 2 } t.segment, addr := BitVec.ofNat 64 (targetBase t.pkt.dstWafer t.pkt.dstRet) }

/-- The one error log entry of a posted `nput` whose team has ended: none where a packet of it has been logged before (R304, R385). -/
def State.logOnce (s : State) (t : TxPacket) (reason : Nat) : State :=
  let tag := pktTag t.pkt
  if t.logged then s
  else
    let s := (s.logJob t.core (t.failure reason)).2
    s.modRet (tag % 64) fun x => { x with tx := x.tx.map fun y => if pktTag y.pkt = tag ∧ y.pkt.op = 1 then { y with logged := true } else y }

/-- The first refusal of a posted `nput` (R304): logged once, its releases go on, and it joins the group's unreported failed jobs. -/
def State.refusePosted (s : State) (t : TxPacket) (reason : Nat) : State :=
  let tag := pktTag t.pkt
  match s.postedOf tag with
  | some (u, gid, p) =>
    if p.refused ∨ p.counted then s
    else
      let r := s.logJob t.core (t.failure reason)
      r.2.modGroupOf u gid fun x => { x.forget tag with failed := x.failed ++ [r.1], posted := x.posted.map fun q => if q.job = tag then { q with refused := true } else q }
  | none => s.logOnce t reason

/-- A packet of a job is refused or given up: a posted `nput` takes it aside, any other job stops (R304, R385). -/
def State.jobPacketFails (s : State) (t : TxPacket) (reason : Nat) (posted : State → State) : State :=
  let stop (c : Nat) (j : Job) : State := s.stopJob c j (if t.pkt.op = 6 then j.seg else t.segment) { reason := reason, space := 2, addr := BitVec.ofNat 64 (targetBase t.pkt.dstWafer t.pkt.dstRet) }
  match s.tagJob t.pkt with
  | some (c, j) => if j.far then posted s else if j.error.isSome then s else stop c j
  | none => if t.pkt.op = 1 then posted s else s

/-- The operations whose packets belong to a job of their sender: put, get request, atomic and collective chunk. -/
def ofJob (op : Nat) : Bool := decide (op = 1) || decide (op = 2) || decide (op = 4) || decide (op = 6)

/-- SEMANTIC_NACK (R304) at the initiator. -/
def execSemanticNack (pkt : Packet) (s : State) : Host.Outcome State Fault Refusal :=
  let r := pkt.dstRet
  .next (
    if s.seen pkt then s.ack pkt
    else if s.refused pkt then s
    else if pkt.part ≠ s.partOf r then (s.refuseNew pkt 3).firewall pkt
    else
      let s := (s.markSeen pkt).ack pkt
      match s.sent? r pkt.len with
      | none => s
      | some t =>
        let reason := nackReason (pkt.offset.toNat % 256)
        let s := s.retire r t
        if ofJob t.pkt.op then (s.jobPacketFails t reason fun s => s.refusePosted t reason).oneDone t else s)

/-- PACKET_DELIVERY_NACK (R305): the packet is sent again as a further attempt, up to the eighth. -/
def execPacketDeliveryNack (ret psn : Nat) (s : State) : Host.Outcome State Fault Refusal :=
  .next (match s.sent? ret psn with
    | some t => if t.attempt < 8 then s.resend ret t else s
    | none => s)

/-- A posted `nput` at the retransmission limit (R385): logged and counted as done, and never acknowledged. -/
def State.giveUpPosted (s : State) (t : TxPacket) : State :=
  let tag := pktTag t.pkt
  match s.postedOf tag with
  | some (u, gid, p) =>
    if p.counted then s
    else
      let s := if p.refused then s else (s.logJob t.core (t.failure 10)).2
      (s.modGroupOf u gid fun x => { x with posted := x.posted.map fun q => if q.job = tag then { q with counted := true } else q }).modTeam u fun x => { x with don := x.don + 1 }
  | none => s.logOnce t 10

/-- An answer is given up at the retransmission limit: the `nget` or `natom` that waits for it ends with reason 10, where its core stands on this wafer (R305, R385). -/
def State.answerFails (s : State) (t : TxPacket) : State :=
  if t.pkt.dstWafer ≠ s.wafer then s
  else match s.tagJob t.pkt with
    | some (c, j) => if j.remote && j.error.isNone then s.stopJob c j ((j.answerAt t.pkt).1 / 65536) { reason := 10, space := 2, addr := BitVec.ofNat 64 (targetBase t.pkt.srcWafer t.pkt.srcRet) } else s
    | none => s

/-- A chunk is held back by the full buffer of the reticle that it has come to: its sender's timer does not count against it (R309). -/
def State.heldBack (s : State) (k : Packet) : Bool :=
  decide (k.op = 6) && decide (k.dstWafer = s.wafer) && s.chunkFull k && s.agenda.any fun e => decide (e.ins = .collectiveChunk k)

/-- RETRANSMISSION_TIMEOUT (R305, R385): the packet goes out again, or after the eighth attempt is given up. -/
def execRetransmissionTimeout (ret psn attempt : Nat) (s : State) : Host.Outcome State Fault Refusal :=
  .next (match s.sent? ret psn with
    | none => s
    | some t =>
      if t.attempt ≠ attempt then s
      else if s.heldBack t.pkt then s.startTimer ret psn attempt
      else if t.attempt < 8 then s.resend ret t
      else
        let s := s.retire ret t
        if t.pkt.op = 3 ∨ t.pkt.op = 5 then s.answerFails t
        else if ofJob t.pkt.op then s.jobPacketFails t 10 fun s => s.giveUpPosted t else s)

/-- UNASSIGNED_OPERATION (R304, R363): dropped, and its source logged. -/
def execUnassignedOperation (pkt : Packet) (s : State) : Host.Outcome State Fault Refusal :=
  .next (if 1 ≤ pkt.op ∧ pkt.op ≤ 10 then s
    else s.modRet pkt.dstRet fun r => { r with logged := BitVec.ofNat 64 (targetBase pkt.srcWafer pkt.srcRet) :: r.logged })

/-! ### A drained key -/

/-- KEY_DRAINED (R302): the entry of the step's reticle and index is free, its translations released, the event posted and the deregistrations answered. -/
def execKeyDrained (s : State) : Host.Outcome State Fault Refusal :=
  let r := s.cur.ret
  let j := s.cur.idx
  let e := s.key r j
  .next (
    if e.state = 2 ∧ e.inflight = 0 then
      let s := (s.modKey r j fun e => { e with state := 0, locked := [], records := [] }).event e.part r 0xFF 0x0010 0 (bytesLE 4 (r * 2 ^ 26 + j * 2 ^ 14 + e.gen))
      e.records.foldl (fun s a => s.answer a 1 0 0) s
    else s)

end Sys2Proof.Machine
end

