-- ==== Sys2Proof/Machine/Ports.lean ====
section
/-! DEFINITION. Optical ports and stitched links: lanes (R307, R383), link-level retry (R306, R381), ports that go down (R382), topology changes (R311, R386, R387), load samples (R298), link pauses (R326), holes in the mesh (R384). -/

namespace Sys2Proof.Machine

/-- A port by its number as the unit of a step. -/
def portUnit (p : Nat) : Cur := { ret := p / 2, idx := p }

/-- A lane of a port as the unit of a step. -/
def laneUnit (p n : Nat) : Cur := { ret := p / 2, idx := p * 4 + n }

/-- A step due `d` reference cycles from now, where it does not wait already. -/
def State.postInOnce (s : State) (d : Nat) (u : Cur) (i : Instr) : State := if s.timed u i then s else s.postIn d u i

/-- An event about a port (R313): 0x0020 down, 0x0021 up, 0x0022 ready, 0x0023 armed, 0x0024 degraded. -/
def State.portEvent (s : State) (p type sev st : Nat) (more : List Byte) : State :=
  s.event (s.partOf (p / 2)) (p / 2) 0xFF type sev (bytesLE 2 p ++ bytesLE 2 st ++ more)

/-! ### A port that goes down (R381, R382) -/

/-- Jobs that had chosen a port choose again for their remaining packets. -/
def State.repath (s : State) (p : Nat) : State :=
  (s.cores.map Prod.fst).foldl (fun s c =>
    ((s.core c).jobs.filter fun j => decide (j.path = some (p + 1))).foldl (fun (s : State) j =>
      let t := s.jobTarget j
      s.modJob c j.id fun x => { x with path := (s.route (retOf c) j.bank t.1 t.2).number }) s) s

/-- The traffic of a port that is no longer chosen finds another way: packets not yet sent are routed again, packets sent and not acknowledged are sent again, in order (R382). -/
def State.reroute (s : State) (p : Nat) : State :=
  let q := (s.port p).queue
  let s := s.modPort p fun x => { x with queue := [] }
  let s := s.repath p
  (s.rets.map Prod.fst).foldl (fun s r =>
    ((s.ret r).tx.filter fun t => decide (t.port = some p)).foldl (fun (s : State) t =>
      if q.contains t.pkt then
        let rt := s.again r t.pkt
        (((s.keepPath t.pkt rt).modRet r fun x => { x with tx := x.tx.map fun y => if y.pkt.psn = t.pkt.psn then { y with port := rt.port?, path := rt.number } else y })).carry t.pkt rt
      else if t.attempt < 8 then s.resend r t
      else s) s) s

/-- The bound of a port's step no longer stands. -/
def State.stepOver (s : State) (p : Nat) : State :=
  { s with timers := s.timers.filter fun e => match e.2.ins with
    | .topologyStepTimeout q _ => decide (q ≠ p)
    | _ => true }

/-- A port goes down (R381): 1 silence, 2 retrain, 3 lasers, 4 regulator, 5 topology-change step. -/
def State.dropPort (s : State) (p cause : Nat) : State :=
  let x := s.port p
  if x.st = 0 then s
  else
    let s := s.setPort p { x with st := 0, lit := 0, waking := [], replays := 0, retrains := 0, sweep := none, change := none }
    ((s.portEvent p 0x0020 2 x.st (bytesLE 1 cause)).stepOver p).reroute p

/-- The standby banks of a partition are no longer being armed. -/
def State.disarming (s : State) (part : Nat) : State := (s.partRets part).foldl (fun s r => s.modRet r fun x => { x with arming := none }) s

/-- A topology change fails at a port (R387): that port goes down, ports in step 1 are up again with their old peer, armed ones go down, the others go down at the end of their step, and the record is refused. -/
def State.failChange (s : State) (id p : Nat) : State :=
  match aget s.changes id with
  | none => s
  | some g =>
    let s : State := { s with changes := adel s.changes id }
    let s := s.dropPort p 5
    let s := g.ports.foldl (fun s q =>
      let x := s.port q
      if x.change ≠ some id then s
      else if x.st = 1 then (s.setPort q { x with st := 8, peer := x.oldPeer, change := none, sweep := none }).portEvent q 0x0021 0 8 []
      else if x.st = 7 then s.dropPort q 5
      else s) s
    (s.answer g.record 2 (32 + 8 * g.ports.idxOf p) 0).disarming g.part

/-- A port goes down; the change that it belongs to fails with it. -/
def State.portDown (s : State) (p cause : Nat) : State :=
  match (s.port p).change with
  | some id => (s.dropPort p cause).failChange id p
  | none => s.dropPort p cause

/-- LINK_SILENCE_TIMEOUT (R381): outside slots, the port of the step's index goes down. -/
def execLinkSilenceTimeout (s : State) : Host.Outcome State Fault Refusal :=
  let p := s.cur.idx
  .next (if (s.ret (p / 2)).inSlot ∨ !((s.port p).up || decide ((s.port p).st = 1)) then s else s.portDown p 1)

/-! ### Link-level retry (R306) -/

/-- LLR_REPLAY (R306, R381): a codeword was not correctable; the replay succeeds or fails. Three failed replays of a flit cause a short retrain; when three short retrains in a row have not helped, the port goes down. -/
def execLlrReplay (port : Nat) (good : Bool) (s : State) : Host.Outcome State Fault Refusal :=
  let x := s.port port
  .next (
    if x.st = 0 then s
    else if good then s.setPort port { x with replays := 0, retrains := 0 }
    else if x.replays < 2 then s.setPort port { x with replays := x.replays + 1 }
    else if 3 ≤ x.retrains then s.portDown port 2
    else (s.setPort port { x with replays := 0, retrains := x.retrains + 1 }).portEvent port 0x0024 1 x.st [])

/-! ### Lanes (R307, R383) -/

/-- The lanes of a port that are not marked failed. -/
def PortState.working (x : PortState) : List Nat := (List.range 4).filter fun n => !x.failedLanes.contains n

/-- The bytes of an `nput` whose packets are still to be formed. -/
def Job.unsent (j : Job) : Nat := word j.words 5 - j.pos + (j.flight.map fun l => l.hi - l.lo).foldl (· + ·) 0

/-- A queued `nput` of a core has chosen a port: by the path it keeps, or as the selector routes its packets now. -/
def State.putChooses (s : State) (c : Nat) (j : Job) (p : Nat) : Bool :=
  decide (j.cmd = 3) && j.forwarded && j.error.isNone && decide (0 < j.unsent) && (match j.path with
    | some n => decide (n = p + 1)
    | none => decide (s.route (retOf c) j.bank (s.jobTarget j).1 (s.jobTarget j).2 = .port p))

/-- The ranks whose chunks take a port, as the selector routes them now. -/
def State.portRanks (s : State) (c : Nat) (j : Job) (l : CollPlan) (p : Nat) : List Nat :=
  let r := (s.team j.team).lrec
  (List.range l.p).filter fun q => match s.ownerPlace r.part (r.key (l.ranks.getD q 0)) with
    | some (w, d) => decide (s.route (retOf c) j.bank w (retOf d) = .port p)
    | none => false

/-- The bytes of a collective's chunks for a port that are still to be formed: of the sends of its first stage, and of those behind the fold (R308, R340). -/
def State.collUnsent (s : State) (c : Nat) (j : Job) (p : Nat) : Nat :=
  let l := s.planOf j
  let ranks := s.portRanks c j l p
  let first := ((List.range (l.work - j.pos)).map (j.pos + ·) ++ (j.flight.filter fun x => !x.reads.isEmpty).map Landing.lo).map l.sendAt
  let out := ((s.coll? c j.id).map CollState.out).getD 0
  let second := (List.range (l.second - out)).filter fun i => decide ((l.secondAt (out + i)).2 ≠ l.rank) && ranks.contains (l.secondAt (out + i)).2
  ((first.filter fun e => ranks.contains e.rank).map fun e => e.hi - e.lo).foldl (· + ·) 0 + 128 * second.length

/-- What a queued job has still to send through a port, before its packets are formed. -/
def State.unsentBy (s : State) (c : Nat) (j : Job) (p : Nat) : Nat :=
  if s.putChooses c j p then j.unsent
  else if j.cmd = 6 ∧ j.forwarded ∧ j.error = none then s.collUnsent c j p
  else 0

/-- A queued job of a core has chosen a port (R307). -/
def State.choosesPort (s : State) (c : Nat) (j : Job) (p : Nat) : Bool := decide (0 < s.unsentBy c j p)

/-- Bytes queued for a port: packets in its queue, and what jobs that have chosen it have still to send, before their packets are formed (R307). -/
def State.queuedBytes (s : State) (p : Nat) : Nat :=
  ((s.port p).queue.map fun k => k.payload.length + 32).foldl (· + ·) 0
  + (s.cores.flatMap fun k => k.2.jobs.map fun j => s.unsentBy k.1 j p).foldl (· + ·) 0

/-- The lane that is woken next: one further for each 64 KiB queued; lasers keep their state through a slot (R307). -/
def State.laneToWake (s : State) (p : Nat) : Option Nat :=
  let x := s.port p
  let dark := x.working.filter fun n => !x.lit.getLsbD n && !x.waking.any fun e => decide (e.1 = n)
  if x.up && !(s.ret (p / 2)).inSlot && decide (laneCount x.lit + x.waking.length ≤ s.queuedBytes p / 65536) then dark.head? else none

/-- LANE_WAKE (R307) at the port of the step's index. -/
def execLaneWake (s : State) : Host.Outcome State Fault Refusal :=
  let p := s.cur.idx
  .next (match s.laneToWake p with
    | some n => (s.modPort p fun x => { x with waking := x.waking ++ [(n, s.now)] }).postIn 3000 (laneUnit p n) (.laneLit p n)
    | none => s)

/-- A lane is lit: it counts as used now, and goes dark 100,000 reference cycles after its last flit. -/
def State.lightLane (s : State) (p n : Nat) : State :=
  (s.modPort p fun x => { x with lit := x.lit ||| (1#4 <<< n), waking := x.waking.filter fun e => decide (e.1 ≠ n), lastFlit := tset 0 x.lastFlit n s.now }).postInOnce 100000 (laneUnit p n) .laneDarkTimeout

/-- LANE_LIT (R307): a waking lane is lit. -/
def execLaneLit (port ln : Nat) (s : State) : Host.Outcome State Fault Refusal :=
  .next (if ((s.port port).waking.any fun e => decide (e.1 = ln)) && decide (ln < 4) then (s.lightLane port ln).transmit port else s)

/-- A lane that wakes does not light: it is marked failed; with no working lane lit or waking, the port goes down (R381, R383). -/
def State.laneFails (s : State) (p n : Nat) : State :=
  let x := s.port p
  if !(x.waking.any fun e => decide (e.1 = n)) then s
  else
    let s := (s.setPort p { x with waking := x.waking.filter fun e => decide (e.1 ≠ n), failedLanes := n :: x.failedLanes, lit := x.lit &&& ~~~(1#4 <<< n) }).portEvent p 0x0024 1 x.st []
    if (s.port p).working.isEmpty ∨ ((s.port p).lit = 0 ∧ (s.port p).waking.isEmpty) then s.portDown p 3 else s

/-- LANE_WAKE_FAILURE (R381, R383) of the lane of the step's index. -/
def execLaneWakeFailure (s : State) : Host.Outcome State Fault Refusal := .next (s.laneFails (s.cur.idx / 4) (s.cur.idx % 4))

/-- LANE_DARK_TIMEOUT (R307, R383) of the lane of the step's index, which goes on as long as it is lit; the lowest working lane stays lit, and during a slot every lane keeps its state. -/
def execLaneDarkTimeout (s : State) : Host.Outcome State Fault Refusal :=
  let p := s.cur.idx / 4
  let n := s.cur.idx % 4
  let x := s.port p
  let last := tget 0 x.lastFlit n
  .next (
    if !x.lit.getLsbD n then s
    else if x.working.head? = some n then s.postIn 100000 s.cur .laneDarkTimeout
    else if (s.ret (p / 2)).inSlot then s.postIn (max 1 ((s.ret (p / 2)).slotEnd - s.now)) s.cur .laneDarkTimeout
    else if last + 100000 ≤ s.now then s.setPort p { x with lit := x.lit &&& ~~~(1#4 <<< n) }
    else s.postIn (last + 100000 - s.now) s.cur .laneDarkTimeout)

/-- LINK_CONTROL_FLIT (R307): the peer's lit set. -/
def execLinkControlFlit (port : Nat) (lit : BitVec 4) (s : State) : Host.Outcome State Fault Refusal :=
  .next (s.modPort port fun x => { x with peerLit := lit })

/-- The packet that a step delivers. -/
def packetOf (e : Pend) : Option Packet :=
  match e.ins with
  | .put k => some k
  | .getRequest k => some k
  | .getData k => some k
  | .atomic k => some k
  | .atomicResult k => some k
  | .collectiveChunk k => some k
  | .gridBarrierArrival => e.unit.pkt
  | .gridBarrierRelease => e.unit.pkt
  | .drainSweep => e.unit.pkt
  | .semanticNack k => some k
  | _ => none

/-- The packets under way from a reticle by the mesh that leave it through one of its stitched links. -/
def State.linkQueue (s : State) (r dir : Nat) : List Packet :=
  (s.agenda.filterMap packetOf).filter fun k =>
    decide (k.srcWafer = s.wafer) && decide (k.srcRet = r) && decide (k.dstRet ≠ r) && decide (s.firstLink r k.dstRet = dir)

/-- LOAD_SAMPLE (R297, R298): every 64 fabric cycles, 26 reference cycles, the loads of the ports and the stitched links of the step's reticle are sampled. -/
def execLoadSample (s : State) : Host.Outcome State Fault Refusal :=
  let r := s.cur.ret
  let units (l : List Packet) : Nat := (l.map fun k => k.payload.length + 32).foldl (· + ·) 0 / 4096
  let one (p : Nat) : Nat × Nat := (units (s.port p).queue, laneCount (s.port p).lit)
  .next ((s.modRet r fun x => { x with sampled := [one (2 * r), one (2 * r + 1)], sampledMesh := (List.range 4).map fun d => units (s.linkQueue r d) }).postInOnce 26 s.cur .loadSample)

/-! ### Pauses (R326) -/

/-- The wafer and the port of a peer, as `PEER` names it (R311). -/
def peerPort (w : Word) : Nat × Nat := (w.toNat % 2 ^ 14, bitsOf w.toNat 20 14)

/-- The endpoint of a reticle pauses the peers of its ports, or lifts the pause (R326). -/
def State.pausePeers (s : State) (r : Nat) (on : Bool) : State :=
  [2 * r, 2 * r + 1].foldl (fun s p =>
    if !(s.port p).up then s
    else
      let q := peerPort (s.port p).peer
      if q.1 = s.wafer then s.post (portUnit q.2) (.linkLevelPause q.2 on) else { s with pausesOut := (p, on) :: s.pausesOut }) s

/-- LINK_LEVEL_PAUSE (R326): the peer pauses the port or lifts its pause. -/
def execLinkLevelPause (port : Nat) (on : Bool) (s : State) : Host.Outcome State Fault Refusal :=
  .next ((s.modPort port fun x => { x with paused := on }).transmit port)

/-! ### Stitched links and bus wires (R384) -/

/-- The same boundary from the other side. -/
def opposite (dir : Nat) : Nat := if dir = 0 then 1 else if dir = 1 then 0 else if dir = 2 then 3 else 2

/-- A change to both reticles of a boundary, each with its own direction. -/
def State.bothSides (s : State) (r dir : Nat) (f : Nat → Reticle → Reticle) : State :=
  let s := s.modRet r (f dir)
  match neighbour r dir with
  | some q => s.modRet q (f (opposite dir))
  | none => s

/-- STITCHED_LINK_FAILURE (R384): a link that stays down after its retrain is a hole, and enters the stored defects. -/
def execStitchedLinkFailure (ret dir : Nat) (retrained : Bool) (s : State) : Host.Outcome State Fault Refusal :=
  .next (if retrained then s
    else s.bothSides ret dir fun d x => { x with holes := if x.holes.contains d then x.holes else d :: x.holes, retired := { x.retired with boundaries := x.retired.boundaries ||| (1#4 <<< d) } })

/-- BROADCAST_BUS_WIRE_FAILURE (R384): the buses across the boundary stop, and each partition at it is told. -/
def execBroadcastBusWireFailure (ret dir : Nat) (s : State) : Host.Outcome State Fault Refusal :=
  let s := s.bothSides ret dir fun d x => { x with busDown := if x.busDown.contains d then x.busDown else d :: x.busDown, retired := { x.retired with boundaries := x.retired.boundaries ||| (1#4 <<< d) } }
  let parts := (s.partOf ret :: ((neighbour ret dir).map s.partOf).toList).eraseDups
  .next (parts.foldl (fun s part => s.event part ret 0xFF 0x0024 3 (bytesLE 2 0xFFFF ++ bytesLE 2 0)) s)

/-! ### Topology changes (R311, R386, R387) -/

/-- A port has reached the end of its step: it goes on where its change still runs, and goes down where that has failed (R387). -/
def State.portStep (s : State) (p : Nat) (f : State → State) : State :=
  match (s.port p).change with
  | some id => if (aget s.changes id).isSome then f s else s.dropPort p 5
  | none => f s

/-- The bound of a port's step, which counts only reference cycles outside slots (R386). -/
def State.postBound (s : State) (p st d : Nat) : State :=
  let x := s.ret (p / 2)
  s.postIn (d + if x.inSlot then x.slotEnd - s.now else 0) { portUnit p with insn := st } (.topologyStepTimeout p st)

/-- TOPOLOGY_CHANGE (R311, R329, R386): command 0x05. -/
def execTopologyChange (link : Nat) (rec : List Byte) (s : State) : Host.Outcome State Fault Refusal :=
  s.command link rec (fun i => decide (4 ≤ i) && decide (i ≤ 22)) fun s =>
    let n := operand rec 20 1
    let bank := operand rec 21 1
    let part := operand rec 22 1
    let ports := (List.range (min n 16)).map fun i => operand rec (4 + i) 1
    let bad := (List.range 16).find? fun i =>
      if i < n then
        let p := operand rec (4 + i) 1
        decide (128 ≤ p) || decide (s.partOf (p / 2) ≠ part) || decide ((s.port p).st ≠ 8 ∧ (s.port p).st ≠ 7) || (s.port p).change.isSome || (ports.take i).contains p
      else decide (operand rec (4 + i) 1 ≠ 0xFF)
    let rs := s.partRets part
    let right := (rs.head?.bind fun r => (s.ret r).part).any PartDesc.route
    if rs.head? ≠ some (operand rec 2 1) then s.refusedAt link 16
    else if n = 0 ∨ 16 < n then s.refusedAt link 160
    else match bad with
      | some i => s.refusedAt link (32 + 8 * i)
      | none =>
        if 1 < bank ∨ rs.any (fun r => decide ((s.ret r).bank = decide (bank = 1))) then s.refusedAt link 168
        else if !right then s.refusedAt link 176
        else
          let id := s.nextId
          let s : State := { s with nextId := id + 1, changes := aput s.changes id { ports := ports, bank := bank, part := part, record := s.recordAt link } }
          let s := ports.foldl (fun s p => s.modPort p fun x => { x with st := 1, change := some id, oldPeer := x.peer, sweep := none }) s
          (rs.foldl (fun s r => s.modRet r fun x => { x with arming := some bank, armed := false }) s).taken link

/-- PORT_DRAINED (R311): a sweep over the counts of the draining port of the step's index; two equal ones with everything acknowledged end the step, and the lasers go off. -/
def execPortDrained (s : State) : Host.Outcome State Fault Refusal :=
  let p := s.cur.idx
  let x := s.port p
  let n := (x.psnSent + x.queue.length, x.psnAcked)
  .next (
    if x.st ≠ 1 then s
    else if x.sweep = some n ∧ n.1 = n.2 then
      s.portStep p fun s => ((s.setPort p { x with st := 2, sweep := none }).post (portUnit p) .laserOff).postBound p 2 1000
    else s.setPort p { x with sweep := some n })

/-- LASER_OFF (R311): all lanes of the port of the step's index are dark; it is ready. -/
def execLaserOff (s : State) : Host.Outcome State Fault Refusal :=
  let p := s.cur.idx
  .next (if (s.port p).st ≠ 2 then s
    else s.portStep p fun s => ((s.modPort p fun x => { x with st := 3, lit := 0, waking := [] }).stepOver p).portEvent p 0x0022 0 3 [])

/-- RETARGET_DONE (R311, R329, R386): command 0x06; the retarget is acknowledged, and the lasers of every working lane wake. -/
def execRetargetDone (link : Nat) (rec : List Byte) (s : State) : Host.Outcome State Fault Refusal :=
  s.command link rec (fun i => decide (i = 4)) fun s =>
    let p := operand rec 4 1
    if operand rec 2 1 ≠ p / 2 then s.refusedAt link 16
    else if 128 ≤ p ∨ (s.port p).st ≠ 3 then s.refusedAt link 32
    else
      (s.portStep p fun s => ((s.modPort p fun x => { x with st := 5, waking := x.working.map fun n => (n, s.now) }).post (portUnit p) .laserWake).postBound p 5 3000).doneWith link 0

/-- LASER_WAKE (R311): the lanes of the port of the step's index that have not failed in their wake (R383) are lit; training starts. -/
def execLaserWake (s : State) : Host.Outcome State Fault Refusal :=
  let p := s.cur.idx
  .next (if (s.port p).st ≠ 5 then s
    else s.portStep p fun s =>
      (((((s.port p).waking.map Prod.fst).foldl (fun s n => s.lightLane p n) s).modPort p fun x => { x with st := 6 }).stepOver p).postBound p 6 500000)

/-- Every port of a change is armed: the standby bank is armed, the event posted, step 7 ends with the ports up, and the record is done (R311). -/
def State.armed (s : State) (id : Nat) : State :=
  match aget s.changes id with
  | none => s
  | some g =>
    if !g.ports.all fun p => decide ((s.port p).st = 7) then s
    else
      let s : State := { s with changes := adel s.changes id }
      let s := (s.partRets g.part).foldl (fun s r => s.modRet r fun x => { x with arming := none, armed := decide (x.bank ≠ decide (g.bank = 1)) }) s
      let s := match g.ports.head? with
        | some p => s.portEvent p 0x0023 0 7 []
        | none => s
      (g.ports.foldl (fun s p => (s.modPort p fun x => { x with st := 8, change := none }).portEvent p 0x0021 0 8 []) s).answer g.record 1 0 0

/-- LINK_TRAINING (R307, R311): a port has trained to a peer, which `PEER` names; failed lanes may be woken again. A port in step 6 is armed, though not in a major slot, in which that step pauses (R386); a port that is up keeps its state. -/
def execLinkTraining (port : Nat) (peer : Word) (s : State) : Host.Outcome State Fault Refusal :=
  let w := peer &&& 0x1FFFFF
  .next (
    if (s.port port).st = 6 ∧ (s.ret (port / 2)).inSlot ∧ (s.ret (port / 2)).slotN % 16 = 0 then s
    else if (s.port port).st = 6 then
      s.portStep port fun s =>
        let id := (s.port port).change
        let s := (s.modPort port fun x => { x with st := 7, peer := w, failedLanes := [], replays := 0, retrains := 0 }).stepOver port
        match id with
        | some i => s.armed i
        | none => s
    else if (s.port port).up then s.modPort port fun x => { x with peer := w, failedLanes := [], replays := 0, retrains := 0 }
    else s)

/-- TOPOLOGY_STEP_TIMEOUT (R387): a port still in a step at its bound fails its change, or goes down where that has failed already. -/
def execTopologyStepTimeout (port stage : Nat) (s : State) : Host.Outcome State Fault Refusal :=
  .next (
    if (s.port port).st ≠ stage then s
    else match (s.port port).change with
      | some id => if (aget s.changes id).isSome then s.failChange id port else s.dropPort port 5
      | none => s)

/-- The steps of the ports of a reticle. -/
def State.portSteps (s : State) (r : Nat) : List Pend :=
  [2 * r, 2 * r + 1].flatMap fun p =>
    (if (s.port p).st = 1 then [⟨portUnit p, .portDrained⟩] else [])
    ++ (if (s.laneToWake p).isSome then [⟨portUnit p, .laneWake⟩] else [])

end Sys2Proof.Machine
end

