-- ==== Sys2Proof/Machine/Power.lean ====
section
/-! DEFINITION. Power: `opreq` and the changes of operating points (R171, R319–R321), loans (R317), rack caps (R318, R389, R390), ballast and its debt (R323, R391), voltage islands (R322). -/

namespace Sys2Proof.Machine

/-- A cluster of a reticle as the unit of a step. -/
def clusterUnit (r k : Nat) : Cur := { ret := r, idx := k }

/-! ### Changes (R320) -/

/-- A clock ramp of 8 steps starts. -/
def State.startRamp (s : State) (r k : Nat) : State :=
  (s.modCluster r k fun x => { x with ramp := 8, oldKhz := x.khz }).postIn 32 (clusterUnit r k) .clockRampStep

/-- A change to another point starts: voltage first on a raise, clock first on a lowering. The units of a raise are reserved now (R319). -/
def State.startChange (s : State) (r k p : Nat) : State :=
  let x := s.cluster r k
  if x.cur = p then s
  else
    let s := s.modPower r k fun x => { x with cur := p, busy := true, byRegion := false, unitsHeld := max x.unitsHeld (pointUnits p) }
    if x.mv < pointMv p then s.postIn 1000 (clusterUnit r k) .voltageStep else s.startRamp r k

/-- VOLTAGE_STEP (R320): the voltage of the step's cluster moves 10 mV; at the new point's voltage a raise ramps its clock, and a lowering is complete. -/
def execVoltageStep (s : State) : Host.Outcome State Fault Refusal :=
  let r := s.cur.ret
  let k := s.cur.idx
  let x := s.cluster r k
  let t := pointMv x.cur
  .next (
    if !x.busy ∨ x.ramp ≠ 0 ∨ x.mv = t then s
    else
      let v := if x.mv < t then min t (x.mv + 10) else max t (x.mv - 10)
      let s := s.modCluster r k fun x => { x with mv := v }
      if v ≠ t then s.postIn 1000 (clusterUnit r k) .voltageStep
      else if x.khz = pointKhz x.cur then s.post (clusterUnit r k) .operatingPointChangeComplete
      else s.startRamp r k)

/-- The clock after `n` of the 8 equal steps from `old` to `new`. -/
def rampClock (old new n : Nat) : Nat := ((old : Int) + ((new : Int) - old) * n / 8).toNat

/-- CLOCK_RAMP_STEP (R320): the clock of the step's cluster moves one of 8 steps; at the new frequency a lowering steps its voltage down, and a raise is complete. -/
def execClockRampStep (s : State) : Host.Outcome State Fault Refusal :=
  let r := s.cur.ret
  let k := s.cur.idx
  let x := s.cluster r k
  .next (
    if !x.busy ∨ x.ramp = 0 then s
    else
      let n := x.ramp - 1
      let s := s.modCluster r k fun x => { x with ramp := n, khz := rampClock x.oldKhz (pointKhz x.cur) (8 - n) }
      if n ≠ 0 then s.postIn 32 (clusterUnit r k) .clockRampStep
      else if x.mv = pointMv x.cur then s.post (clusterUnit r k) .operatingPointChangeComplete
      else s.postIn 1000 (clusterUnit r k) .voltageStep)

/-- OPERATING_POINT_CHANGE_COMPLETE (R319, R320): `BUSY` clears and a lowering's units are released; a cluster faster than its `TGT` is lowered to it. -/
def execOperatingPointChangeComplete (s : State) : Host.Outcome State Fault Refusal :=
  let r := s.cur.ret
  let k := s.cur.idx
  let x := s.cluster r k
  .next (
    if !x.busy ∨ x.ramp ≠ 0 ∨ x.mv ≠ pointMv x.cur ∨ x.khz ≠ pointKhz x.cur then s
    else
      let s := s.modPower r k fun x => { x with busy := false, byRegion := false, unitsHeld := pointUnits x.cur }
      if x.cur < x.tgt then s.startChange r k x.tgt else s)

/-! ### Loans (R317) -/

/-- A live neighbour region. -/
def State.liveNext (s : State) (r dir : Nat) : Option Nat :=
  match neighbour r dir with
  | some q => if (s.ret q).answers then some q else none
  | none => none

/-- The live neighbours in the order north, east, south, west. -/
def State.neighbours (s : State) (r : Nat) : List Nat := [0, 3, 1, 2].filterMap (s.liveNext r)

/-- The next neighbour is asked, once no recall of the region's own loans stands. -/
def State.ask (s : State) (r : Nat) : State :=
  let x := s.ret r
  if x.wants = 0 ∨ !x.loans.isEmpty ∨ !x.recalls.isEmpty then s
  else match x.asks with
    | l :: _ => s.postOnce { ret := r } (.loanRequest r l)
    | [] => s.modRet r fun x => { x with wants := 0 }

/-- An exchange for a denied raise of `n` units: loans are recalled before the region borrows. -/
def State.exchange (s : State) (r n : Nat) : State :=
  let x := s.ret r
  let s := x.loans.foldl (fun (s : State) (e : Nat × Nat) => s.postOnce { ret := r } (.loanRecall r e.1)) s
  (s.modRet r fun x => { x with wants := n, asks := s.neighbours r }).ask r

/-- The units in a list of loans that stand with a reticle. -/
def unitsWith (r : Nat) (l : List (Nat × Nat)) : Nat := ((l.filter fun e => decide (e.1 = r)).map Prod.snd).foldl (· + ·) 0

/-- The units that a region has borrowed: what the loans of the others say. -/
def State.borrowed (s : State) (r : Nat) : Nat := (retList.map fun q => unitsWith r (s.ret q).loans).foldl (· + ·) 0

/-- An exchange goes on while the raise would not fit; else it is over. -/
def State.askMore (s : State) (r : Nat) : State :=
  if s.freeUnits r < ((s.ret r).wants : Int) then s.ask r else s.modRet r fun x => { x with wants := 0, asks := [] }

/-- LOAN_REQUEST (R317): the lender lends 16 units where at least 32 of its own are free; what it has borrowed it never lends again. -/
def execLoanRequest (ret lender : Nat) (s : State) : Host.Outcome State Fault Refusal :=
  let own := s.freeUnits lender - (s.borrowed lender : Int)
  .next (
    if (s.ret ret).asks.head? ≠ some lender then s
    else if !(s.ret lender).answers ∨ own < 32 then (s.modRet ret fun x => { x with asks := x.asks.tail }).ask ret
    else
      let s := ((s.accrue lender).accrue ret).modRet lender fun x => { x with loan := x.loan - 16, loans := x.loans ++ [(ret, 16)] }
      (s.modRet ret fun x => { x with loan := x.loan + 16 }).askMore ret)

/-- LOAN_RECALL (R317): the borrower's budget loses what the lender lent it; the units are back once its reserve fits. -/
def execLoanRecall (lender borrower : Nat) (s : State) : Host.Outcome State Fault Refusal :=
  let rest (l : List (Nat × Nat)) : List (Nat × Nat) := l.filter fun e => decide (e.1 ≠ borrower)
  let n := unitsWith borrower (s.ret lender).loans
  let s := if n = 0 then s
    else ((s.accrue borrower).modRet borrower fun x => { x with loan := x.loan - n }).modRet lender fun x => { x with loans := rest x.loans, recalls := x.recalls ++ [(borrower, n)] }
  let m := unitsWith borrower (s.ret lender).recalls
  .next (
    if m = 0 then s
    else if 0 ≤ s.freeUnits borrower then ((s.accrue lender).modRet lender fun x => { x with loan := x.loan + m, recalls := rest x.recalls }).askMore lender
    else s.postInOnce 1000 { ret := lender } (.loanRecall lender borrower))

/-! ### `opreq` (R171, R319) -/

/-- The debt of a region as it stands now. -/
def State.debtNow (s : State) (r : Nat) : Nat := ((s.ret r).accrued (s.freeUnits r) s.now).debt

/-- The units that a region keeps free besides (R391). -/
def State.headroom (s : State) (r : Nat) : Nat := if s.debtNow r ≠ 0 ∧ !s.ballasting r then 16 else 0

/-- A raise of a cluster to a point fits, the debt rule observed (R319, R391). -/
def State.raiseFits (s : State) (r k p : Nat) : Bool :=
  decide ((pointUnits p : Int) - ((s.cluster r k).unitsHeld : Int) + (s.headroom r : Int) ≤ s.freeUnits r)

/-- The reason of an `opreq` (R171, R319): 0 granted. A raise that the debt rule denies reports 4 (R391). -/
def State.opReason (s : State) (c p : Nat) (right : Bool) : Nat :=
  let r := retOf c
  let k := clusterOf c
  let x := s.cluster r k
  let added : Int := (pointUnits p : Int) - (x.unitsHeld : Int)
  if 7 ≤ p then 1
  else if !right then 2
  else if x.busy then 5
  else if x.cur ≤ p then 0
  else if s.raiseFits r k p then 0
  else if s.headroom r ≠ 0 ∨ added ≤ 1840 + (s.ret r).loan - (s.rsv r : Int) then 4
  else 3

/-- `opreq` (R171, R317, R319). -/
def execOpreq (p : Bool) (d a : BitVec 8) (s : State) : Host.Outcome State Fault Refusal :=
  s.control p fun s => Try.act do
    let A := s.src 2 a
    s.needFree [d.toNat]
    s.operands [(1, d.toNat, 1), (2, a.toNat, 1)] [A]
    failIf s (decide (16 ≤ A.u.toNat)) { code := 5, field := 2, info := A.u.toNat }
    let c := s.cur.core
    let r := retOf c
    let k := clusterOf c
    let n := A.u.toNat
    let why := s.opReason c n s.here.power
    let s := if why = 0 then (s.modCluster r k fun x => { x with tgt := n }).startChange r k n
      else if why = 3 then s.exchange r (pointUnits n - (s.cluster r k).unitsHeld)
      else s
    return .done (s.ctlWrite d.toNat (uni (BitVec.ofNat 32 ((s.cluster r k).cur * 256 + n * 16 + why)) tN32))

/-- A write of a cluster's `CL_OP` (R319): `TGT` where it names a point, and `GOV`; a cluster faster than the new `TGT` is lowered to it. -/
def State.writeClOp (s : State) (r k : Nat) (value : Dword) : State :=
  let t := bitsOf value.toNat 11 8
  let s := s.modCluster r k fun x => { x with tgt := if t ≤ 6 then t else x.tgt, gov := value.getLsbD 0 }
  let x := s.cluster r k
  if !x.busy ∧ x.cur < x.tgt then s.startChange r k x.tgt else s

/-- CL_OP_WRITE (R319). -/
def execClOpWrite (ret cluster : Nat) (value : Dword) (s : State) : Host.Outcome State Fault Refusal :=
  .next (if cluster < 36 then s.writeClOp ret cluster value else s)

/-! ### Lowering (R320) -/

/-- The clusters that a region lowers, in order, until its reserve fits. -/
def State.pickLower (s : State) (r : Nat) (excess : Int) : List Nat → List Nat
  | [] => []
  | k :: l =>
    if excess ≤ 0 then []
    else
      let x := s.cluster r k
      k :: s.pickLower r (excess - ((pointUnits x.cur : Int) - (pointUnits (x.cur + 1) : Int))) l

/-- The clusters that a region may lower: the highest point first, then the lowest number. -/
def State.lowerable (s : State) (r : Nat) : List Nat :=
  sortBy (fun a b => decide ((s.cluster r a).cur < (s.cluster r b).cur))
    ((List.range 36).filter fun k => s.clusterOn r k && !(s.cluster r k).busy && decide ((s.cluster r k).cur < 6))

/-- What the region has to bring its reserve down by. -/
def State.overBudget (s : State) (r : Nat) : Int := (s.headroom r : Int) - s.freeUnits r

/-- A lowering that the region has started is still under way. -/
def State.lowers (s : State) (r : Nat) : Bool := (List.range 36).any fun k => (s.cluster r k).busy && (s.cluster r k).byRegion

/-- The region selects clusters to lower now. -/
def State.mayLower (s : State) (r : Nat) : Bool := !s.lowers r && decide (0 < s.overBudget r) && !(s.lowerable r).isEmpty

/-- REGION_LOWERING (R320, R391) of the step's reticle. -/
def execRegionLowering (s : State) : Host.Outcome State Fault Refusal :=
  let r := s.cur.ret
  .next (if s.mayLower r then
      (s.pickLower r (s.overBudget r) (s.lowerable r)).foldl (fun s k => (s.startChange r k ((s.cluster r k).cur + 1)).modCluster r k fun x => { x with byRegion := true }) s
    else s)

/-! ### The governor (R321) -/

/-- The governor acts on a sample of a cluster. -/
def State.govern (s : State) (r k : Nat) : State :=
  let x := s.cluster r k
  if !x.gov ∨ x.busy then s
  else if 2 ≤ x.run then (if x.cur < 6 then s.startChange r k (x.cur + 1) else s)
  else if x.smp ≤ 256 ∧ x.tgt < x.cur ∧ s.raiseFits r k (x.cur - 1) then s.startChange r k (x.cur - 1)
  else s

/-- The stall ratio of a sample period (R321): none of its cycles stall in a period without lane cycles. -/
def stallRatio (stalls cycles : Nat) : Nat := min (stalls * 1024 / cycles) 1023

/-- A sample of a cluster is written, and the next period starts. -/
def State.sampleCluster (s : State) (r k : Nat) : State :=
  if !s.clusterOn r k then s
  else
    let x := s.cluster r k
    let v := stallRatio x.stalls (x.laneAt - x.sampleAt)
    (s.modCluster r k fun x => { x with smp := v, run := if 768 ≤ v then x.run + 1 else 0, stalls := 0, sampleAt := x.laneAt }).govern r k

/-- STALL_SAMPLE (R321): the clusters of the step's reticle, every 10,000 reference cycles, while it runs (R18). -/
def execStallSample (s : State) : Host.Outcome State Fault Refusal :=
  let r := s.cur.ret
  let s := if (s.ret r).answers then (List.range 36).foldl (fun s k => s.sampleCluster r k) s else s
  .next (s.postInOnce 10000 { ret := r } .stallSample)

/-! ### Islands (R322) -/

/-- An island of a cluster has been idle for 256 lane cycles and is not gated: the matrix island is not idle while an operation occupies a unit. -/
def State.mayGate (s : State) (r k i : Nat) : Bool :=
  let x := s.cluster r k
  !x.gated.contains i && (decide (i ≠ 4) || s.matrixIdle (r * 72 + 2 * k)) && decide (tget 0 x.used i + s.laneTime (r * 72 + 2 * k) 256 ≤ s.now)

/-- ISLAND_GATING (R322): the island of the step's index, cluster × 8 + island. -/
def execIslandGating (s : State) : Host.Outcome State Fault Refusal :=
  let r := s.cur.ret
  let k := s.cur.idx / 8
  let i := s.cur.idx % 8
  .next (if s.mayGate r k i ∧ i < 5 then s.modCluster r k fun x => { x with gated := i :: x.gated } else s)

/-- Islands that an instruction needs are in use: lane quarters by its execution mask. -/
def Cluster.useLanes (k : Cluster) (m : Mask) (now : Nat) : Cluster :=
  let l := (List.range 4).filter fun i => bitsOf m.toNat (8 * i + 7) (8 * i) ≠ 0
  { k with used := l.foldl (fun u i => tset 0 u i now) k.used, gated := k.gated.filter fun i => !l.contains i }

/-! ### Caps (R318, R389, R390) -/

/-- The number of live regions. -/
def State.liveRegions (s : State) : Nat := (retList.filter fun r => (s.ret r).answers).length

/-- A region's share of a cap in watts. -/
def State.share (s : State) (watts : Nat) : Nat := 4 * watts / s.liveRegions

/-- A cap event (R390): 1 accepted, 2 lease expired, 3 message invalid, 4 ballast debt cleared. -/
def State.capEvent (s : State) (r : Nat) (m : CapMsg) (cause : Nat) : State :=
  s.event (s.partOf r) r 0xFF 0x0032 (if cause = 2 then 1 else if cause = 3 then 2 else 0)
    (bytesLE 4 m.seq.toNat ++ bytesLE 2 m.cap.toNat ++ bytesLE 2 (s.ret r).capsh ++ bytesLE 1 cause ++ zeros 7 ++ bytesLE 8 m.lease.toNat)

/-- CAP_MSG (R318): a message written to a link's BAR0 is passed by the service core of the link's reticle to every live region that its endpoint reaches (R20). The register's reserved bits keep reading 0 (R6); a message with one set is passed on as written (R389). -/
def execCapMsg (link : Nat) (msg : CapMsg) (s : State) : Host.Outcome State Fault Refusal :=
  let s := s.setLink link { s.link link with capMsg := { msg with rsv := 0 } }
  .next ((retList.filter fun r => (s.ret r).answers && s.hostReaches link s.wafer r).foldl (fun s r => s.post { ret := r, idx := 32 } (.capShareUpdate r msg)) s)

/-- A message is news to a region (R389). -/
def Reticle.isNew (x : Reticle) (m : CapMsg) : Bool :=
  match x.capMsg with
  | none => true
  | some l => decide (1 ≤ (m.seq - l.seq).toNat) && decide ((m.seq - l.seq).toNat ≤ 2 ^ 31 - 1)

/-- CAP_SHARE_UPDATE (R318, R389) at a region. -/
def execCapShareUpdate (ret : Nat) (msg : CapMsg) (s : State) : Host.Outcome State Fault Refusal :=
  let x := s.ret ret
  .next (
    if !x.isNew msg then s
    else if msg.rsv ≠ 0 ∨ msg.cap.toNat < 1000 ∨ 36000 < msg.cap.toNat then
      s.capEvent ret msg 3
    else
      let n := s.share msg.cap.toNat
      let s := (s.accrue ret).modRet ret fun x => { x with capsh := n, capMsg := some msg, capUntil := if msg.lease = 0 then none else some (s.now + msg.lease.toNat) }
      let s := if msg.lease = 0 then s else s.postIn msg.lease.toNat { ret := ret } .leaseExpiry
      if n ≠ x.capsh then s.capEvent ret msg 1 else s)

/-- LEASE_EXPIRY (R389): the lease of the last accepted message of the step's reticle, while it runs (R18), has run out. -/
def execLeaseExpiry (s : State) : Host.Outcome State Fault Refusal :=
  let r := s.cur.ret
  let x := s.ret r
  .next (match x.capUntil, x.capMsg with
    | some t, some m =>
      if s.now < t ∨ !x.answers then s
      else ((s.accrue r).modRet r fun x => { x with capUntil := none, capsh := min (s.share m.cap.toNat) (s.share s.capSafe) }).capEvent r m 2
    | _, _ => s)

/-! ### Ballast (R323, R391) -/

/-- BALLAST_DECAY (R391): the ballast of the step's cluster, started at the step's time, falls by 1/16 every 1,250 reference cycles. -/
def execBallastDecay (s : State) : Host.Outcome State Fault Refusal :=
  let r := s.cur.ret
  let k := s.cur.idx
  .next (match (s.cluster r k).ballast with
    | some (t, u) =>
      if t ≠ s.cur.team then s
      else if u ≤ 1 then s.modPower r k fun x => { x with ballast := none }
      else (s.modPower r k fun x => { x with ballast := some (t, u - 1) }).postIn 1250 s.cur .ballastDecay
    | none => s)

/-- The debt of a region has reached 0 and its event is still to be posted. -/
def State.mayClear (s : State) (r : Nat) : Bool := ((s.ret r).accrued (s.freeUnits r) s.now).debtDone

/-- DEBT_CLEARED (R391) of the step's reticle. -/
def execDebtCleared (s : State) : Host.Outcome State Fault Refusal :=
  let r := s.cur.ret
  let s := s.accrue r
  .next (if (s.ret r).debtDone then (s.modRet r fun x => { x with debtDone := false }).capEvent r ((s.ret r).capMsg.getD {}) 4 else s)

/-- The steps of a region's power. -/
def State.powerSteps (s : State) (r : Nat) : List Pend :=
  (if s.mayLower r then [⟨{ ret := r }, .regionLowering⟩] else [])
  ++ (if s.mayClear r then [⟨{ ret := r }, .debtCleared⟩] else [])
  ++ (((List.range 36).filter (s.clusterOn r)).flatMap fun k => ((List.range 5).filter fun i => s.mayGate r k i).map fun i => ⟨{ ret := r, idx := k * 8 + i }, .islandGating⟩)

end Sys2Proof.Machine
end

