-- ==== Sys2Proof/Machine/Slots.lean ====
section
/-! DEFINITION. Maintenance slots: the calendar and its slots (R324, R326), beacons (R325), overruns (R261, R392), and the periodic work of the slices (R100, R374). -/

namespace Sys2Proof.Machine

/-- The housekeeping controller of a reticle as the unit of a step. -/
def retUnit (r : Nat) : Cur := { ret := r }

/-! ### The calendar (R324) -/

/-- The end that the calendar gives the current slot. -/
def Reticle.calEnd (x : Reticle) : Nat := x.slotAt + slotLength x.slotN

/-- Steps of a unit that wait for a time, of the kinds that `f` names, go. -/
def State.cancel (s : State) (f : Pend → Bool) : State := { s with timers := s.timers.filter fun e => !f e.2 }

/-- Timers of the kinds that `f` names fire `d` reference cycles later. -/
def State.delay (s : State) (d : Nat) (f : Pend → Bool) : State :=
  { s with timers := sortBy (fun a b => decide (a.1 < b.1)) (s.timers.map fun e => if f e.2 then (e.1 + d, e.2) else e) }

/-- A retransmission timer of a reticle: it stops while a slot pauses the link (R305). -/
def isResend (r : Nat) (e : Pend) : Bool := match e.ins with
  | .retransmissionTimeout q _ _ => decide (q = r)
  | _ => false

/-- The bound of a port step of a reticle: it counts only outside slots (R386). -/
def isStepBound (r : Nat) (e : Pend) : Bool := match e.ins with
  | .topologyStepTimeout p _ => decide (p / 2 = r)
  | _ => false

/-- A step of the calendar of a reticle. -/
def isCalendar (r : Nat) (e : Pend) : Bool := decide (e.unit = retUnit r) && (decide (e.ins = .slotStart) || decide (e.ins = .linkPauseStart) || decide (e.ins = .beacon))

/-- The beacon root of a partition (R325): its lowest live reticle. -/
def State.root (s : State) (part : Nat) : Option Nat := (s.partRets part).find? fun r => (s.ret r).answers

/-- A step at a time, or at once where that has passed. -/
def State.postAt (s : State) (t : Nat) (u : Cur) (i : Instr) : State := s.postIn (t - s.now) u i

/-- The next slot of a reticle starts at a time: its steps are set for it (R324, R325, R326). -/
def State.calendar (s : State) (r n t : Nat) : State :=
  let s := (s.cancel (isCalendar r)).modRet r fun x => { x with slotN := n, slotAt := t }
  let s := (s.postAt t (retUnit r) .slotStart).postAt (t - 50) (retUnit r) .linkPauseStart
  if s.root (s.partOf r) = some r then s.postAt (t - 1000) (retUnit r) .beacon else s

/-! ### Overruns (R392) -/

/-- Every segment still running when a slot of a reticle starts is noted, and reported when it ends, with the time that it ran past the start (R261, R392). -/
def State.noteSegments (s : State) (r : Nat) : State :=
  let note (l : Landing) : Landing := if l.own && !l.over && l.late.isNone then { l with late := some ((s.ret r).slotN, s.now) } else l
  (s.retJobs r).foldl (fun s e => s.modJob e.1 e.2.id fun j => { j with flight := j.flight.map note }) s

/-- The housekeeping steps of a slot, as R392 numbers them. -/
def slotSteps (n : Nat) : List Nat := if n % 16 = 0 then [3, 4, 5, 6] else [2]

/-- A housekeeping step may run past the slot's end: which one, and how long, are free values (log 3). -/
def State.drawLate (s : State) (r : Nat) : State :=
  let d := s.draw
  let n := d.1.toNat
  let e := (s.ret r).calEnd
  d.2.modRet r fun x => { x with lateStep := ((slotSteps x.slotN)[n % 8]?).map fun st => (st, e + 1 + n / 8 % 4096) }

/-! ### Slots -/

/-- SLOT_START (R324, R326) at the step's reticle; steps abandoned before run again in a major slot. -/
def execSlotStart (s : State) : Host.Outcome State Fault Refusal :=
  let r := s.cur.ret
  let x := s.ret r
  .next (
    if !x.answers ∨ x.inSlot ∨ s.now < x.slotAt then s
    else
      let n := slotLength x.slotN
      let s := s.modRet r fun x => { x with inSlot := true, slotEnd := x.calEnd, retry := if x.slotN % 16 = 0 then [] else x.retry }
      let s := ((s.delay n (isStepBound r)).drawLate r).noteSegments r
      s.postAt x.calEnd (retUnit r) .slotEnd)

/-- The slot of a reticle is over; the calendar goes on with the next one. -/
def State.endSlot (s : State) (r : Nat) : State :=
  let x := s.ret r
  ((s.modRet r fun x => { x with inSlot := false, lateStep := none }).calendar r (x.slotN + 1) (x.slotAt + 31200)).postIn 50 (retUnit r) .linkPauseEnd

/-- The slot of a reticle lasts until `t`: what stands still in it stands still longer (R392). -/
def State.extend (s : State) (r t : Nat) : State :=
  let d := t - (s.ret r).slotEnd
  ((s.delay d (isResend r)).delay d (isStepBound r)).modRet r fun x => { x with slotEnd := t }

/-- SLOT_END (R324, R392) at the step's reticle: a late refresh extends the slot until it ends, any other late step by at most 1,600 reference cycles. -/
def execSlotEnd (s : State) : Host.Outcome State Fault Refusal :=
  let r := s.cur.ret
  let x := s.ret r
  .next (
    if !x.answers ∨ !x.inSlot ∨ s.now < x.slotEnd then s
    else match x.lateStep with
      | none => s.endSlot r
      | some (st, e) =>
        if e ≤ s.now then (s.overrun r x.slotN 4 0xFF st 0 (e - x.calEnd) 0).endSlot r
        else if st = 2 ∨ e ≤ x.calEnd + 1600 then (s.extend r e).postAt e (retUnit r) .slotEnd
        else (s.extend r (x.calEnd + 1600)).postAt (x.calEnd + 1600) (retUnit r) .housekeepingStepAbandon)

/-- HOUSEKEEPING_STEP_ABANDON (R392) at the step's reticle. -/
def execHousekeepingStepAbandon (s : State) : Host.Outcome State Fault Refusal :=
  let r := s.cur.ret
  let x := s.ret r
  .next (match x.lateStep with
    | some (st, _) =>
      if !x.answers ∨ !x.inSlot ∨ s.now < x.slotEnd ∨ st = 2 then s
      else ((s.modRet r fun x => { x with retry := st :: x.retry }).overrun r x.slotN 4 0xFF st 1 1600 0).endSlot r
    | none => s)

/-! ### Link pauses (R326) -/

/-- LINK_PAUSE_START (R326) at the step's reticle: its peers are told to pause, its own transmissions are held, and its retransmission timers stop. -/
def execLinkPauseStart (s : State) : Host.Outcome State Fault Refusal :=
  let r := s.cur.ret
  let x := s.ret r
  .next (if x.pausing ∨ !x.answers then s
    else ((s.modRet r fun x => { x with pausing := true }).delay (slotLength x.slotN + 100) (isResend r)).pausePeers r true)

/-- LINK_PAUSE_END (R326) at the step's reticle: its peers may send again, and what its ports hold is sent. -/
def execLinkPauseEnd (s : State) : Host.Outcome State Fault Refusal :=
  let r := s.cur.ret
  .next (if (s.ret r).inSlot ∨ !(s.ret r).pausing then s
    else ((((s.modRet r fun x => { x with pausing := false }).pausePeers r false).transmit (2 * r)).transmit (2 * r + 1)))

/-! ### Beacons (R325) -/

/-- BEACON (R325): the root of the partition of the step's reticle sends a beacon, 8 reference cycles a hop. -/
def execBeacon (s : State) : Host.Outcome State Fault Refusal :=
  let r := s.cur.ret
  .next (if s.root (s.partOf r) ≠ some r then s
    else ((s.partRets (s.partOf r)).filter fun q => decide (q ≠ r) && (s.ret q).answers).foldl
      (fun s q => s.postIn (8 * hops r q) (retUnit q) (.beaconArrival q (hops r q))) s)

/-- BEACON_ARRIVAL (R325): the slot starts 1,000 − 8h reference cycles later, with the root's index. -/
def execBeaconArrival (ret hops : Nat) (s : State) : Host.Outcome State Fault Refusal :=
  .next (match s.root (s.partOf ret) with
    | some q => if (s.ret ret).inSlot ∨ !(s.ret ret).answers then s else s.calendar ret (s.ret q).slotN (s.now + 1000 - 8 * hops)
    | none => s)

/-! ### The slices -/

/-- GRIT_DECAY (R100): every slice of the step's reticle subtracts 1 from each nonzero grit, every 4,096 reference cycles, while the reticle runs (R18). -/
def execGritDecay (s : State) : Host.Outcome State Fault Refusal :=
  let r := s.cur.ret
  let cool (l : List (Nat × SliceTag)) : List (Nat × SliceTag) := l.map fun e => (e.1, { e.2 with grit := e.2.grit - 1 })
  let s := if (s.ret r).answers then s.modRet r fun x => { x with slices := x.slices.map fun e => (e.1, { e.2 with lines := cool e.2.lines }) } else s
  .next (s.postInOnce 4096 (retUnit r) .gritDecay)

/-- The lines of a slice: 48 GiB of lines, shared among 80 slices (R98). -/
def sliceLines (k : Nat) : Nat := (402653184 + 79 - k) / 80

/-- SCRUB (R374): every slice of the step's reticle reads and corrects its next line, outside slots; correct bytes stay as they are. -/
def execScrub (s : State) : Host.Outcome State Fault Refusal :=
  let r := s.cur.ret
  let s := if (s.ret r).inSlot ∨ !(s.ret r).answers then s
    else (List.range 80).foldl (fun s k => s.modSlice r k fun x => { x with scrubAt := (x.scrubAt + 1) % sliceLines k }) s
  .next (s.postInOnce 2000 (retUnit r) .scrub)

end Sys2Proof.Machine
end

