-- ==== Sys2Proof/Machine/Errors.lean ====
section
/-! DEFINITION. Soft errors (R374–R377): corrected ones, and what an uncorrectable one costs. -/

namespace Sys2Proof.Machine

/-! ### Ending a team from outside -/

/-- `n` free values (log 9). -/
def State.draws (s : State) : Nat → List Word × State
  | 0 => ([], s)
  | n + 1 => let d := s.draw; let r := d.2.draws n; (d.1 :: r.1, r.2)

/-- A team ends by a fault that no trap recorded (R367, R375): the fault log entry holds a reason, and group and split only where the manual gives them (log 9). -/
def State.endByFault (s : State) (t : Nat) (rec : List Byte) (gid : Option Nat) (reason : Nat) : State :=
  let x := s.team t
  let r := s.draws 2
  let g := gid.getD ((r.1.getD 0 0).toNat % 64)
  let s := r.2.logFault (if s.isResident t then x.core else x.home) rec x g ((r.1.getD 1 0).toNat % 4) reason
  if s.isResident t then s.killTeam t else s.endOut t

/-! ### The storage of a core -/

/-- The group or team that owns a word of a core's storage: registers, tags and masks by the offset of their register, tiles and their metadata, the scratchpad. -/
def State.ownerOf (s : State) (c storage off : Nat) : Option (Nat × Option Nat) :=
  let k := s.core c
  let grp (f : Group → Bool) : Option (Nat × Option Nat) := (k.groups.find? fun e => f e.2).map fun e => (e.2.team, some e.2.gid)
  if storage = 1 ∨ storage = 3 then grp fun x => decide (x.regBase ≤ off / 128) && decide (off / 128 < x.regBase + x.regN)
  else if storage = 2 then
    let i := if off < 0x240000 then (off - 0x200000) / 2048 else (off - 0x240000) / 8
    grp fun x => decide (x.accBase ≤ i) && decide (i < x.accBase + x.accN)
  else
    (k.teamsOn.find? fun t => decide ((s.team t).scratchBase ≤ off - 0x100000) && decide (off - 0x100000 < (s.team t).scratchBase + (s.team t).lrec.scratch * 4096)).map fun t => (t, none)

/-- The fault log record of an uncorrectable error: all 0 but the offset of the failing word in bytes 28–31 (R375). -/
def errorRecord (off : Nat) : List Byte := zeros 28 ++ bytesLE 4 off ++ zeros 32

/-! ### L1 lines -/

/-- The bytes of a line that `f` names are no longer valid in a core's L1. -/
def L1Line.drop (l : L1Line) (f : Nat → Bool) : L1Line :=
  let keep : BitVec 128 := (List.range 128).foldl (fun m i => if f i then m else m ||| (1#128 <<< i)) 0
  { l with data := l.data.filter fun e => !f e.1, valid := l.valid &&& keep, dirty := l.dirty &&& keep }

/-- The bytes that `f` names of a core's line are lost: dirty ones for good, clean ones are fetched again (R375). Says whether any was dirty. -/
def State.dropBytes (s : State) (c line : Nat) (f : Nat → Bool) : Bool × State :=
  match (s.core c).line? line with
  | none => (false, s)
  | some l =>
    ((List.range 128).any fun i => f i && l.dirty.getLsbD i,
      s.modCore c fun k => { k with l1 := k.l1.map fun x => if x.line = line then x.drop f else x })

/-- The lines that the accesses of a group are still to touch. -/
def Group.linesAhead (x : Group) : List Nat := (((x.pending.filter fun a => !a.scratch).flatMap Access.touched).map (· / 128)).eraseDups

/-- What the groups have issued to lines that `f` names is performed: those lines become lost now (R376). -/
def State.settleLines (s : State) (f : Nat → Bool) : State :=
  s.cores.foldl (fun s k => k.2.groups.foldl (fun s g => (g.2.linesAhead.filter f).foldl (fun s line => s.settleLine k.1 g.1 line) s) s) s

/-- Two lines lie in one slice. -/
def sameSlice (fa line : Nat) : Bool := decide (faWafer (lineBase line) = faWafer fa) && decide (faRet (lineBase line) = faRet fa) && decide (sliceOf (lineBase line) = sliceOf fa)

/-- A line enters its home slice's lost-line table, and a lease on it is recalled (R376); a full table takes no more. Accesses issued before come first: to the line, and where the table is full from now on to every line of the slice. -/
def State.loseLine (s : State) (fa : Nat) : State :=
  if faWafer fa ≠ s.wafer ∨ s.lost fa then s
  else
    let t := (s.slice (faRet fa) (sliceOf fa)).lost
    match lowest 64 fun i => (aget t i).isNone with
    | some i =>
      let full := decide (63 ≤ t.length)
      let s := s.settleLines fun line => decide (line = fa / 128) || (full && sameSlice fa line)
      (s.modSlice (faRet fa) (sliceOf fa) fun x => { x with lost := aput x.lost i (BitVec.ofNat 64 (faOff fa / 128 * 128 + 1)) }).recallLease fa
    | none => s

/-- An error in an L1 line, in the bytes that `f` names: dirty ones are dropped and the line is lost; a clean line goes whole, to be fetched again, and of a line with other bytes dirty only the bytes at fault. -/
def State.l1Error (s : State) (c line storage off : Nat) (f : Nat → Bool) : State :=
  let clean := match (s.core c).line? line with
    | some l => decide (l.dirty = 0)
    | none => true
  let r := s.dropBytes c line fun i => clean || f i
  let a := lineBase line + off
  if r.1 then (r.2.loseLine (lineBase line)).logCoreError c a storage 2 0xFFFF else r.2.logCoreError c a storage 1 0xFFFF

/-- An error in a slice's entry for a line: a clean one is dropped and refilled, a dirty one is lost (R375). -/
def State.sliceError (s : State) (fa storage : Nat) : State :=
  if !s.held fa then s
  else if (s.lineTag fa).dirty then (s.loseLine fa).logSlice fa storage 2 0xFFFF
  else ((s.dropFromSlice fa).cacheLine fa false).logSlice fa storage 1 0xFFFF

/-! ### Records -/

/-- The record at the head of a queue is skipped: a queue of no records stays as it is. -/
def Ring.skip (q : Ring) : Ring := if q.count = 0 then q else { q with head := q.head + 1 }

/-- An uncorrectable error of a line in DRAM. -/
def State.dramError (s : State) (fa : Nat) : State := (s.loseLine fa).logSlice fa 9 2 0xFFFF

/-! ### The two steps -/

/-- Where an error is logged: a core with storage number and address, or a slice with them (R377). -/
def State.errorPlace (s : State) : ErrSite → (Option Nat) × Nat × Nat
  | .coreWord c st off => (some c, st, off)
  | .l1Line c line off => (some c, 5, lineBase line + off)
  | .l1Tag c line => (some c, 6, lineBase line)
  | .slice fa => (none, 7, fa)
  | .sliceTag fa => (none, 8, fa)
  | .dram fa => (none, 9, fa)
  | .saveArea t => (none, 9, ((s.team t).saveAt.map Prod.fst).getD 0)
  | .launchRecord r p => (none, 9, ((s.ret r).lq p).slot 128 ((s.ret r).lq p).head)
  | .eventRecord r => (none, 9, (s.ret r).eq.slot 64 (s.ret r).eq.head)
  | .sqRecord l => (none, 9, s.recordAt l)

/-- SOFT_ERROR_CORRECTION (R374, R377): the error is corrected, which changes nothing, and logged for the group whose access met it, which the step's unit names: slot 99, which no group has, for a scrub. -/
def execSoftErrorCorrection (site : ErrSite) (bit : Nat) (s : State) : Host.Outcome State Fault Refusal :=
  let p := s.errorPlace site
  .next (match p.1 with
    | some c => s.logCoreError c p.2.2 p.2.1 1 bit
    | none => s.logSlice p.2.2 p.2.1 1 bit)

/-- UNCORRECTABLE_ERROR (R375–R377): met by an access of the group of the step's unit, or with slot 99, which no group has, by a scrub or a unit. -/
def execUncorrectableError (site : ErrSite) (s : State) : Host.Outcome State Fault Refusal :=
  .next (match site with
    | .coreWord c st off =>
      let o := s.ownerOf c st off
      let s := s.logCoreError c off st 2 0xFFFF
      match o with
      | some (t, g) => s.endByFault t (errorRecord off) g 5
      | none => s
    | .l1Line c line off => s.l1Error c line 5 off fun i => decide (i / 8 = off / 8)
    | .l1Tag c line => s.l1Error c line 6 0 fun _ => true
    | .slice fa => s.sliceError fa 7
    | .sliceTag fa => s.sliceError fa 8
    | .dram fa => s.dramError fa
    | .saveArea t => if (s.team t).stage = .evicted then (s.logSlice (s.errorPlace site).2.2 9 2 0xFFFF).endOut t else s
    | .launchRecord r p => (s.modRet r fun x => x.setLq p (x.lq p).skip).logSlice (s.errorPlace site).2.2 9 2 0xFFFF
    | .eventRecord r => (s.modRet r fun x => { x with eq := x.eq.skip }).logSlice (s.errorPlace site).2.2 9 2 0xFFFF
    | .sqRecord l => (s.setLink l { s.link l with sq := (s.link l).sq.skip }).logSlice (s.errorPlace site).2.2 9 2 0xFFFF)

end Sys2Proof.Machine
end

