-- ==== Sys2Proof/Machine/Probe.lean ====
section
/-! DEFINITION. The wait-cycle probe (R292, R293, R370). -/

namespace Sys2Proof.Machine

/-- The core and slot of a group of a resident team. -/
def State.seatOf (s : State) (t gid : Nat) : Option (Nat × Nat) :=
  if s.isResident t then (s.slotOf t gid).map fun g => ((s.team t).core, g) else none

/-- A live split of a group of a team. -/
def State.splitOf (s : State) (t gid p : Nat) : Option Split :=
  match s.seatOf t gid with
  | some (c, g) => s.split? c g p
  | none => none

/-- The splits of groups, as units. -/
def groupUnits (t : Nat) (l : List Group) : List ProbeUnit :=
  l.flatMap fun x => x.splits.map fun e => .split t x.gid e.1

/-- The jobs of a team that a test accepts, as units. -/
def State.jobUnits (s : State) (f : Job → Bool) : List ProbeUnit :=
  s.cores.flatMap fun k => (k.2.jobs.filter f).map fun j => .job k.1 j.id

/-- A group of a team has arrived in the current phase of a barrier: by `barrive` or `gbar`, or by a `drain` that collects there (R180–R182). -/
def Team.hasArrived (x : Team) (a gid : Nat) : Bool :=
  (x.arrivedAt a).contains gid || (match x.drainSet with
    | some d => decide (d.addr = a) && d.groups.contains gid
    | none => false)

/-- The unit that a split is at a blocking point or held for a gang. -/
def State.splitHeld (s : State) (t gid p : Nat) : Bool :=
  match s.seatOf t gid, s.splitOf t gid p with
  | some (c, g), some y => s.splitBlocked c g p y || (s.core c).held.any fun o => decide (o.slot = g) && decide (o.split = p)
  | _, _ => false

/-- The splits of groups of a team that have still to act: a group waits only where every split of it does, since any of them may act for it (R292, R371). -/
def State.idleGroups (s : State) (t : Nat) (l : List Group) : List ProbeUnit :=
  groupUnits t (l.filter fun x => x.splits.all fun e => s.splitHeld t x.gid e.1)

/-- A job counts into a barrier of a team: as its completion, or as the target barrier of an `nput` (R267, R292). -/
def State.countsAt (s : State) (t a : Nat) (j : Job) : Bool :=
  (decide (j.team = t) && (match j.compl with
    | .barrier b _ => decide (b = a)
    | _ => false))
  || (decide (j.cmd = 3) && decide (word j.words 7 ≠ 0xFFFFFFFF) && decide (word j.words 7 / 16 * 16 = a) && decide (s.targetWafer j.team (word j.words 6) = s.wafer) &&
    (let e := s.key (keyRet (j.words.getD 2 0)) (keyIdx (j.words.getD 2 0))
     decide (e.kind ≠ 0) && decide (s.teamOf e.grid e.part e.team = some t)))

/-- The units that a blocked or stalled split awaits (R292): never itself. -/
def State.splitAwaits (s : State) (t gid p : Nat) : List ProbeUnit :=
  match s.seatOf t gid with
  | none => []
  | some (c, g) =>
    let x := s.group c g
    let gs := (s.groupsOf t).map Prod.snd
    let r := (s.team t).lrec
    match (s.core c).held.find? fun o => decide (o.slot = g) && decide (o.split = p) with
    | some o => s.idleGroups t (gs.filter fun y => o.gang.list.contains y.gid && !(s.core c).held.any fun q => decide (q.team = t) && decide (q.gid = y.gid) && decide (q.gang.seq = o.gang.seq))
    | none =>
      match ((s.split? c g p).getD {}).ctl with
      | .blocked (.bar a _) =>
        if (s.team t).gbar = some a.toNat ∧ (s.team t).gbarSent = true then
          (s.teams.filter fun e => decide (e.2.lrec.grid = r.grid) && decide (e.2.lrec.part = r.part) && !e.2.gbarSent && decide (e.2.stage ≠ .ended)).map fun e => .team e.1
        else (s.idleGroups t (gs.filter fun y => !(s.team t).hasArrived a.toNat y.gid)).filter (fun u => decide (u ≠ .split t gid p)) ++ s.jobUnits (s.countsAt t a.toNat)
      | .blocked (.tok w) => s.jobUnits fun j => decide (j.team = t) && j.tokensOf.contains (gid, w)
      | .blocked (.engine tag _ _) => s.cores.flatMap fun k => (k.2.jobs.filter fun j => decide (jobTag k.1 j.id = tag)).map fun j => .job k.1 j.id
      | .blocked (.merge a) => (x.splits.filter fun e => decide (e.2.ctl ≠ .blocked (.merge a))).map fun e => .split t gid e.1
      | _ => []

/-- The units that a job awaits (R292): the teams that hold its landings, and of a `coll` those that have not issued it. -/
def State.jobAwaits (s : State) (c id : Nat) : List ProbeUnit :=
  match (s.core c).jobs.find? fun j => decide (j.id = id) with
  | none => []
  | some j =>
    let x := s.team j.team
    let mine (h : Held) : Bool := decide (h.job = some (c, id)) || (match h.req with
      | some k => decide (k.srcWafer = s.wafer) && decide (pktTag k = jobTag c id)
      | none => false)
    ((s.teams.filter fun e => e.2.held.any mine).map fun e => .team e.1)
    ++ if decide (j.cmd = 6) then
      let lo := j.words.getD 4 0
      let hi := j.words.getD 5 0
      ((rankSet lo hi x.lrec).filterMap fun i => s.teamOf x.lrec.grid x.lrec.part i).filterMap fun u =>
        if ((s.team u).collCount.find? fun e => decide (e.1 = mkD hi lo)).any fun e => decide (j.coll < e.2) then none else some (.team u)
    else []

/-- The units that a unit awaits; a team that is not resident awaits nothing. -/
def State.awaited (s : State) : ProbeUnit → List ProbeUnit
  | .split t gid p => s.splitAwaits t gid p
  | .job c id => s.jobAwaits c id
  | .team t => if s.isResident t then (s.groupsOf t).flatMap fun e => e.2.splits.flatMap fun q => s.splitAwaits t e.2.gid q.1 else []

/-- The unit is blocked. -/
def State.unitBlocked (s : State) : ProbeUnit → Bool
  | .split t gid p => s.splitHeld t gid p
  | .job c id => !(s.jobAwaits c id).isEmpty
  | .team t => s.teamBlocked t

/-- Copies of a probe to every unit that `u` awaits, except those already on the path; the originator is reached again. -/
def State.forward (s : State) (run : Nat) (u : ProbeUnit) (path : List ProbeUnit) : State :=
  let path := path ++ [u]
  let l := (s.awaited u).eraseDups.filter fun v => decide (path.head? = some v) || !path.contains v
  let s := l.foldl (fun s v => s.post { idx := run } (.probeMessage { run := run, dest := v, path := path })) s
  { s with probes := s.probes.map fun (r : ProbeRun) => if r.id = run then { r with copies := r.copies + l.length } else r }

/-- A run whose copies are gone ends, and a command that started it is answered (R329). -/
def State.endRun (s : State) (run : Nat) : State :=
  match s.probes.find? fun (r : ProbeRun) => decide (r.id = run) with
  | none => s
  | some r =>
    if r.copies ≠ 0 then s
    else
      let s : State := { s with probes := s.probes.filter fun (q : ProbeRun) => decide (q.id ≠ run) }
      match r.record with
      | some a => s.answer a 1 0 (if r.found then 1 else 0)
      | none => s

/-- A probe starts from every blocked split of a team (R293). -/
def State.startProbe (s : State) (t : Nat) (record : Option Nat) : State :=
  let run := s.nextId
  let s : State := { s with nextId := run + 1, probes := s.probes ++ [{ id := run, team := t, record := record }] }
  let us := (groupUnits t ((s.groupsOf t).map Prod.snd)).filter s.unitBlocked
  (us.foldl (fun s u => s.forward run u []) s).endRun run

/-- A probe log entry (R370). -/
def State.probeEntry (s : State) (u : ProbeUnit) : List Byte :=
  let e (kind g p t word : Nat) := bytesLE 1 kind ++ bytesLE 1 g ++ bytesLE 1 p ++ bytesLE 1 0 ++ bytesLE 4 (s.team t).lrec.grid.toNat ++ bytesLE 4 (s.team t).lin ++ bytesLE 4 word
  match u with
  | .split t g p => e 1 g p t 0
  | .job c id =>
    let j := ((s.core c).jobs.find? fun j => decide (j.id = id)).getD {}
    e 2 0 0 j.team (j.card.headD 0).toNat
  | .team t => e 3 0 0 t 0

/-- A copy is back at its originator, as each does that returns: the path goes to the probe log of the team's home core and one wait-cycle event is posted (R293, R370). -/
def State.reportCycle (s : State) (run : Nat) (path : List ProbeUnit) : State :=
  match s.probes.find? fun (r : ProbeRun) => decide (r.id = run) with
  | none => s
  | some r =>
    let x := s.team r.team
    let log := (path.map s.probeEntry ++ List.replicate 16 (zeros 16)).take 16
    let s := s.modCore x.home fun k => { k with plog := log, plogHead := k.plogHead + 1 }
    let s : State := { s with probes := s.probes.map fun (q : ProbeRun) => if q.id = run then { q with found := true } else q }
    s.event x.lrec.part (retOf x.home) (siteOf x.home) 0x0003 2
      (bytesLE 4 x.lrec.grid.toNat ++ bytesLE 4 x.lin ++ bytesLE 1 path.length ++ zeros 3 ++ bytesLE 4 (s.core x.home).plogHead.toNat)

/-- A copy is back at its originator: at the split that it started from, or, on a path of two units or more (R370), at the originating team as a unit that is blocked. -/
def State.isBack (s : State) (m : ProbeMsg) : Bool :=
  decide (2 ≤ m.path.length) && (decide (m.path.head? = some m.dest) || (s.unitBlocked m.dest && s.probes.any fun (r : ProbeRun) => decide (r.id = m.run) && decide (m.dest = .team r.team)))

/-- PROBE_MESSAGE (R293). -/
def execProbeMessage (m : ProbeMsg) (s : State) : Host.Outcome State Fault Refusal :=
  let s' : State := if s.isBack m then s.reportCycle m.run m.path
    else if s.unitBlocked m.dest ∧ m.path.length < 16 then s.forward m.run m.dest m.path else s
  .next (({ s' with probes := s'.probes.map fun (r : ProbeRun) => if r.id = m.run then { r with copies := r.copies - 1 } else r } : State).endRun m.run)

/-- Since when a team has stood at a blocking point: the last of its splits to block. -/
def State.blockedSince (s : State) (t : Nat) : Nat :=
  (s.groupsOf t).foldl (fun a e => e.2.splits.foldl (fun a q => max a q.2.waitSince) a) 0

/-- A probe is due by itself (R293). -/
def State.probeDue (s : State) (t : Nat) : Bool :=
  s.teamBlocked t && decide (s.blockedSince t + 2 ^ 24 ≤ s.now) && decide ((s.team t).probed ≠ s.blockedSince t + 1)

/-- WAIT_CYCLE_PROBE_START (R293) from the step's team. -/
def execWaitCycleProbeStart (s : State) : Host.Outcome State Fault Refusal :=
  let t := s.cur.team
  .next (if s.probeDue t then (s.modTeam t fun x => { x with probed := s.blockedSince t + 1 }).startProbe t none else s)

end Sys2Proof.Machine
end

