-- ==== Sys2Proof/Machine/Regulator.lean ====
section
/-! DEFINITION. Regulator failure (R18, R19, R22, R388): what stops with a compute rail, and what goes on without it. -/

namespace Sys2Proof.Machine

/-- The fabric-rail partner of a reticle (R18). -/
def partnerOf (r : Nat) : Nat := if r % 2 = 0 then r + 1 else r - 1

/-- The fabric rail that the regulators of a reticle and its partner feed (R19): 2 full rate, 1 half rate, 0 stopped. -/
def State.rail (s : State) (r : Nat) : Nat := (if (s.ret r).regOk then 1 else 0) + (if (s.ret (partnerOf r)).regOk then 1 else 0)

/-- The teams that a reticle loses with its compute rail: those resident on it and those saved in its save pool. -/
def State.lostTeams (s : State) (r : Nat) : List Nat :=
  (s.teams.filter fun e =>
    (decide (e.2.stage = .resident) && decide (retOf e.2.core = r)) || (decide (e.2.stage = .evicted) && decide (s.saveRet e.1 = r))).map Prod.fst

/-- The teams that wait on a reticle to start, storage held for a concurrent grid included. -/
def State.waitingOn (s : State) (r : Nat) : List Nat :=
  (s.teams.filter fun e => (decide (e.2.stage = .entry) || decide (e.2.stage = .held)) && (decide (retOf e.2.home = r) || decide (retOf e.2.core = r))).map Prod.fst

/-- A waiting team goes to the core that its key now belongs to (R38, R388); an entry is sent on to it, or leaves for its wafer. -/
def State.sendOn (s : State) (t : Nat) : State :=
  let x := s.team t
  match s.ownerPlace x.lrec.part (x.lrec.key x.lin) with
  | none => s.endAway t true false
  | some (w, c) =>
    if w ≠ s.wafer then
      ((s.dropEntries t).modTeam t fun x => { x with stage := .away }).sendAway t
    else
      let s := (if s.placed t then s.dropPlace t else s).dropEntries t
      let s := s.modTeam t fun x => { x with home := c, core := c }
      if x.stage = .entry then s.post { ret := retOf c, idx := clusterOf c, team := t } (.teamEntry (retOf c) (.own t)) else s

/-- Detections go on without lost teams, their sweeps run again (R22), and a grid barrier that needs one never completes. -/
def State.forgetTeams (s : State) (l : List Nat) : State :=
  let keep (m : List Nat) : List Nat := m.filter fun t => !l.contains t
  { s with
    detects := (s.detects.map fun d => { d with members := keep d.members, away := d.away ++ d.fresh, fresh := [], last := none, asked := false, answers := [] }).filter fun d => !(d.members.isEmpty && d.away.isEmpty)
    gbars := s.gbars.map fun b => { b with arrived := if b.release.isEmpty then keep b.arrived else b.arrived, release := keep b.release, sent := keep b.sent } }

/-- A collective of a team counts a lost team among its ranks (R309). -/
def State.losesRank (s : State) (j : Job) (lost : List Nat) : Bool :=
  let x := s.team j.team
  decide (j.cmd = 6) && j.error.isNone && lost.any fun t =>
    decide ((s.team t).lrec.grid = x.lrec.grid) && decide ((s.team t).lrec.part = x.lrec.part) && (s.planOf j).ranks.contains (s.team t).lin

/-- Every rank whose peer is lost with a reticle takes an error response: its job ends with reason 3 (R309). -/
def State.endRanks (s : State) (r : Nat) (lost : List Nat) : State :=
  (s.cores.flatMap fun k => (k.2.jobs.filter fun j => s.losesRank j lost).map fun j => (k.1, j)).foldl
    (fun s e => s.stopJob e.1 e.2 e.2.seg { reason := 3, space := 2, addr := BitVec.ofNat 64 (targetBase s.wafer r) }) s

/-- A reticle sends nothing more: what it has sent and nobody has received is lost, in its own ports and everywhere else (R388). -/
def State.silence (s : State) (r : Nat) : State :=
  let keep (k : Packet) : Bool := decide (k.srcWafer ≠ s.wafer) || decide (k.srcRet ≠ r)
  let mute (x : PortState) : PortState := { x with queue := x.queue.filter keep }
  ({ s with
    agenda := s.agenda.filter fun e => (packetOf e).all keep
    rets := s.rets.map fun e => (e.1, { e.2 with portA := mute e.2.portA, portB := mute e.2.portB }) } : State).modRet r fun x => { x with tx := [] }

/-- The loans to and from a region are cancelled (R317, R388). -/
def State.cancelLoans (s : State) (r : Nat) : State :=
  let s := (s.ret r).loans.foldl (fun (s : State) (e : Nat × Nat) => (s.accrue e.1).modRet e.1 fun x => { x with loan := x.loan - e.2 }) s
  let s := retList.foldl (fun s q =>
    let n : Nat := ((((s.ret q).loans ++ (s.ret q).recalls).filter fun e => decide (e.1 = r)).map Prod.snd).foldl (· + ·) 0
    if n = 0 then s
    else (s.accrue q).modRet q fun x => { x with loan := x.loan + (n : Int), loans := x.loans.filter fun e => decide (e.1 ≠ r), recalls := x.recalls.filter fun e => decide (e.1 ≠ r) }) s
  (s.accrue r).modRet r fun x => { x with loan := 0, loans := [], recalls := [], wants := 0, asks := [] }

/-- A core that has lost its supply: nothing runs on it, and nothing of it remains. -/
def deadCore (k : Core) : Core := { l1ways := k.l1ways }

/-- The reticle is live no longer: its units lose what they hold, its bus switches close (R22), and its slot is over; its ports are down by then. -/
def Reticle.stopUnits (x : Reticle) : Reticle :=
  { x with live := false, tx := [], colls := [], chunks := [], unsent := [], serving := none, bypass := BitVec.allOnes 72, inSlot := false, lateStep := none, pausing := false, walkCache := [], retired := { x.retired with regulator := true }, clusters := x.clusters.map fun e => (e.1, { e.2 with entries := [], ballast := none, asking := false, idleSince := none, busy := false, ramp := 0 }) }

/-- A step of the housekeeping of a reticle's slots. -/
def isSlotStep (r : Nat) (e : Pend) : Bool :=
  decide (e.unit = retUnit r) && (isCalendar r e || decide (e.ins = .slotEnd) || decide (e.ins = .linkPauseEnd) || decide (e.ins = .housekeepingStepAbandon))

/-- The compute rail of a reticle stops. -/
def State.computeOff (s : State) (r : Nat) : State :=
  let lost := s.lostTeams r
  let waits := s.waitingOn r
  let s := ((s.forgetTeams lost).endRanks r lost).silence r
  let s := (s.portDown (2 * r) 4).portDown (2 * r + 1) 4
  let s : State := { s with ring := s.ring.filter fun e => decide (e.2.1 ≠ s.wafer) || decide (retOf e.2.2 ≠ r) }
  let s := lost.foldl (fun s t => (s.unforward t).countEnd t true false) s
  let s := waits.foldl (fun s t => s.sendOn t) s
  let s : State := { s with cores := s.cores.map fun e => if retOf e.1 = r then (e.1, deadCore e.2) else e }
  let s := ((s.cancelLoans r).cancel (isSlotStep r)).modRet r Reticle.stopUnits
  if r = 0 then { s with link1 := { s.link1 with role := 0 }, link0 := { s.link0 with role := 1 } }
  else if r = 63 then { s with link0 := { s.link0 with role := 0 }, link1 := { s.link1 with role := 1 } }
  else s

/-- The partitions that hold a reticle or its partner. -/
def State.partsAt (s : State) (r : Nat) : List Nat := [s.partOf r, s.partOf (partnerOf r)].eraseDups

/-- A regulator-failure event about a reticle, from the lowest live reticle of each partition concerned. -/
def State.regulatorEvent (s : State) (r lost : Nat) : State :=
  let x := s.ret r
  let which := (if x.regOk then 0 else 1) + (if (s.ret (partnerOf r)).regOk then 0 else 2)
  (s.partsAt r).foldl (fun s part =>
    s.event part ((s.root part).getD r) 0xFF 0x0030 (if x.regOk then 1 else 3)
      (bytesLE 1 r ++ bytesLE 1 which ++ bytesLE 1 (if x.regOk then 1 else 0) ++ bytesLE 1 (s.rail r) ++ bytesLE 4 lost)) s

/-- Buses that cross a reticle whose fabric rail has stopped stop as well (R22, R384). -/
def State.railEvent (s : State) (r : Nat) : State :=
  if s.rail r ≠ 0 then s else (s.partsAt r).foldl (fun s part => s.event part r 0xFF 0x0024 3 (bytesLE 2 0xFFFF ++ bytesLE 2 0)) s

/-- The regulator of one reticle fails. -/
def State.regulatorFails (s : State) (r : Nat) : State :=
  if !(s.ret r).regOk then s
  else
    let q := partnerOf r
    let n := (s.lostTeams r).length
    let live := (s.ret r).live
    let s := s.modRet r fun x => { x with regOk := false }
    let f := s.rail r
    let s := (s.modRet r fun x => { x with fabric := f }).modRet q fun x => { x with fabric := f }
    let s := if live then s.computeOff r else s
    ((s.regulatorEvent r n).regulatorEvent q 0).railEvent r

/-- REGULATOR_FAILURE (R388) at the step's reticle: index 1 for its own regulator, 2 for its partner's, 3 for both. -/
def execRegulatorFailure (s : State) : Host.Outcome State Fault Refusal :=
  let r := s.cur.ret
  let k := s.cur.idx
  let s := if k % 2 = 1 then s.regulatorFails r else s
  .next (if k / 2 % 2 = 1 then s.regulatorFails (partnerOf r) else s)

end Sys2Proof.Machine
end

