-- ==== Sys2Proof/Machine/Windows.lean ====
section
/-! DEFINITION. What the device's registers and logs read as: the windows of R92, core control, BAR0 (R330) and the management window. An offset that no rule lists reads 0. -/

namespace Sys2Proof.Machine

/-- A field of a register: its value at a low bit. -/
def fieldAt (lo v : Nat) : Nat := v * 2 ^ lo

/-- A register's number as 64 bits. -/
def reg64 (n : Nat) : Dword := BitVec.ofNat 64 n

/-- The four registers of a queue (R275), at offset 0, 8, 0x10 and 0x18. -/
def Ring.read (q : Ring) (off : Nat) : Dword :=
  match off with
  | 0x00 => q.base
  | 0x08 => reg64 (fieldAt 1 q.log2n + q.en.toNat)
  | 0x10 => reg64 q.head.toNat
  | 0x18 => reg64 q.tail.toNat
  | _ => 0

/-- Eight bytes of a log of entries of `size` bytes: entry `off / size`, 0 where none has been written. -/
def logWord (t : Nat → List Byte) (size off : Nat) : Dword :=
  reg64 (natLE (((t (off / size)).drop (off % size)).take 8))

/-- The launch distributor (R275). -/
def Reticle.readDistributor (x : Reticle) (off : Nat) : Dword :=
  if off < 0x100 then (x.lq (off / 0x40)).read (off % 0x40)
  else match off with
    | 0x100 => x.saveBase
    | 0x108 => reg64 x.saveSize
    | 0x110 => reg64 x.preemptWin
    | _ => 0

/-- A key table entry as 256 bits (R299). -/
def KeyEntry.number (e : KeyEntry) : Nat :=
  fieldAt 226 e.team + fieldAt 194 e.grid.toNat + fieldAt 137 e.vbase + fieldAt 101 e.len + fieldAt 85 e.inflight + fieldAt 71 e.gen
    + fieldAt 63 e.part + fieldAt 61 e.kind + fieldAt 58 e.rights.toNat + fieldAt 56 e.state

/-- `PORT_STATE` (R311). -/
def PortState.word (x : PortState) : Dword := reg64 (fieldAt 8 x.peer.toNat + fieldAt 4 x.lit.toNat + x.st)

/-- The endpoint engine (R314). -/
def Reticle.readEndpoint (x : Reticle) (off : Nat) : Dword :=
  if off < 0x800 then tget 0 x.route0 (off / 8)
  else if off < 0x1000 then tget 0 x.route1 ((off - 0x800) / 8)
  else if off = 0x1000 then reg64 (x.bank.toNat + fieldAt 1 x.armed.toNat)
  else if off = 0x1100 then x.portA.word
  else if off = 0x1108 then x.portB.word
  else if 0x8000 ≤ off ∧ off < 0x8800 then logWord (tget [] x.rlog) 32 (off - 0x8000)
  else if off = 0x8800 then reg64 x.rlogHead.toNat
  else if 0x20000 ≤ off ∧ off < 0x40000 then
    reg64 ((tget {} x.keys ((off - 0x20000) / 32)).number / 2 ^ (8 * (off % 32)))
  else 0

/-- `PWR_STAT` (R315): `LOAN` as a signed field of 16 bits. -/
def State.pwrStat (s : State) (ret : Nat) : Dword :=
  reg64 (fieldAt 32 (BitVec.ofInt 16 (s.ret ret).loan).toNat + fieldAt 16 (s.rsv ret % 2 ^ 16) + (s.ret ret).capsh % 2 ^ 16)

/-- `CL_OP` (R319). -/
def Cluster.op (k : Cluster) : Dword := reg64 (fieldAt 8 k.tgt + fieldAt 4 k.cur + fieldAt 3 k.busy.toNat + k.gov.toNat)

/-- The housekeeping controller: `PWR_STAT`, `CAP_SAFE`, `PWR_DEBT`, `START_ERR`, `CL_OP`, `STALL_SMP` and the defect map (R315, R319, R321, R390, R391, R394, R396). -/
def State.readHousekeeping (s : State) (ret off : Nat) : Dword :=
  match off with
  | 0x1000 => s.pwrStat ret
  | 0x1010 => reg64 s.capSafe
  | 0x1018 => reg64 (min (s.debtNow ret) (2 ^ 40 - 1))
  | 0x1020 => reg64 (s.ret ret).startErr.toNat
  | _ =>
    if 0x1100 ≤ off ∧ off < 0x1100 + 8 * 36 then (s.cluster ret ((off - 0x1100) / 8)).op
    else if 0x2000 ≤ off ∧ off < 0x3010 then logWord (fun _ => s.defectMap) 4112 (off - 0x2000)
    else if 0x1400 ≤ off ∧ off < 0x1400 + 8 * 36 then reg64 (s.cluster ret ((off - 0x1400) / 8)).smp
    else 0

/-- The service core's window: the event queue on the reticle that holds it (R313, R314). -/
def State.readEvents (s : State) (ret off : Nat) : Dword :=
  if s.eventRet (s.partOf ret) ≠ some ret then 0
  else if off = 0x20 then reg64 (s.ret ret).eqLost.toNat
  else (s.ret ret).eq.read off

/-- A slice's control page: its lost-line table and its memory error log (R376, R377). -/
def Slice.read (x : Slice) (off : Nat) : Dword :=
  if off < 0x200 then tget 0 x.lost (off / 8)
  else if 0x800 ≤ off ∧ off < 0xC00 then logWord (tget [] x.melog) 32 (off - 0x800)
  else if off = 0xC00 then reg64 x.melogHead.toNat
  else 0

/-- Core control: the current record of its cluster, and the core's logs (R264, R287, R358, R370, R377). -/
def State.readControl (s : State) (c off : Nat) : Dword :=
  let k := s.core c
  if off = 0x100 then reg64 (s.cluster (retOf c) (clusterOf c)).curRec.toNat
  else if off = 0x108 then reg64 (s.cluster (retOf c) (clusterOf c)).curHwm.toNat
  else if 0x8000 ≤ off ∧ off < 0xA000 then logWord (tget [] k.elog) 128 (off - 0x8000)
  else if off = 0xA000 then reg64 k.elogHead.toNat
  else if 0xB000 ≤ off ∧ off < 0xB800 then logWord (tget [] k.flog) 128 (off - 0xB000)
  else if off = 0xB800 then reg64 k.flogHead.toNat
  else if 0xC000 ≤ off ∧ off < 0xC100 then logWord (fun i => k.plog.getD i []) 16 (off - 0xC000)
  else if off = 0xC100 then reg64 k.plogHead.toNat
  else if 0xD000 ≤ off ∧ off < 0xD400 then logWord (tget [] k.melog) 32 (off - 0xD000)
  else if off = 0xD400 then reg64 k.melogHead.toNat
  else 0

/-- The eight bytes at a privileged offset of a reticle's physical map, a multiple of 8 (R92). -/
def State.readFabric (s : State) (ret off : Nat) : Dword :=
  if off < 0xF00000000 then 0
  else if off < 0xF12000000 then
    let w := (off - 0xF00000000) % 0x400000
    if 0x300000 ≤ w ∧ w < 0x310000 then s.readControl (ret * 72 + (off - 0xF00000000) / 0x400000) (w - 0x300000) else 0
  else if off < 0xF12100000 then (s.ret ret).readDistributor (off - 0xF12000000)
  else if off < 0xF12200000 then (if off = 0xF12100000 then (s.ret ret).xlatRoot else 0)
  else if off < 0xF12300000 then (s.ret ret).readEndpoint (off - 0xF12200000)
  else if off < 0xF12400000 then 0
  else if off < 0xF12500000 then s.readHousekeeping ret (off - 0xF12400000)
  else if off < 0xF12600000 then s.readEvents ret (off - 0xF12500000)
  else if off < 0xF12650000 then (s.slice ret ((off - 0xF12600000) / 0x1000)).read ((off - 0xF12600000) % 0x1000)
  else 0

/-- `START_STAT` (R327). -/
def State.startStat (s : State) : Dword := reg64 (fieldAt 8 s.started.toNat + fieldAt 4 s.startStep + s.startKind)

/-- `WAFER_ID` (R331). -/
def State.waferId (s : State) : Dword := reg64 (fieldAt 16 s.waferNext + s.wafer)

/-- The eight bytes at an offset of BAR0, a multiple of 8, which a standby link reads as well (R330). -/
def State.readBar0 (s : State) (l off : Nat) : Dword :=
  let x := s.link l
  if off < 0x20 then x.sq.read off
  else match off with
    | 0x100 => reg64 (fieldAt 32 x.capMsg.cap.toNat + x.capMsg.seq.toNat)
    | 0x108 => reg64 x.capMsg.lease.toNat
    | 0x110 => s.startStat
    | 0x118 => reg64 x.role
    | 0x128 => x.aper
    | 0x130 => s.waferId
    | _ => 0

/-! ### The management window (R330) -/

/-- A host link accepts writes besides `LINK_ROLE` and `CAP_MSG`. -/
def HostLink.accepts (x : HostLink) : Bool := decide (x.role ≠ 1)

/-- The fabric address at an offset of a link's management window. -/
def State.windowAt (s : State) (l off : Nat) : Nat := (s.link l).aper.toNat + off % 2 ^ 32

/-- An access that reaches an unassigned address takes an error response, and a reticle's units log the address (R92): the first such byte. -/
def State.logUnassigned (s : State) (by' : Nat) (l : List Nat) : State :=
  match l.find? fun a => decide (s.target a = .unassigned) with
  | some a => s.modRet (if faWafer a = s.wafer then faRet a else by') fun x => { x with logged := BitVec.ofNat 64 a :: x.logged }
  | none => s

/-- A byte that a privileged access reads: of memory or a core window where it lives, of a register its part of the eight bytes; what another wafer answers is free (log 1). -/
def State.privilegedByte (s : State) (a : Nat) : Byte × State :=
  if faWafer a ≠ s.wafer then (s.draw.1.setWidth 8, s.draw.2)
  else match s.target a with
  | .privileged => (BitVec.ofNat 8 ((s.readFabric (faRet a) (faOff a / 8 * 8)).toNat / 256 ^ (a % 8)), s)
  | .unassigned => (0, s)
  | _ => (s.seenByte none a, s.serve none (lineBase (a / 128)))

/-- Bytes that privileged accesses read. -/
def State.privilegedBytes (s : State) : List Nat → List Byte × State
  | [] => ([], s)
  | a :: l =>
    let x := s.privilegedByte a
    let y := x.2.privilegedBytes l
    (x.1 :: y.1, y.2)

/-- Why a privileged read of a byte takes an error response (R92, R376, R388). -/
def State.privilegedError (s : State) (a : Nat) : Option Nat :=
  if s.target a = .unassigned then some 1
  else if s.dark a || (decide (s.target a = .dram) && s.lost a) then some 4
  else none

/-- Bytes read through a link's management window; none where the access is dropped, waits for the end of a slot (R103), or takes an error response, which is logged (R92). -/
def State.managementRead (s : State) (link off n : Nat) : Option (List Byte) × State :=
  let l := link % 2
  let a := s.windowAt l off
  let at' := (List.range n).map (a + ·)
  if !(s.link l).accepts ∨ !s.hostReaches l (faWafer a) (faRet a) ∨ at'.any s.slotWaits then (none, s)
  else match at'.findSome? fun x => (s.privilegedError x).map fun i => (x, i) with
    | some (x, i) => (none, s.at { slot := 99 } fun s => s.report (linkRet l) { code := 10, info := i, fa := x })
    | none => let r := s.privilegedBytes at'; (some r.1, r.2)

end Sys2Proof.Machine
end

