-- ==== Sys2Proof/Machine/Registers.lean ====
section
/-! DEFINITION. Device registers as system software and the host write them: the windows of R92 and R314, BAR0, the link roles and the management window (R330). Reserved bits ignore writes (R6). -/

namespace Sys2Proof.Machine

/-- A value with only bits [hi:lo] kept. -/
def only (hi lo : Nat) (v : Dword) : Dword := BitVec.ofNat 64 (bitsOf v.toNat hi lo * 2 ^ lo)

/-- The control register of a queue (R275). -/
def Ring.setCtrl (q : Ring) (v : Dword) : Ring := { q with log2n := bitsOf v.toNat 4 1, en := v.getLsbD 0 }

/-- A write to one of the four registers of a launch or system queue, at offset 0, 8, 0x10 or 0x18; the head is read-only. -/
def Ring.write (q : Ring) (off : Nat) (v : Dword) : Ring :=
  match off with
  | 0x00 => { q with base := only 55 7 v }
  | 0x08 => q.setCtrl v
  | 0x18 => { q with tail := v.setWidth 32 }
  | _ => q

/-! ### The windows of a reticle -/

/-- The launch distributor (R275). -/
def Reticle.writeDistributor (x : Reticle) (off : Nat) (v : Dword) : Reticle :=
  if off < 0x100 then x.setLq (off / 0x40) ((x.lq (off / 0x40)).write (off % 0x40) v)
  else if off = 0x100 then { x with saveBase := only 55 16 v }
  else if off = 0x108 then { x with saveSize := bitsOf v.toNat 23 0 }
  else if off = 0x110 then { x with preemptWin := bitsOf v.toNat 31 0 }
  else x

/-- A route entry (R296, R314): ignored on the bank in force, and on a bank that is being armed. -/
def Reticle.writeRoute (x : Reticle) (bank : Bool) (i : Nat) (v : Dword) : Reticle :=
  let w := only 59 28 v ||| only 13 0 v
  if x.bank = bank ∨ x.arming = some (if bank then 1 else 0) ∨ 256 ≤ i then x
  else if bank then { x with route1 := tset 0 x.route1 i w } else { x with route0 := tset 0 x.route0 i w }

/-- A lost-line entry (R376): a write of 0 removes it, and no other value is taken. -/
def State.writeLost (s : State) (ret k i : Nat) (v : Dword) : State :=
  if v = 0 then s.modSlice ret k fun x => { x with lost := adel x.lost i } else s

/-- The housekeeping controller: `CAP_SAFE`, which is the module's (R390), and `CL_OP` (R319). -/
def State.writeHousekeeping (s : State) (ret off : Nat) (v : Dword) : State :=
  let n := bitsOf v.toNat 15 0
  if off = 0x1010 then (if 1000 ≤ n ∧ n ≤ 36000 then { s with capSafe := n } else s)
  else if 0x1100 ≤ off ∧ off < 0x1100 + 8 * 36 then s.writeClOp ret ((off - 0x1100) / 8) v
  else s

/-- The event queue in the service core's window (R313, R314): only on the reticle that holds it. -/
def State.writeEvents (s : State) (ret off : Nat) (v : Dword) : State :=
  if s.eventRet (s.partOf ret) ≠ some ret then s
  else s.modRet ret fun x => match off with
    | 0x00 => { x with eq := { x.eq with base := only 55 6 v } }
    | 0x08 => { x with eq := x.eq.setCtrl v }
    | 0x10 => { x with eq := { x.eq with head := v.setWidth 32 } }
    | _ => x

/-- A write of 8 bytes to a privileged register of a reticle, by its offset in the physical map (R92, R314); read-only and reserved ones ignore it. -/
def State.writeFabric (s : State) (ret off : Nat) (v : Dword) : State :=
  if !(s.ret ret).answers ∨ off % 8 ≠ 0 then s
  else if off < 0xF00000000 then s
  else if off < 0xF12000000 then
    let n := (off - 0xF00000000) / 0x400000
    if (off - 0xF00000000) % 0x400000 = 0x300108 then s.modCluster ret (n / 2) fun k => { k with curHwm := v.setWidth 24 } else s
  else if off < 0xF12100000 then s.modRet ret fun x => x.writeDistributor (off - 0xF12000000) v
  else if off < 0xF12200000 then (if off = 0xF12100000 then s.modRet ret fun x => { x with xlatRoot := only 55 13 v ||| only 0 0 v } else s)
  else if off < 0xF12300000 then
    let o := off - 0xF12200000
    if o < 0x1000 then s.modRet ret fun x => x.writeRoute (decide (0x800 ≤ o)) (o % 0x800 / 8) v else s
  else if off < 0xF12400000 then s
  else if off < 0xF12500000 then s.writeHousekeeping ret (off - 0xF12400000) v
  else if off < 0xF12600000 then s.writeEvents ret (off - 0xF12500000) v
  else if off < 0xF12650000 then
    let o := off - 0xF12600000
    if o % 0x1000 < 0x200 then s.writeLost ret (o / 0x1000) (o % 0x1000 / 8) v else s
  else s

/-- ROUTE_TABLE_ENTRY_WRITE (R296, R314). -/
def execRouteTableEntryWrite (ret : Nat) (bank : Bool) (index : Nat) (value : Dword) (s : State) : Host.Outcome State Fault Refusal :=
  .next (if (s.ret ret).answers then s.modRet ret fun x => x.writeRoute bank index value else s)

/-- LOST_LINE_ENTRY_WRITE (R376). -/
def execLostLineEntryWrite (ret slice index : Nat) (value : Dword) (s : State) : Host.Outcome State Fault Refusal :=
  .next (if (s.ret ret).answers then s.writeLost ret slice index value else s)

/-- CORE_WINDOW_WRITE (R93, R94): bytes written to a core's window from `off` on; those outside its assigned ranges take an error response. -/
def execCoreWindowWrite (core off : Nat) (bytes : List Byte) (s : State) : Host.Outcome State Fault Refusal :=
  let a := s.fa (retOf core) (0xF00000000 + siteOf core * 0x400000 + off % 0x400000)
  let l : List (Nat × Byte) := bytes.mapIdx fun i b => (a + i, b)
  .next ((s.logUnassigned (retOf core) (l.map Prod.fst)).homeWrites none (l.filter fun e => s.isWindow e.1))

/-! ### BAR0 (R330) -/

/-- A role written to a link (R330): active puts the other link on standby, shared sets both, standby is ignored where it would leave no link that accepts commands. -/
def State.writeRole (s : State) (l role : Nat) : State :=
  let o := 1 - l
  match role with
  | 0 => (s.setLink l { s.link l with role := 0 }).setLink o { s.link o with role := 1 }
  | 1 => if (s.link l).accepts && decide ((s.link o).role = 1) then s else s.setLink l { s.link l with role := 1 }
  | 2 => (s.setLink l { s.link l with role := 2 }).setLink o { s.link o with role := 2 }
  | _ => s

/-- LINK_ROLE_ACTIVE (R330) written to the link of the step's index. -/
def execLinkRoleActive (s : State) : Host.Outcome State Fault Refusal := .next (s.writeRole (s.cur.idx % 2) 0)

/-- LINK_ROLE_STANDBY (R330) written to the link of the step's index. -/
def execLinkRoleStandby (s : State) : Host.Outcome State Fault Refusal := .next (s.writeRole (s.cur.idx % 2) 1)

/-- LINK_ROLE_SHARED (R330) written to the link of the step's index. -/
def execLinkRoleShared (s : State) : Host.Outcome State Fault Refusal := .next (s.writeRole (s.cur.idx % 2) 2)

/-- A write of 8 bytes to BAR0 of a link (R330); a cap message is 16 bytes and has a step of its own. -/
def State.writeBar0 (s : State) (l off : Nat) (v : Dword) : State :=
  if off = 0x118 then s.writeRole l (bitsOf v.toNat 1 0)
  else if !(s.link l).accepts then s
  else if off < 0x20 then s.setLink l { s.link l with sq := (s.link l).sq.write off v }
  else if off = 0x128 then s.setLink l { s.link l with aper := only 55 32 v }
  else s

/-- REGISTER_WRITE (R6): a register of BAR0 or of a reticle's windows. -/
def execRegisterWrite (reg : RegAddr) (value : Dword) (s : State) : Host.Outcome State Fault Refusal :=
  .next (match reg with
    | .bar0 l off => s.writeBar0 (l % 2) off value
    | .fabric r off => s.writeFabric r off value)

/-! ### The management window (R330) -/

/-- The 8-byte words that a run of bytes covers whole, by address. -/
def wholeWords (a : Nat) (bytes : List Byte) : List (Nat × Dword) :=
  (List.range bytes.length).filterMap fun i =>
    if (a + i) % 8 = 0 ∧ i + 8 ≤ bytes.length then some (a + i, BitVec.ofNat 64 (natLE ((bytes.drop i).take 8))) else none

/-- MANAGEMENT_WINDOW_WRITE (R330): privileged access to the fabric addresses from `MGMT_APER` upward: memory and core windows take the bytes, registers the whole words among them, those of another wafer as that wafer does (log 1); an unassigned address is logged. A write to DRAM waits for the end of a slot there (R103, R326). A standby link's window drops the write, and one that no plane carries from the link's reticle is not performed (R20; log 93). -/
def execManagementWindowWrite (link off : Nat) (bytes : List Byte) (s : State) : Host.Outcome State Fault Refusal :=
  let l := link % 2
  let a := s.windowAt l off
  let cells : List (Nat × Byte) := bytes.mapIdx fun i b => (a + i, b)
  let regs := (wholeWords a bytes).filter fun e => decide (s.target e.1 = .privileged) && decide (faWafer e.1 = s.wafer)
  .next (
    if !(s.link l).accepts ∨ !s.hostReaches l (faWafer a) (faRet a) then s
    else if cells.any fun e => s.slotWaits e.1 then s.post s.cur (.managementWindowWrite link off bytes)
    else
      let s := regs.foldl (fun s e => s.writeFabric (faRet e.1) (faOff e.1) e.2) s
      (s.logUnassigned (linkRet l) (cells.map Prod.fst)).homeWrites none (cells.filter fun e => decide (s.target e.1 = .dram) || s.isWindow e.1))

end Sys2Proof.Machine
end

