-- ==== Sys2Proof/Machine/Special.lean ====
section
/-! DEFINITION. Special registers and the fast operand buffer (R59, R60, R166–R168, R170, R351). -/

namespace Sys2Proof.Machine

/-- What `sget` reads (R59): the words of an assigned index outside the trap state. -/
def State.special (s : State) (i : Nat) : Option RegVal :=
  let c := s.cur.core
  let t := s.myTeam
  let r := t.lrec
  let x := s.me
  let top := x.loops.head?.getD {}
  let w (n : Nat) : Option RegVal := some (.uniform (BitVec.ofNat 32 n))
  match i with
  | 0x00 => some (.affine 0 1)
  | 0x01 => w s.here.gid
  | 0x02 => w s.here.role
  | 0x03 => w s.cur.split
  | 0x04 => w (t.lin % max 1 r.nx)
  | 0x05 => w (t.lin / max 1 r.nx % max 1 r.ny)
  | 0x06 => w (t.lin / (max 1 r.nx * max 1 r.ny))
  | 0x07 => w r.nx
  | 0x08 => w r.ny
  | 0x09 => w r.nz
  | 0x0A => some (.uniform r.grid)
  | 0x0B => w (siteOf c)
  | 0x0C => w (retOf c)
  | 0x0D => w s.wafer
  | 0x10 => some (.uniform (loW (s.refCount (retOf c))))
  | 0x11 => some (.uniform x.refHi)
  | 0x12 => w (s.slotNext (retOf c))
  | 0x13 => w (s.slotLen (retOf c))
  | 0x20 => w x.loops.length
  | 0x21 => some (.uniform (loW top.start))
  | 0x22 => some (.uniform (loW top.stop))
  | 0x23 => some (.uniform top.count)
  | _ => none

/-- A trap-state register, readable in a handler (R166, R351). -/
def Split.trapReg (x : Split) (i : Nat) : Option RegVal :=
  if x.inHandler && decide (0x30 ≤ i) then (x.trap.regs[i - 0x30]?).map .uniform else none

/-- `sget` (R166): a read of `ref.count` latches its high word for the split (R59). -/
def execSget (p : Bool) (d : BitVec 8) (imm : BitVec 9) (s : State) : Host.Outcome State Fault Refusal :=
  s.control p fun s => Try.act do
    let i := imm.toNat
    s.needFree [d.toNat]
    s.rangesOk [(1, d.toNat, 1)]
    match (s.special i).orElse fun _ => s.me.trapReg i with
    | none => fail s { code := 2, field := 6, info := i }
    | some v =>
      let s := if i = 0x10 then s.modMe fun x => { x with refHi := hiW (s.refCount (retOf s.cur.core)) } else s
      return .done (s.ctlWrite d.toNat { val := v, tag := tN32 })

/-- The count of the top loop entry (R59). -/
def setTopCount (v : Word) : List LoopEntry → List LoopEntry
  | [] => []
  | e :: l => { e with count := v } :: l

/-- `sput` (R167, R351): `loop.count`; in a handler `trap.cause` bit 9, `trap.pc` and `trap.pc.hi`. -/
def execSput (p : Bool) (a : BitVec 8) (imm : BitVec 9) (s : State) : Host.Outcome State Fault Refusal :=
  s.control p fun s => Try.act do
    let i := imm.toNat
    let A := s.src 2 a
    s.rangesOk [(2, a.toNat, 1)]
    failIf s (!(decide (i = 0x23) || (s.me.inHandler && decide (0x30 ≤ i) && decide (i ≤ 0x32)))) { code := 2, field := 6, info := i }
    s.operands [] [A]
    if i = 0x23 then
      failIf s s.me.loops.isEmpty { code := 11 }
      return .done (s.modMe fun x => { x with loops := setTopCount A.u x.loops })
    return .done (s.modMe fun x =>
      { x with trap :=
        if i = 0x30 then { x.trap with cause := (x.trap.cause &&& ~~~0x200#32) ||| (A.u &&& 0x200#32) }
        else if i = 0x31 then { x.trap with pc := A.u }
        else { x.trap with pcHi := A.u } })

/-- `rgn` (R60, R168): the present runs replace the staging; it changes no value. -/
def execRgn (p : Bool) (run0 run1 run2 run3 : BitVec 5) (present : BitVec 4) (s : State) : Host.Outcome State Fault Refusal :=
  s.control p fun s => Try.act do
    let runs := [run0, run1, run2, run3].mapIdx fun i r => if present.getLsbD i then some (8 * r.toNat) else none
    s.rangesOk (runs.filterMap fun r => r.map fun b => (7, b, 8))
    return .done (s.modHere fun g => { g with staged := if present = 0 then [] else runs })

/-- `slotq` (R170): three uniform n32 values, taken at issue. -/
def execSlotq (p : Bool) (d : BitVec 8) (s : State) : Host.Outcome State Fault Refusal :=
  s.control p fun s => Try.act do
    let r := retOf s.cur.core
    s.needFree [d.toNat, d.toNat + 1, d.toNat + 2]
    s.rangesOk [(1, d.toNat, 3)]
    let w (n : Nat) := uni (BitVec.ofNat 32 n) tN32
    return .done (((s.ctlWrite d.toNat (w (s.slotNext r))).ctlWrite (d.toNat + 1) (w (s.slotLen r))).ctlWrite (d.toNat + 2) (w (s.slotWord r)))

end Sys2Proof.Machine
end

