-- ==== Sys2Proof/Machine/System.lean ====
section
/-! DEFINITION. The commands of the system queue (R328, R329): partitions (R294), regions (R300, R302), TLB invalidation (R90), pre-emption (R367, R372), probes (R293), staged enables, attestation and the wafer id (R331). A refusal names the low bit of the field in the record. -/

namespace Sys2Proof.Machine

/-- A command whose named checks pass, in order; a check is a condition that refuses and the bit that it names. -/
def State.checked (s : State) (l : Nat) (cs : List (Bool × Nat)) (f : State → State) : State :=
  match cs.find? Prod.fst with
  | some c => s.refusedAt l c.2
  | none => f s

/-! ### Partitions (R294, R329) -/

/-- The descriptor that a record holds. -/
def descOf (rec : List Byte) : PartDesc :=
  let n := operand rec 8 1
  { id := operand rec 4 1, x0 := operand rec 5 1 % 8, y0 := operand rec 5 1 / 8 % 8, w := operand rec 6 1 % 8 + 1, h := operand rec 6 1 / 8 % 8 + 1, route := bitOf (operand rec 7 1) 0, wafers := (List.range (min n 16)).map fun i => operand rec (10 + 2 * i) 2 }

/-- The reticles of a descriptor's rectangle. -/
def PartDesc.rets (p : PartDesc) : List Nat := retList.filter p.holds

/-- What refuses a rectangle. -/
def rectChecks (rec : List Byte) : List (Bool × Nat) :=
  let p := descOf rec
  [(decide (operand rec 2 1 ≠ p.x0 + 8 * p.y0), 16), (decide (64 ≤ operand rec 5 1), 46), (decide (64 ≤ operand rec 6 1), 54), (decide (4 ≤ operand rec 7 1), 58), (decide (8 < p.x0 + p.w), 48), (decide (8 < p.y0 + p.h), 51)]

/-- Wafer ids strictly ascending. -/
def ascending : List Nat → Bool
  | a :: b :: l => decide (a < b) && ascending (b :: l)
  | _ => true

/-- The slots of a reticle begin anew (R324): a slot in progress is over. -/
def State.newCalendar (s : State) (r : Nat) : State :=
  let u := retUnit r
  let s := s.cancel fun e => decide (e.unit = u) && (decide (e.ins = .slotEnd) || decide (e.ins = .housekeepingStepAbandon))
  let s := s.modRet r fun x => { x with inSlot := false, lateStep := none }
  let s := if (s.ret r).pausing then s.postAt (s.now + 50) u .linkPauseEnd else s
  s.calendar r 0 (s.now + 31200)

/-- The reticles of a rectangle that the endpoint of a link's reticle reaches (R20). -/
def State.reachedRets (s : State) (l : Nat) (p : PartDesc) : List Nat := p.rets.filter (s.hostReaches l s.wafer)

/-- A descriptor written into service cores, and stored for the next start (R294, R327). -/
def State.setPart (s : State) (p : PartDesc) (rs : List Nat) : State :=
  let s := rs.foldl (fun s r => s.modRet r fun x => { x with part := some p }) s
  let s : State := { s with storedParts := rs.foldl (fun l r => aput l r p) s.storedParts }
  rs.foldl (fun s r => if (s.ret r).answers then s.newCalendar r else s) s

/-- PARTITION_SET_UP (R294, R329): command 0x01. -/
def execPartitionSetUp (link : Nat) (rec : List Byte) (s : State) : Host.Outcome State Fault Refusal :=
  s.command link rec (fun i => (decide (4 ≤ i) && decide (i ≤ 8)) || (decide (10 ≤ i) && decide (i ≤ 41))) fun s =>
    let p := descOf rec
    let n := operand rec 8 1
    let late := (List.range 16).find? fun i => let w := operand rec (10 + 2 * i) 2; decide (2 ^ 14 ≤ w) || (decide (n ≤ i) && decide (w ≠ 0))
    s.checked link (rectChecks rec ++ [(decide (n = 0 ∨ 16 < n), 64), (late.isSome, 80 + 16 * late.getD 0), (!ascending p.wafers, 80), (!p.wafers.contains s.wafer, 80),
      (p.rets.any fun r => decide (s.partOf r ≠ 256) && decide (s.partOf r ≠ p.id), 40)]) fun s => (s.setPart p (s.reachedRets link p)).doneWith link 0

/-- A team of a partition that has not ended, and is not of another wafer, has its home or its storage on some reticles. -/
def State.teamsAt (s : State) (part : Nat) (rs : List Nat) : Bool :=
  s.teams.any fun e => decide (e.2.lrec.part = part) && decide (e.2.stage ≠ .ended) && decide (e.2.stage ≠ .away) && (rs.contains (retOf e.2.core) || rs.contains (retOf e.2.home))

/-- PARTITION_DISSOLVE (R329): command 0x01 with the dissolve bit. -/
def execPartitionDissolve (link : Nat) (rec : List Byte) (s : State) : Host.Outcome State Fault Refusal :=
  s.command link rec (fun i => decide (4 ≤ i) && decide (i ≤ 41)) fun s =>
    let p := descOf rec
    s.checked link (rectChecks rec ++ [(p.rets.any fun r => decide (s.partOf r ≠ 256) && decide (s.partOf r ≠ p.id), 40), (s.teamsAt p.id p.rets, 57)]) fun s =>
      let rs := s.reachedRets link p
      let s := rs.foldl (fun s r => s.modRet r fun x => { x with part := none }) s
      ({ s with storedParts := s.storedParts.filter fun e => !rs.contains e.1 } : State).doneWith link 0

/-! ### Regions (R299, R300, R302) -/

/-- A page grants the rights of a region: read, write and atomic. -/
def rightsOk (pte : Dword) (rights : Nat) : Bool :=
  (!bitOf rights 0 || pte.getLsbD 3) && (!(bitOf rights 1 || bitOf rights 2) || pte.getLsbD 4)

/-- The translation of a page that the walker of reticle `r` locks (R91), where it is mapped with the rights, in the DRAM of the reticle (place 72) or in one of its core windows. -/
def State.lockPage (s : State) (r part rights va : Nat) (home : Option Nat) : Option (Option Nat × TlbEntry) :=
  match s.walk r va with
  | .ok fa pte =>
    let place : Option Nat := if faWafer fa = s.wafer ∧ faRet fa = r then (match s.target fa with
      | .dram => some 72
      | .window c _ => some (siteOf c)
      | _ => none) else none
    if !rightsOk pte rights ∨ place = none ∨ (home ≠ none ∧ home ≠ place) then none
    else some (place, { part := part, vpage := va / 65536, big := s.walkBig r va, pte := pte })
  | _ => none

/-- The page behind the one of a virtual address. -/
def nextPage (va : Nat) : Nat := va / 65536 * 65536 + 65536

/-- The locked translations of `n` pages from a virtual address (R91), all inside one target. -/
def State.lockPages (s : State) (r part rights va : Nat) (home : Option Nat) : Nat → Option (List TlbEntry)
  | 0 => some []
  | n + 1 =>
    match s.lockPage r part rights va home with
    | none => none
    | some (place, e) => (s.lockPages r part rights (nextPage va) place n).map fun l => e :: l

/-- The walks of a registration pass through the slices, page by page until one cannot be locked (R98); an error response is logged (R92). -/
def State.servePages (s : State) (r part rights va : Nat) (home : Option Nat) : Nat → State
  | 0 => s
  | n + 1 =>
    match s.lockPage r part rights va home, s.walk r va with
    | some (place, _), _ => (s.serveWalk r va).servePages r part rights (nextPage va) place n
    | none, .error fa => (s.serveWalk r va).report r { code := 10, info := 4, fa := fa }
    | none, _ => s.serveWalk r va

/-- The lowest free index of a key table. -/
def State.freeKey (s : State) (r : Nat) : Option Nat := (List.range 4096).find? fun j => decide ((s.key r j).state = 0)

/-- A region takes its key (R300): its generation advances. -/
def State.newKey (s : State) (l r : Nat) (e : KeyEntry) : State :=
  match s.freeKey r with
  | none => s.refusedAt l 16
  | some j =>
    let g := ((s.key r j).gen + 1) % 2 ^ 14
    (s.modKey r j fun _ => { e with gen := g, state := 1 }).doneWith l (r * 2 ^ 26 + j * 2 ^ 14 + g)

/-- The live team of a partition with a grid and linear id, resident or not. -/
def State.findTeam (s : State) (part : Nat) (grid : Word) (lin : Nat) : Option Nat :=
  (s.teams.find? fun e => decide (e.2.lrec.part = part) && decide (e.2.lrec.grid = grid) && decide (e.2.lin = lin) && decide (e.2.stage ≠ .ended)).map Prod.fst

/-- REGION_REGISTER (R300, R329): command 0x02. -/
def execRegionRegister (link : Nat) (rec : List Byte) (s : State) : Host.Outcome State Fault Refusal :=
  s.command link rec (fun i => decide (i = 4) || decide (i = 5) || decide (i = 6) || (decide (8 ≤ i) && decide (i ≤ 31))) fun s =>
    let kind := operand rec 4 1
    let rights := operand rec 5 1
    let part := operand rec 6 1
    let base := operand rec 8 8
    let len := operand rec 16 8
    let r := operand rec 2 1
    let e : KeyEntry := { part := part, kind := kind, rights := BitVec.ofNat 3 rights }
    s.checked link [(decide (3 ≤ kind), 32), (decide (8 ≤ rights), 43)] fun s =>
      if kind = 0 then
        s.checked link [(decide (64 ≤ r) || !(s.ret r).answers, 16), (decide (s.partOf r ≠ part), 48), (decide (base % 128 ≠ 0 ∨ 2 ^ 57 ≤ base), 64), (decide (len = 0 ∨ 2 ^ 36 ≤ len), 128)] fun s =>
          let n := (base % 65536 + len + 65535) / 65536
          let t := s.servePages r part rights base none n
          match s.lockPages r part rights base none n with
          | none => t.refusedAt link 64
          | some l => t.newKey link r { e with vbase := base, len := len, locked := l }
      else
        s.checked link [(decide (r ≠ 0xFF), 16)] fun s =>
          match s.findTeam part (BitVec.ofNat 32 (operand rec 24 4)) (operand rec 28 4) with
          | none => s.refusedAt link 192
          | some t => s.newKey link (retOf (s.homeNow t)) { e with grid := (s.team t).lrec.grid, team := (s.team t).lin, len := if kind = 1 then (s.team t).lrec.scratch * 4096 else 2 ^ 23 }

/-- REGION_DEREGISTER (R302, R329): command 0x03; the record is answered when the key has drained. -/
def execRegionDeregister (link : Nat) (rec : List Byte) (s : State) : Host.Outcome State Fault Refusal :=
  s.command link rec (fun i => decide (4 ≤ i) && decide (i ≤ 7)) fun s =>
    let key := BitVec.ofNat 32 (operand rec 4 4)
    let r := keyRet key
    let j := keyIdx key
    s.checked link [(decide (operand rec 2 1 ≠ r), 16), (decide ((s.key r j).state = 0) || decide ((s.key r j).gen ≠ keyGen key), 32)] fun s =>
      ((s.modKey r j fun e => { e with state := 2, records := e.records ++ [s.recordAt link] }).drainCheck r j).taken link

/-! ### Translations (R90) -/

/-- A translation lies in a range of virtual addresses. -/
def TlbEntry.meets (e : TlbEntry) (base len : Nat) : Bool :=
  let lo := if e.big then e.vpage / 512 * 2 ^ 25 else e.vpage * 65536
  let hi := lo + (if e.big then 2 ^ 25 else 65536)
  decide (lo < base + len) && decide (base < hi)

/-- TLB_INVALIDATION (R90, R329): command 0x04; the walk caches of the partition's reticles lose every entry, the TLBs those of the range. -/
def execTlbInvalidation (link : Nat) (rec : List Byte) (s : State) : Host.Outcome State Fault Refusal :=
  s.command link rec (fun i => decide (i = 4) || (decide (8 ≤ i) && decide (i ≤ 23))) fun s =>
    let part := operand rec 4 1
    let base := operand rec 8 8
    let all := decide (operand rec 16 8 = 2 ^ 64 - 1)
    let len := if all then 2 ^ 57 else operand rec 16 8
    let base := if all then 0 else base
    let pinned := (s.partRets part).any fun r => (s.ret r).keys.any fun e => decide (e.2.state ≠ 0) && e.2.locked.any fun t => t.pte.getLsbD 7 && t.meets base len
    s.checked link [(decide (s.partOf (operand rec 2 1) ≠ part), 16), (pinned, 64)] fun s =>
      let s := (s.cores.filter fun e => decide (s.partOf (retOf e.1) = part)).foldl (fun (s : State) (e : Nat × Core) => s.modCore e.1 fun k => { k with tlb := k.tlb.filter fun t => !(decide (t.part = part) && t.meets base len) }) s
      let s := (s.partRets part).foldl (fun (s : State) r => s.modRet r fun x => { x with walkCache := [] }) s
      s.doneWith link 0

/-! ### Pre-emption (R367, R372) -/

/-- A pre-emption command for a team of the partition of the link's reticle. -/
def State.preempt (s : State) (l : Nat) (rec : List Byte) (f : Nat → State → State) : Host.Outcome State Fault Refusal :=
  s.command l rec (fun i => decide (4 ≤ i) && decide (i ≤ 12)) fun s =>
    if operand rec 2 1 ≠ 0xFF then s.refusedAt l 16
    else if 3 < operand rec 12 1 then s.refusedAt l 96
    else match s.findTeam (s.partOf (linkRet l)) (BitVec.ofNat 32 (operand rec 4 4)) (operand rec 8 4) with
      | none => s.refusedAt l 64
      | some t => f t s

/-- PREEMPTION_REQUEST (R40, R367): mode 0, for the whole grid where it is concurrent; and the refusal of a mode that is none. -/
def execPreemptionRequest (link : Nat) (rec : List Byte) (s : State) : Host.Outcome State Fault Refusal :=
  s.preempt link rec fun t s =>
    (if s.isResident t then s.askTeam t 2 else s).doneWith link 0

/-- PREEMPTION_WITHDRAW (R367): mode 1. -/
def execPreemptionWithdraw (link : Nat) (rec : List Byte) (s : State) : Host.Outcome State Fault Refusal :=
  s.preempt link rec fun t s => (s.modTeam t fun x => { x with request := none }).doneWith link 0

/-- PREEMPTION_END (R367): mode 2; no trap record stands behind this end. -/
def execPreemptionEnd (link : Nat) (rec : List Byte) (s : State) : Host.Outcome State Fault Refusal :=
  s.preempt link rec fun t s => (s.endByFault t (zeros 64) none 4).doneWith link 0

/-- PREEMPTION_RESTART (R372): mode 3; refused where the flag is clear. A team, resident or saved, restarts once its engine jobs have run to completion. -/
def execPreemptionRestart (link : Nat) (rec : List Byte) (s : State) : Host.Outcome State Fault Refusal :=
  s.preempt link rec fun t s =>
    let x := s.team t
    if x.stage ≠ .entry ∧ x.stage ≠ .held ∧ !x.idem then s.refusedAt link 96
    else if s.isResident t ∨ x.stage = .evicted then (s.stopForRestart t).doneWith link 0
    else s.doneWith link 0

/-! ### Probes, enables, attestation, wafer id -/

/-- WAIT_CYCLE_PROBE (R293, R329): command 0x08; the record is answered when every copy is gone. -/
def execWaitCycleProbe (link : Nat) (rec : List Byte) (s : State) : Host.Outcome State Fault Refusal :=
  s.command link rec (fun i => decide (4 ≤ i) && decide (i ≤ 11)) fun s =>
    if operand rec 2 1 ≠ 0xFF then s.refusedAt link 16
    else match s.findTeam (s.partOf (linkRet link)) (BitVec.ofNat 32 (operand rec 4 4)) (operand rec 8 4) with
      | none => s.refusedAt link 64
      | some t =>
        let a := s.recordAt link
        (s.taken link).startProbe t (some a)

/-- Enabled sites of a mask. -/
def siteCount (m : BitVec 72) : Nat := ((List.range 72).filter fun i => m.getLsbD i).length

/-- An enable mask that a module's grade allows, none of its sites failed (R2, R329). -/
def State.maskOk (s : State) (r : Nat) (m : BitVec 72) : Bool :=
  decide (m &&& (s.ret r).defect.failed = 0) && decide (m &&& (s.ret r).retired.failed = 0) && (if s.gradeA then decide (siteCount m = 64) else decide (60 ≤ siteCount m))

/-- Staging a record's mask (R329), and then `f`. -/
def State.stage (s : State) (l : Nat) (rec : List Byte) (f : State → State) : Host.Outcome State Fault Refusal :=
  s.command l rec (fun i => decide (4 ≤ i) && decide (i ≤ 14)) fun s =>
    let r := operand rec 2 1
    let m := BitVec.ofNat 72 (operand rec 4 9)
    let take := bitOf (operand rec 14 1) 0
    s.checked l [(decide (64 ≤ r), 16), (decide (2 ≤ operand rec 13 1), 104), (decide (2 ≤ operand rec 14 1), 113), (take && !s.maskOk r m, 32)] fun s =>
      f (if take then { s with staged := aput s.staged r m } else s)

/-- WARM_START_STAGE (R329): command 0x09 with byte 13 = 0. -/
def execWarmStartStage (link : Nat) (rec : List Byte) (s : State) : Host.Outcome State Fault Refusal :=
  s.stage link rec fun s => s.doneWith link 0

/-- A list of exactly `n` bytes. -/
def sized (n : Nat) (l : List Byte) : List Byte := (l ++ zeros n).take n

/-- The seed of the identity key (R327 step 7): SHA-256 over the fused secret and the string "vorrate-id". -/
def identitySeed : List Byte := sha256 (Config.secret ++ ("vorrate-id".toList.map fun c => BitVec.ofNat 8 c.toNat))

/-- The attestation output for a nonce (R329). -/
def State.attestation (s : State) (nonce : List Byte) : List Byte :=
  let m := sha256 s.firmware ++ sha256 s.defectMap ++ nonce ++ sized 48 (Config.publicKey identitySeed)
  m ++ sized 16224 (Config.signature identitySeed m) ++ zeros 16

/-- ATTESTATION (R327, R329): command 0x0A. -/
def execAttestation (link : Nat) (rec : List Byte) (s : State) : Host.Outcome State Fault Refusal :=
  s.command link rec (fun i => (decide (4 ≤ i) && decide (i ≤ 35)) || (decide (40 ≤ i) && decide (i ≤ 47))) fun s =>
    let a := operand rec 40 8
    let bad := decide (a % 128 ≠ 0 ∨ 2 ^ 56 ≤ a ∨ faWafer a ≠ s.wafer ∨ faRet a ≠ linkRet link ∨ 0xC00000000 < faOff a + 16384)
    s.checked link [(decide (operand rec 2 1 ≠ linkRet link), 16), (bad, 320)] fun s =>
      (s.homeWrites none ((s.attestation ((List.range 32).map fun i => rec.getD (4 + i) 0)).mapIdx fun i b => (a + i, b))).doneWith link 0

/-- WAFER_ID (R329, R331): command 0x0B; the id is in force from the next start on. -/
def execWaferId (link : Nat) (rec : List Byte) (s : State) : Host.Outcome State Fault Refusal :=
  s.command link rec (fun i => decide (i = 4) || decide (i = 5)) fun s =>
    let w := operand rec 4 2
    s.checked link [(decide (operand rec 2 1 ≠ linkRet link), 16), (decide (2 ^ 14 ≤ w), 46)] fun s => ({ s with waferNext := w } : State).doneWith link 0

/-- UNASSIGNED_COMMAND (R328): refused, naming bit 0. -/
def execUnassignedCommand (link : Nat) (_rec : List Byte) (s : State) : Host.Outcome State Fault Refusal := .next (s.refusedAt link 0)

end Sys2Proof.Machine
end

