-- ==== Sys2Proof/Machine/Start.lean ====
section
/-! DEFINITION. Cold and warm starts (R327, R394, R396, R397), and what a start leaves: enables (R2, R24), the ring (R38), partitions, ports and the periodic steps. -/

namespace Sys2Proof.Machine

/-! ### Enabled sites -/

/-- The sites that firmware prefers to leave dark, first ones first (R24): failed, then with a failed partner, then the highest-numbered. -/
def darkOrder (failed : BitVec 72) : List Nat :=
  let l := (List.range 72).reverse
  let partner (i : Nat) : Nat := if i % 2 = 0 then i + 1 else i - 1
  l.filter (fun i => failed.getLsbD i) ++ l.filter (fun i => !failed.getLsbD i && failed.getLsbD (partner i)) ++ l.filter fun i => !failed.getLsbD i && !failed.getLsbD (partner i)

/-- A mask without the sites of a list. -/
def without (m : BitVec 72) (l : List Nat) : BitVec 72 := l.foldl (fun m i => m &&& ~~~(1#72 <<< i)) m

/-- The enables of a cold start: 64 sites, or all that have not failed where those are fewer. -/
def coldEnables (failed : BitVec 72) : BitVec 72 := without (without (BitVec.allOnes 72) ((darkOrder failed).take 8)) ((List.range 72).filter fun i => failed.getLsbD i)

/-! ### Failed steps (R397) -/

/-- The start step of a reason. -/
def stepOfReason (n : Nat) : Nat := [0, 1, 2, 2, 3, 3, 4, 5, 6, 7, 9].getD n 0

/-- A failure that marks its reticle dead whatever else it holds. -/
def killsRet (f : StartFail) : Bool := [1, 2, 5, 6].contains f.reason

/-- Failures of steps 6 and 7, which fail the start on every reticle. -/
def failsAll (f : StartFail) : Bool := decide (f.reason = 8) || decide (f.reason = 9)

/-- An entry with REASON 7 names a port by index 0 or 1, and by index 2 + 4 × port + lane a lane that does not light as its port is trained (R383), which is no failed step (log 72). -/
def laneFail (f : StartFail) : Bool := decide (f.reason = 7) && decide (2 ≤ f.index)

/-- The lanes of a port that do not light at a start. -/
def deadLanes (l : List StartFail) (p : Nat) : List Nat :=
  (List.range 4).filter fun n => l.any fun f => decide (f.ret = p / 2) && decide (f.reason = 7) && decide (f.index = 2 + 4 * (p % 2) + n)

/-- An entry is a failed step: not a map rebuilt from fuses, a lane, or at a warm start a spare being enabled that fails its test (R397). -/
def State.isFailure (s : State) (warm : Bool) (f : StartFail) : Bool :=
  decide (f.reason ≠ 3) && decide (f.reason ≠ 0) && !laneFail f && !(warm && decide (f.reason = 4) && !(s.ret f.ret).defect.enabled.getLsbD f.index)

/-- The failures of a reticle with a reason. -/
def failsOf (l : List StartFail) (r n : Nat) : List Nat := (l.filter fun f => decide (f.ret = r) && decide (f.reason = n)).map fun f => f.index

/-- The stored defects of a reticle with the failures of a start. -/
def DefectRec.withFails (d : DefectRec) (l : List StartFail) (r : Nat) : DefectRec :=
  { d with
    failed := (failsOf l r 4).foldl (fun m i => m ||| (1#72 <<< i)) d.failed
    slices := ((failsOf l r 5).filter fun i => decide (i < 80)).foldl (fun m i => m ||| (1#80 <<< i)) d.slices
    ports := (failsOf l r 7).foldl (fun m i => m ||| (1#2 <<< i)) d.ports
    regulator := d.regulator || !(failsOf l r 1).isEmpty }

/-- The map that a start reads in step 2: the stored one, or, where that fails its check, the fuses', to which step 3 adds (R397). -/
def State.storedMap (s : State) (l : List StartFail) (r : Nat) : DefectRec :=
  if (failsOf l r 3).isEmpty then (s.ret r).retired else (s.ret r).fuses

/-- A mask with more sites of a list, in its order, until it has `n`. -/
def fillTo (n : Nat) (m : BitVec 72) : List Nat → BitVec 72
  | [] => m
  | i :: l => if n ≤ siteCount m then m else fillTo n (m ||| (1#72 <<< i)) l

/-- The enabled sites that the grade asks of a live reticle (R2). -/
def State.gradeSites (s : State) : Nat := if s.gradeA then 64 else 60

/-- The enables of a reticle at a start (R24): chosen anew at a cold one, kept or replaced by a staged mask at a warm one. A failed site is dark; where a warm start is left with fewer sites than the grade asks, the sites that firmware would leave dark last are enabled beside (log 94). -/
def State.enablesAt (s : State) (warm : Bool) (r : Nat) (failed : BitVec 72) : BitVec 72 :=
  if warm then
    let m := without ((aget s.staged r).getD (s.ret r).defect.enabled) ((List.range 72).filter fun i => failed.getLsbD i)
    fillTo s.gradeSites m ((darkOrder failed).reverse.filter fun i => !failed.getLsbD i)
  else coldEnables failed

/-- The reason for which a reticle is dead at a start, 0 for none. One that was dead at the last start has no stored training values for a warm one to restore, and stays dead for its reason (R12, R327). -/
def State.deadReason (s : State) (warm : Bool) (l : List StartFail) (r : Nat) (d : DefectRec) : Nat :=
  if d.regulator then 1
  else if warm && !(s.ret r).defect.live then bitsOf (s.ret r).startErr.toNat 15 8
  else match (l.find? fun f => decide (f.ret = r) && killsRet f) with
    | some f => f.reason
    | none => if d.slices ≠ 0 then 5 else if 72 - siteCount d.failed < s.gradeSites then 4 else 0

/-- The defect record of a reticle as of a start (R394). -/
def State.startRecord (s : State) (warm : Bool) (l : List StartFail) (r : Nat) : DefectRec :=
  let d := (s.storedMap l r).withFails l r
  let e := s.enablesAt warm r d.failed
  let dead := decide (s.deadReason warm l r d ≠ 0)
  { d with live := !dead, enabled := if dead then 0 else e }

/-- The grade met (R2, R396): 0 A, 1 B, 2 below B. -/
def State.gradeMet (s : State) : Nat :=
  let live := retList.filter fun r => (s.ret r).live
  let n (r : Nat) : Nat := siteCount (s.ret r).defect.enabled
  if live.length = 64 ∧ live.all (fun r => decide (n r = 64)) then 0
  else if 62 ≤ live.length ∧ live.all (fun r => decide (60 ≤ n r)) then 1
  else 2

/-! ### Reticles -/

/-- What a cold start keeps of a reticle: its fuses, stored defects and counter. -/
def Reticle.cold (x : Reticle) : Reticle := { fuses := x.fuses, retired := x.retired, defect := x.defect, refOffset := x.refOffset }

/-- What a warm start keeps of a reticle besides: tables and registers that software wrote, keys, logs, and the tags of its slices. -/
def Reticle.warm (x : Reticle) : Reticle :=
  { x.cold with xlatRoot := x.xlatRoot, route0 := x.route0, route1 := x.route1, keys := x.keys.map fun e => (e.1, { e.2 with inflight := 0 }), rlog := x.rlog, rlogHead := x.rlogHead, rxSeen := x.rxSeen, rxRefused := x.rxRefused, psn := x.psn, logged := x.logged, lq0 := x.lq0, lq1 := x.lq1, lq2 := x.lq2, lq3 := x.lq3, saveBase := x.saveBase, saveSize := x.saveSize, preemptWin := x.preemptWin, eq := x.eq, eqLost := x.eqLost, eqSeq := x.eqSeq, slices := x.slices, portA := { peer := x.portA.peer }, portB := { peer := x.portB.peer }, clusters := x.clusters.filterMap fun e => if e.2.curHwm = 0x14000 then none else some (e.1, { curHwm := e.2.curHwm }) }

/-- The directions of a mask of boundaries. -/
def dirsOf (m : BitVec 4) : List Nat := (List.range 4).filter fun i => m.getLsbD i

/-- `START_ERR` of a reticle but for `GRADE` (R396): the first failed step and its reason, `DEAD` and `FALLBK`. -/
def State.errorWord (s : State) (warm fallback : Bool) (l : List StartFail) (r : Nat) : Nat :=
  let dead := s.deadReason warm l r ((s.storedMap l r).withFails l r)
  let why := if dead ≠ 0 then dead else match l.find? fun f => decide (f.ret = r) && s.isFailure warm f && decide (f.reason < 8) with
    | some f => f.reason
    | none => 0
  stepOfReason why + why * 2 ^ 8 + (if dead = 0 then 0 else 2 ^ 16) + if fallback then 2 ^ 17 else 0

/-- A reticle after steps 1 to 4 of a start. Its bus switches are closed at every site that is not enabled (R22). -/
def State.startRet (s : State) (warm fallback : Bool) (l : List StartFail) (r : Nat) : Reticle :=
  let d := s.startRecord warm l r
  let x := s.ret r
  { (if warm then x.warm else x.cold) with live := d.live, defect := d, retired := { d with enabled := 0 }, regOk := !d.regulator, holes := dirsOf d.boundaries, bypass := ~~~d.enabled, startErr := BitVec.ofNat 26 (s.errorWord warm fallback l r), debtAt := s.now, startAt := s.now }

/-- Every reticle after steps 1 to 4, with its fabric rail. -/
def State.startRets (s : State) (warm fallback : Bool) (l : List StartFail) : State :=
  let xs := retList.map fun r => s.startRet warm fallback l r
  let s := (xs.zip retList).foldl (fun s e => s.setRet e.2 e.1) s
  retList.foldl (fun s r => let f := s.rail r; s.modRet r fun x => { x with fabric := f }) s

/-! ### Ports, ring and partitions -/

/-- A peer's wafer id and port, which training finds out (R17, R311): whom a port leads to is not the module's to say (log 95). -/
def State.findPeer (s : State) (p : Nat) : State :=
  let v := s.draw
  v.2.modPort p fun x => { x with peer := BitVec.ofNat 32 (v.1.toNat % 2 ^ 21) }

/-- The ports of a live reticle after step 5: trained and up with every lane lit that lights (R383), but for those that have failed. A full training records the peer (R17); the short one of a warm start is with the same peer. -/
def State.startPorts (s : State) (warm : Bool) (l : List StartFail) (r : Nat) : State :=
  [2 * r, 2 * r + 1].foldl (fun s p =>
    if !(s.ret r).live ∨ (s.ret r).defect.ports.getLsbD (p % 2) then s
    else
      let s := if warm then s else s.findPeer p
      let s := s.modPort p fun x => { x with st := 8, waking := (List.range 4).map fun n => (n, s.now) }
      let bad := deadLanes l p
      bad.foldl (fun s n => s.laneFails p n) (((List.range 4).filter fun n => !bad.contains n).foldl (fun s n => s.lightLane p n) s)) s

/-- The ring of step 8 (R38): a position for every live enabled core, in ascending order of cores. -/
def State.buildRing (s : State) : List (Nat × Nat × Nat) :=
  ((retList.filter fun r => (s.ret r).live).flatMap s.coresOf).map fun c => (ringPos s.wafer c, s.wafer, c)

/-- A stored descriptor whose rectangle holds a dead reticle is not set up (R397). -/
def State.partDead (s : State) (p : PartDesc) : Bool := p.rets.any fun r => !(s.ret r).live

/-- The partitions of step 9. -/
def State.startParts (s : State) : State :=
  s.storedParts.foldl (fun s e =>
    if s.partDead e.2 then s.modRet e.1 fun x => if x.startErr.setWidth 8 = 0#8 then { x with startErr := x.startErr ||| 0x00A09#26 } else x
    else s.modRet e.1 fun x => { x with part := some e.2 }) s

/-- The steps that recur on a live reticle from its start on: its calendar, its slices, its clusters' samples and its loads. -/
def State.startSteps (s : State) (r : Nat) : State :=
  let u := retUnit r
  ((((s.newCalendar r).postIn 4096 u .gritDecay).postIn 2000 u .scrub).postIn 10000 u .stallSample).postIn 26 u .loadSample

/-- What a core keeps through a warm start: everything but the groups, jobs and reservations of its teams. -/
def Core.warm (k : Core) : Core := { k with groups := [], held := [], mxq := [], jobs := [], forwards := [], reserve := none, misfit := none, rrCtl := 0, rrLane := 0, ctlCycle := 0, laneCycle := 0, laneFirst := 0, laneBoth := false, mxUntil := 0 }

/-! ### The start -/

/-- Every team ends, and with a team everything that waits for it. -/
def State.endAll (s : State) (warm : Bool) : State :=
  { s with cores := (if warm then (s.cores.map fun e => (e.1, e.2.warm)).filter fun e => decide (e.2 ≠ {}) else []), teams := [], launches := [], detects := [], gbars := [], probes := [], changes := [], agenda := [], timers := [], started := false }

/-- A fabric address of the wafer under another wafer id. -/
def rekey (old new a : Nat) : Nat := if faWafer a = old then a % 2 ^ 42 + new * 2 ^ 42 else a

/-- The wafer's own bytes stay where they are under its new id (R331): its DRAM, and the lines of its L1s. What was held of another wafer under that id is that wafer's no longer. -/
def State.renumber (s : State) (new : Nat) : State :=
  if s.wafer = new then s
  else
    let own := (s.mem.filter fun e => decide (faWafer e.1 = s.wafer)).map fun (e : Host.Cell) => (rekey s.wafer new e.1, e.2)
    let rest := s.mem.filter fun e => decide (faWafer e.1 ≠ s.wafer) && decide (faWafer e.1 ≠ new)
    { s with
      wafer := new
      mem := own.foldl (fun m e => tset 0 m e.1 e.2) rest
      cores := s.cores.map fun e => (e.1, { e.2 with l1 := (e.2.l1.filter fun l => decide (faWafer (lineBase l.line) ≠ new)).map fun l => { l with line := rekey s.wafer new (lineBase l.line) / 128 } }) }

/-- Steps 1 to 9 of a start on every reticle. A failure of step 6 or 7 fails it on every reticle. -/
def State.startWith (s : State) (warm fallback : Bool) (l : List StartFail) : State :=
  let s := ((s.endAll warm).startRets warm fallback l).renumber s.waferNext
  let s : State := { s with staged := [], startKind := if warm then 2 else 1 }
  match l.find? failsAll with
  | some f =>
    let n := stepOfReason f.reason + f.reason * 2 ^ 8 + 3 * 2 ^ 24
    let s := retList.foldl (fun s r => s.modRet r fun x => { x with live := false, startErr := (x.startErr &&& 0x30000#26) ||| BitVec.ofNat 26 n }) s
    { s with grade := 3, startStep := stepOfReason f.reason }
  | none =>
    let g := s.gradeMet
    let s := retList.foldl (fun s r => s.modRet r fun x => { x with startErr := x.startErr ||| BitVec.ofNat 26 (g * 2 ^ 24) }) s
    let s : State := { s with grade := g, ring := s.buildRing, measured := if warm then s.measured else some (sha256 s.firmware) }
    let s := s.startParts
    let live := retList.filter fun r => (s.ret r).live
    let s := live.foldl (fun s r => s.startPorts warm l r) s
    let s := live.foldl State.startSteps s
    let s := live.foldl (fun s r => ((s.ret r).keys.map Prod.fst).foldl (fun s j => s.drainCheck r j) s) s
    { s with startStep := 9, started := true }

/-- COLD_START (R327). -/
def execColdStart (fails : List StartFail) (s : State) : Host.Outcome State Fault Refusal := .next (s.startWith false false fails)

/-- Step 6 of a warm start: the firmware's SHA-256 is the measurement stored at the last verified cold start (R327). -/
def State.measures (s : State) : Bool := decide (s.measured = some (sha256 s.firmware))

/-- A warm start (R327, R397): a failed step, a measurement that differs among them, ends it and starts one cold start, in which failures that name no reticle do not recur. -/
def State.warmStart (s : State) (l : List StartFail) : State :=
  if l.any (s.isFailure true) || !s.measures then s.startWith false true (l.filter fun f => decide (f.ret < 64)) else s.startWith true false l

/-- WARM_START (R327, R329): command 0x09 with byte 13 = 1. -/
def execWarmStart (link : Nat) (rec : List Byte) (fails : List StartFail) (s : State) : Host.Outcome State Fault Refusal :=
  s.stage link rec fun s => (s.doneWith link 0).warmStart fails

end Sys2Proof.Machine
end

