-- ==== Sys2Proof/Machine/Dispatch.lean ====
section
/-! DEFINITION. One arm per instruction and device step. -/

namespace Sys2Proof.Machine

def exec (i : Instr) (s : State) : Host.Outcome State Fault Refusal :=
  match i with
  | .b p off => Sys2Proof.Machine.execB p off s
  | .bc p cond off => Sys2Proof.Machine.execBc p cond off s
  | .bmz p k off => Sys2Proof.Machine.execBmz p k off s
  | .bma p k off => Sys2Proof.Machine.execBma p k off s
  | .call p d imm => Sys2Proof.Machine.execCall p d imm s
  | .ret p a => Sys2Proof.Machine.execRet p a s
  | .loop p a imm => Sys2Proof.Machine.execLoop p a imm s
  | .split p k off => Sys2Proof.Machine.execSplit p k off s
  | .lrun p count off => Sys2Proof.Machine.execLrun p count off s
  | .yld p off => Sys2Proof.Machine.execYld p off s
  | .nop p => Sys2Proof.Machine.execNop p s
  | .exit p => Sys2Proof.Machine.execExit p s
  | .merge p => Sys2Proof.Machine.execMerge p s
  | .lbrk p => Sys2Proof.Machine.execLbrk p s
  | .eret p => Sys2Proof.Machine.execEret p s
  | .mmafence p => Sys2Proof.Machine.execMmafence p s
  | .uadd p d a b x => Sys2Proof.Machine.execUadd p d a b x s
  | .usub p d a b x => Sys2Proof.Machine.execUsub p d a b x s
  | .umul p d a b x => Sys2Proof.Machine.execUmul p d a b x s
  | .umulh p d a b x => Sys2Proof.Machine.execUmulh p d a b x s
  | .umad p d a b x => Sys2Proof.Machine.execUmad p d a b x s
  | .ushl p d a b x => Sys2Proof.Machine.execUshl p d a b x s
  | .ushr p d a b x => Sys2Proof.Machine.execUshr p d a b x s
  | .usra p d a b x => Sys2Proof.Machine.execUsra p d a b x s
  | .uand p d a b x => Sys2Proof.Machine.execUand p d a b x s
  | .uor p d a b x => Sys2Proof.Machine.execUor p d a b x s
  | .uxor p d a b x => Sys2Proof.Machine.execUxor p d a b x s
  | .umin p d a b x => Sys2Proof.Machine.execUmin p d a b x s
  | .umax p d a b x => Sys2Proof.Machine.execUmax p d a b x s
  | .ucmp p a b x => Sys2Proof.Machine.execUcmp p a b x s
  | .umov p d b x => Sys2Proof.Machine.execUmov p d b x s
  | .uaff p d a b x => Sys2Proof.Machine.execUaff p d a b x s
  | .usel p cond a b first => Sys2Proof.Machine.execUsel p cond a b first s
  | .ulim p d imm => Sys2Proof.Machine.execUlim p d imm s
  | .ulih p d imm => Sys2Proof.Machine.execUlih p d imm s
  | .sget p d imm => Sys2Proof.Machine.execSget p d imm s
  | .sput p a imm => Sys2Proof.Machine.execSput p a imm s
  | .rgn p run0 run1 run2 run3 present => Sys2Proof.Machine.execRgn p run0 run1 run2 run3 present s
  | .trap p imm => Sys2Proof.Machine.execTrap p imm s
  | .slotq p d => Sys2Proof.Machine.execSlotq p d s
  | .opreq p d a => Sys2Proof.Machine.execOpreq p d a s
  | .spawn p d a b x => Sys2Proof.Machine.execSpawn p d a b x s
  | .fence p sub a b => Sys2Proof.Machine.execFence p sub a b s
  | .waitBar p a b => Sys2Proof.Machine.execWaitBar p a b s
  | .waitBatch p a => Sys2Proof.Machine.execWaitBatch p a s
  | .waitTok p a => Sys2Proof.Machine.execWaitTok p a s
  | .binit p a b x => Sys2Proof.Machine.execBinit p a b x s
  | .barrive p sub a b => Sys2Proof.Machine.execBarrive p sub a b s
  | .bexpect p sub a b => Sys2Proof.Machine.execBexpect p sub a b s
  | .gbar p a => Sys2Proof.Machine.execGbar p a s
  | .drain p a b => Sys2Proof.Machine.execDrain p a b s
  | .gang p a b x => Sys2Proof.Machine.execGang p a b x s
  | .cbld p kslot a => Sys2Proof.Machine.execCbld p kslot a s
  | .siltThr p tile b x => Sys2Proof.Machine.execSiltThr p tile b x s
  | .siltClr p tile => Sys2Proof.Machine.execSiltClr p tile s
  | .widepool p d => Sys2Proof.Machine.execWidepool p d s
  | .cpy p a b compl var => Sys2Proof.Machine.execCpy p a b compl var s
  | .gth p a b compl var => Sys2Proof.Machine.execGth p a b compl var s
  | .sct p a b compl var => Sys2Proof.Machine.execSct p a b compl var s
  | .nput p a b compl var => Sys2Proof.Machine.execNput p a b compl var s
  | .nget p a b compl var => Sys2Proof.Machine.execNget p a b compl var s
  | .natom p a b compl var => Sys2Proof.Machine.execNatom p a b compl var s
  | .coll p a b compl var => Sys2Proof.Machine.execColl p a b compl var s
  | .nswap p a b compl var => Sys2Proof.Machine.execNswap p a b compl var s
  | .l1ways p b compl var => Sys2Proof.Machine.execL1ways p b compl var s
  | .add f => Sys2Proof.Machine.execAdd f s
  | .addImmediate f => Sys2Proof.Machine.execAddImmediate f s
  | .sub f => Sys2Proof.Machine.execSub f s
  | .subImmediate f => Sys2Proof.Machine.execSubImmediate f s
  | .mul f => Sys2Proof.Machine.execMul f s
  | .mulImmediate f => Sys2Proof.Machine.execMulImmediate f s
  | .mulhi f => Sys2Proof.Machine.execMulhi f s
  | .mad f => Sys2Proof.Machine.execMad f s
  | .minL f => Sys2Proof.Machine.execMinL f s
  | .minImmediate f => Sys2Proof.Machine.execMinImmediate f s
  | .maxL f => Sys2Proof.Machine.execMaxL f s
  | .maxImmediate f => Sys2Proof.Machine.execMaxImmediate f s
  | .absL f => Sys2Proof.Machine.execAbsL f s
  | .neg f => Sys2Proof.Machine.execNeg f s
  | .andL f => Sys2Proof.Machine.execAndL f s
  | .andImmediate f => Sys2Proof.Machine.execAndImmediate f s
  | .orL f => Sys2Proof.Machine.execOrL f s
  | .orImmediate f => Sys2Proof.Machine.execOrImmediate f s
  | .xor f => Sys2Proof.Machine.execXor f s
  | .xorImmediate f => Sys2Proof.Machine.execXorImmediate f s
  | .notL f => Sys2Proof.Machine.execNotL f s
  | .shl f => Sys2Proof.Machine.execShl f s
  | .shlImmediate f => Sys2Proof.Machine.execShlImmediate f s
  | .shr f => Sys2Proof.Machine.execShr f s
  | .shrImmediate f => Sys2Proof.Machine.execShrImmediate f s
  | .sra f => Sys2Proof.Machine.execSra f s
  | .sraImmediate f => Sys2Proof.Machine.execSraImmediate f s
  | .rot f => Sys2Proof.Machine.execRot f s
  | .rotImmediate f => Sys2Proof.Machine.execRotImmediate f s
  | .popc f => Sys2Proof.Machine.execPopc f s
  | .clz f => Sys2Proof.Machine.execClz f s
  | .brev f => Sys2Proof.Machine.execBrev f s
  | .bfe f => Sys2Proof.Machine.execBfe f s
  | .bfi f => Sys2Proof.Machine.execBfi f s
  | .cmp f => Sys2Proof.Machine.execCmp f s
  | .cmpImmediate f => Sys2Proof.Machine.execCmpImmediate f s
  | .sel f => Sys2Proof.Machine.execSel f s
  | .mand f => Sys2Proof.Machine.execMand f s
  | .mor f => Sys2Proof.Machine.execMor f s
  | .mxor f => Sys2Proof.Machine.execMxor f s
  | .mnot f => Sys2Proof.Machine.execMnot f s
  | .ballot f => Sys2Proof.Machine.execBallot f s
  | .mcount f => Sys2Proof.Machine.execMcount f s
  | .mprefix f => Sys2Proof.Machine.execMprefix f s
  | .shfl f => Sys2Proof.Machine.execShfl f s
  | .shup f => Sys2Proof.Machine.execShup f s
  | .shdn f => Sys2Proof.Machine.execShdn f s
  | .shxor f => Sys2Proof.Machine.execShxor f s
  | .shcat f => Sys2Proof.Machine.execShcat f s
  | .prm f => Sys2Proof.Machine.execPrm f s
  | .lut16 f => Sys2Proof.Machine.execLut16 f s
  | .lscan f => Sys2Proof.Machine.execLscan f s
  | .lred f => Sys2Proof.Machine.execLred f s
  | .fadd f => Sys2Proof.Machine.execFadd f s
  | .faddImmediate f => Sys2Proof.Machine.execFaddImmediate f s
  | .fsub f => Sys2Proof.Machine.execFsub f s
  | .fsubImmediate f => Sys2Proof.Machine.execFsubImmediate f s
  | .fmul f => Sys2Proof.Machine.execFmul f s
  | .fmulImmediate f => Sys2Proof.Machine.execFmulImmediate f s
  | .fma f => Sys2Proof.Machine.execFma f s
  | .fmin f => Sys2Proof.Machine.execFmin f s
  | .fminImmediate f => Sys2Proof.Machine.execFminImmediate f s
  | .fmax f => Sys2Proof.Machine.execFmax f s
  | .fmaxImmediate f => Sys2Proof.Machine.execFmaxImmediate f s
  | .fabs f => Sys2Proof.Machine.execFabs f s
  | .fneg f => Sys2Proof.Machine.execFneg f s
  | .frcp f => Sys2Proof.Machine.execFrcp f s
  | .frsq f => Sys2Proof.Machine.execFrsq f s
  | .fsqrt f => Sys2Proof.Machine.execFsqrt f s
  | .fdiv f => Sys2Proof.Machine.execFdiv f s
  | .fexp2 f => Sys2Proof.Machine.execFexp2 f s
  | .flog2 f => Sys2Proof.Machine.execFlog2 f s
  | .fsin f => Sys2Proof.Machine.execFsin f s
  | .fcos f => Sys2Proof.Machine.execFcos f s
  | .fcmp f => Sys2Proof.Machine.execFcmp f s
  | .fcmpImmediate f => Sys2Proof.Machine.execFcmpImmediate f s
  | .fcls f => Sys2Proof.Machine.execFcls f s
  | .frnd f => Sys2Proof.Machine.execFrnd f s
  | .fscale f => Sys2Proof.Machine.execFscale f s
  | .cvt f => Sys2Proof.Machine.execCvt f s
  | .pack f => Sys2Proof.Machine.execPack f s
  | .unpack f => Sys2Proof.Machine.execUnpack f s
  | .cbdec f => Sys2Proof.Machine.execCbdec f s
  | .tag f => Sys2Proof.Machine.execTag f s
  | .tget f => Sys2Proof.Machine.execTget f s
  | .mov f => Sys2Proof.Machine.execMov f s
  | .movImmediate f => Sys2Proof.Machine.execMovImmediate f s
  | .ld f => Sys2Proof.Machine.execLd f s
  | .ldImmediate f => Sys2Proof.Machine.execLdImmediate f s
  | .st f => Sys2Proof.Machine.execSt f s
  | .stImmediate f => Sys2Proof.Machine.execStImmediate f s
  | .lds f => Sys2Proof.Machine.execLds f s
  | .ldsImmediate f => Sys2Proof.Machine.execLdsImmediate f s
  | .sts f => Sys2Proof.Machine.execSts f s
  | .stsImmediate f => Sys2Proof.Machine.execStsImmediate f s
  | .ldm f => Sys2Proof.Machine.execLdm f s
  | .stm f => Sys2Proof.Machine.execStm f s
  | .prf f => Sys2Proof.Machine.execPrf f s
  | .prfImmediate f => Sys2Proof.Machine.execPrfImmediate f s
  | .atom f => Sys2Proof.Machine.execAtom f s
  | .ared f => Sys2Proof.Machine.execAred f s
  | .atoms f => Sys2Proof.Machine.execAtoms f s
  | .mma f => Sys2Proof.Machine.execMma f s
  | .mmas f => Sys2Proof.Machine.execMmas f s
  | .accz f => Sys2Proof.Machine.execAccz f s
  | .accld f => Sys2Proof.Machine.execAccld f s
  | .accst f => Sys2Proof.Machine.execAccst f s
  | .acccvt f => Sys2Proof.Machine.execAcccvt f s
  | .accput f => Sys2Proof.Machine.execAccput f s
  | .siltGet f => Sys2Proof.Machine.execSiltGet f s
  | .tlbWalk core va => Sys2Proof.Machine.execTlbWalk core va s
  | .leaseRecall ret line => Sys2Proof.Machine.execLeaseRecall ret line s
  | .collectiveFold ret core job unit => Sys2Proof.Machine.execCollectiveFold ret core job unit s
  | .drainSweep => Sys2Proof.Machine.execDrainSweep s
  | .gridBarrierArrival => Sys2Proof.Machine.execGridBarrierArrival s
  | .gridBarrierRelease => Sys2Proof.Machine.execGridBarrierRelease s
  | .teamEntry ret e => Sys2Proof.Machine.execTeamEntry ret e s
  | .stealRequest ret victim thief => Sys2Proof.Machine.execStealRequest ret victim thief s
  | .stealAnswer ret thief teams => Sys2Proof.Machine.execStealAnswer ret thief teams s
  | .probeMessage m => Sys2Proof.Machine.execProbeMessage m s
  | .put pkt => Sys2Proof.Machine.execPut pkt s
  | .getRequest pkt => Sys2Proof.Machine.execGetRequest pkt s
  | .getData pkt => Sys2Proof.Machine.execGetData pkt s
  | .atomic pkt => Sys2Proof.Machine.execAtomic pkt s
  | .atomicResult pkt => Sys2Proof.Machine.execAtomicResult pkt s
  | .collectiveChunk pkt => Sys2Proof.Machine.execCollectiveChunk pkt s
  | .semanticNack pkt => Sys2Proof.Machine.execSemanticNack pkt s
  | .acknowledgement ret psn => Sys2Proof.Machine.execAcknowledgement ret psn s
  | .unassignedOperation pkt => Sys2Proof.Machine.execUnassignedOperation pkt s
  | .linkLevelPause port v => Sys2Proof.Machine.execLinkLevelPause port v s
  | .retransmissionTimeout ret psn attempt => Sys2Proof.Machine.execRetransmissionTimeout ret psn attempt s
  | .llrReplay port good => Sys2Proof.Machine.execLlrReplay port good s
  | .laneLit port ln => Sys2Proof.Machine.execLaneLit port ln s
  | .linkControlFlit port lit => Sys2Proof.Machine.execLinkControlFlit port lit s
  | .stitchedLinkFailure ret dir retrained => Sys2Proof.Machine.execStitchedLinkFailure ret dir retrained s
  | .linkTraining port peer => Sys2Proof.Machine.execLinkTraining port peer s
  | .topologyStepTimeout port stage => Sys2Proof.Machine.execTopologyStepTimeout port stage s
  | .beaconArrival ret hops => Sys2Proof.Machine.execBeaconArrival ret hops s
  | .softErrorCorrection site bit => Sys2Proof.Machine.execSoftErrorCorrection site bit s
  | .uncorrectableError site => Sys2Proof.Machine.execUncorrectableError site s
  | .loanRequest ret lender => Sys2Proof.Machine.execLoanRequest ret lender s
  | .loanRecall lender borrower => Sys2Proof.Machine.execLoanRecall lender borrower s
  | .capMsg link msg => Sys2Proof.Machine.execCapMsg link msg s
  | .capShareUpdate ret msg => Sys2Proof.Machine.execCapShareUpdate ret msg s
  | .clOpWrite ret cluster value => Sys2Proof.Machine.execClOpWrite ret cluster value s
  | .routeTableEntryWrite ret bank index value => Sys2Proof.Machine.execRouteTableEntryWrite ret bank index value s
  | .lostLineEntryWrite ret slice index value => Sys2Proof.Machine.execLostLineEntryWrite ret slice index value s
  | .coreWindowWrite core off bytes => Sys2Proof.Machine.execCoreWindowWrite core off bytes s
  | .registerWrite reg value => Sys2Proof.Machine.execRegisterWrite reg value s
  | .partitionSetUp link rec => Sys2Proof.Machine.execPartitionSetUp link rec s
  | .partitionDissolve link rec => Sys2Proof.Machine.execPartitionDissolve link rec s
  | .regionRegister link rec => Sys2Proof.Machine.execRegionRegister link rec s
  | .regionDeregister link rec => Sys2Proof.Machine.execRegionDeregister link rec s
  | .tlbInvalidation link rec => Sys2Proof.Machine.execTlbInvalidation link rec s
  | .topologyChange link rec => Sys2Proof.Machine.execTopologyChange link rec s
  | .retargetDone link rec => Sys2Proof.Machine.execRetargetDone link rec s
  | .preemptionRequest link rec => Sys2Proof.Machine.execPreemptionRequest link rec s
  | .preemptionWithdraw link rec => Sys2Proof.Machine.execPreemptionWithdraw link rec s
  | .preemptionEnd link rec => Sys2Proof.Machine.execPreemptionEnd link rec s
  | .preemptionRestart link rec => Sys2Proof.Machine.execPreemptionRestart link rec s
  | .waitCycleProbe link rec => Sys2Proof.Machine.execWaitCycleProbe link rec s
  | .warmStartStage link rec => Sys2Proof.Machine.execWarmStartStage link rec s
  | .warmStart link rec fails => Sys2Proof.Machine.execWarmStart link rec fails s
  | .coldStart fails => Sys2Proof.Machine.execColdStart fails s
  | .attestation link rec => Sys2Proof.Machine.execAttestation link rec s
  | .waferId link rec => Sys2Proof.Machine.execWaferId link rec s
  | .unassignedCommand link rec => Sys2Proof.Machine.execUnassignedCommand link rec s
  | .illegalEncoding w => Sys2Proof.Machine.execIllegalEncoding w s
  | .packetDeliveryNack ret psn => Sys2Proof.Machine.execPacketDeliveryNack ret psn s
  | .broadcastBusWireFailure ret dir => Sys2Proof.Machine.execBroadcastBusWireFailure ret dir s
  | .managementWindowWrite link off bytes => Sys2Proof.Machine.execManagementWindowWrite link off bytes s
  | .yieldExpiry => Sys2Proof.Machine.execYieldExpiry s
  | .waitConditionMet => Sys2Proof.Machine.execWaitConditionMet s
  | .gangRendezvous => Sys2Proof.Machine.execGangRendezvous s
  | .matrixOperation => Sys2Proof.Machine.execMatrixOperation s
  | .parkEnd => Sys2Proof.Machine.execParkEnd s
  | .trapEntry => Sys2Proof.Machine.execTrapEntry s
  | .jobForward => Sys2Proof.Machine.execJobForward s
  | .segmentStart => Sys2Proof.Machine.execSegmentStart s
  | .landing => Sys2Proof.Machine.execLanding s
  | .jobCompletion => Sys2Proof.Machine.execJobCompletion s
  | .groupEnd => Sys2Proof.Machine.execGroupEnd s
  | .teamEnd => Sys2Proof.Machine.execTeamEnd s
  | .launchRecordRead => Sys2Proof.Machine.execLaunchRecordRead s
  | .admission => Sys2Proof.Machine.execAdmission s
  | .reservation => Sys2Proof.Machine.execReservation s
  | .reservationPreemption => Sys2Proof.Machine.execReservationPreemption s
  | .preemptionRequestRepeat => Sys2Proof.Machine.execPreemptionRequestRepeat s
  | .concurrentHoldTimeout => Sys2Proof.Machine.execConcurrentHoldTimeout s
  | .idleCluster => Sys2Proof.Machine.execIdleCluster s
  | .stealBackoff => Sys2Proof.Machine.execStealBackoff s
  | .eviction => Sys2Proof.Machine.execEviction s
  | .preemptionOverdue => Sys2Proof.Machine.execPreemptionOverdue s
  | .reAdmission => Sys2Proof.Machine.execReAdmission s
  | .abandonment => Sys2Proof.Machine.execAbandonment s
  | .waitCycleProbeStart => Sys2Proof.Machine.execWaitCycleProbeStart s
  | .keyDrained => Sys2Proof.Machine.execKeyDrained s
  | .loadSample => Sys2Proof.Machine.execLoadSample s
  | .linkSilenceTimeout => Sys2Proof.Machine.execLinkSilenceTimeout s
  | .laneDarkTimeout => Sys2Proof.Machine.execLaneDarkTimeout s
  | .laneWake => Sys2Proof.Machine.execLaneWake s
  | .laneWakeFailure => Sys2Proof.Machine.execLaneWakeFailure s
  | .regulatorFailure => Sys2Proof.Machine.execRegulatorFailure s
  | .portDrained => Sys2Proof.Machine.execPortDrained s
  | .laserOff => Sys2Proof.Machine.execLaserOff s
  | .laserWake => Sys2Proof.Machine.execLaserWake s
  | .slotStart => Sys2Proof.Machine.execSlotStart s
  | .slotEnd => Sys2Proof.Machine.execSlotEnd s
  | .housekeepingStepAbandon => Sys2Proof.Machine.execHousekeepingStepAbandon s
  | .linkPauseStart => Sys2Proof.Machine.execLinkPauseStart s
  | .linkPauseEnd => Sys2Proof.Machine.execLinkPauseEnd s
  | .beacon => Sys2Proof.Machine.execBeacon s
  | .scrub => Sys2Proof.Machine.execScrub s
  | .gritDecay => Sys2Proof.Machine.execGritDecay s
  | .stallSample => Sys2Proof.Machine.execStallSample s
  | .islandGating => Sys2Proof.Machine.execIslandGating s
  | .voltageStep => Sys2Proof.Machine.execVoltageStep s
  | .clockRampStep => Sys2Proof.Machine.execClockRampStep s
  | .operatingPointChangeComplete => Sys2Proof.Machine.execOperatingPointChangeComplete s
  | .regionLowering => Sys2Proof.Machine.execRegionLowering s
  | .ballastDecay => Sys2Proof.Machine.execBallastDecay s
  | .debtCleared => Sys2Proof.Machine.execDebtCleared s
  | .leaseExpiry => Sys2Proof.Machine.execLeaseExpiry s
  | .linkRoleActive => Sys2Proof.Machine.execLinkRoleActive s
  | .linkRoleStandby => Sys2Proof.Machine.execLinkRoleStandby s
  | .linkRoleShared => Sys2Proof.Machine.execLinkRoleShared s
  | .accessPerformed => Sys2Proof.Machine.execAccessPerformed s

end Sys2Proof.Machine
end

