-- ==== Sys2Proof/Machine/Issue.lean ====
section
/-! DEFINITION. Whose turn it is: the splits that may issue (R286–R288), the steps that are possible, and the instruction that a turn runs. -/

namespace Sys2Proof.Machine

/-- A turn: a stream of a split issues, a unit takes a step, or a waiting step, a due one, an input or a queued command happens. -/
inductive Turn where
  | ctl (c g p : Nat)
  | lane (c g p : Nat)
  | unit (e : Pend)
  | agenda (i : Nat)
  | timer
  | input
  | command (link : Nat)
  deriving DecidableEq, Repr

/-- The place of a split, as `cur` names it. -/
def State.seat (s : State) (c g p : Nat) : Cur :=
  { core := c, slot := g, split := p, team := (s.group c g).team, ret := retOf c }

/-! ### Ready splits (R286) -/

/-- A byte of a virtual access can be had: its translation, and what it leads to (R89, R103). -/
def State.served (s : State) (c va : Nat) : Bool :=
  !s.walkWaits c va && (match s.translate c va with
    | .ok fa _ => !s.homeWaits (retOf c) fa
    | _ => true)

/-- A pending access of the group of the step still touches one of the listed bytes: of the scratchpad, or of memory (R105, R107). -/
def State.touching (s : State) (scratch virt : List Nat) : Bool :=
  s.here.pending.any fun a => a.touched.any fun b => (if a.scratch then scratch else virt).contains b

/-- The reason of a stall of the split of the step has gone (R31, R62, R63, R89, R103, R105, R125, R149, R160, R174, R183–R187, R236, R238, R248). -/
def State.stallOver (s : State) (w : Stall) : Bool :=
  let c := s.cur.core
  let k := s.core c
  match w with
  | .queueFull => decide (s.me.queue.length < 4)
  | .laneBusy r => match s.needFree [r] with
    | .ok _ => true
    | .error _ => false
  | .writes rs => !s.awaits rs
  | .queue => s.me.queue.isEmpty
  | .drain => s.quiet
  | .matrix => (k.opsOf s.cur.slot).isEmpty
  | .tile t => !s.tileBusy [t]
  | .pair t => !s.tileBusy [t, t + 1]
  | .engineFull => decide (k.jobs.length < 64)
  | .fence => !s.here.fences.any fun f => f.holds s.cur.split
  | .release => !s.here.fences.any fun f => decide (f.split = s.cur.split)
  | .acks scope base len => !s.releaseWaits scope base len
  | .codebook n => !k.readsBook s.here.team n
  | .memory vas => vas.all (s.served c)
  | .panel bytes => !s.panelBusy bytes
  | .rendezvous => !k.held.any fun o => decide (o.slot = s.cur.slot)
  | .accesses scratch virt => !s.touching scratch virt

/-- A split whose stalls are over: each of its streams is ready from the next lane cycle on (R286). -/
def State.unstalled (s : State) : Split :=
  let y := s.me
  let y := match y.ctl with
    | .stalled w => if s.stallOver w then { y with ctl := .ready, ctlSince := s.cycle + 1 } else y
    | _ => y
  match y.laneStall with
  | some w => if s.stallOver w then { y with laneStall := none, laneSince := s.cycle + 1 } else y
  | none => y

/-- The split has a stream that is stalled. -/
def Split.isStalled (y : Split) : Bool := y.laneStall.isSome || match y.ctl with
  | .stalled _ => true
  | _ => false

/-- The control stream of the split of the step may issue: its next instruction has been fetched, and it is neither parked, blocked nor stalled (R286). -/
def State.ctlReady (s : State) : Bool :=
  s.me.trapDue.isNone && decide (s.me.ctl = .ready) && decide (s.me.ctlSince ≤ s.cycle) && !s.fetchWaits s.cur.core s.me.pc.toNat 4

/-- The address of the next lane word of the split of the step. -/
def State.nextAddr (s : State) : Nat := laneAddr s.myTeam.lrec.lbase ((s.me.queue.head?.map Block.off).getD 0)

/-- Its lane stream may issue: a lane instruction in an open window, not stalled, none of its own held for a rendezvous. -/
def State.laneReady (s : State) : Bool :=
  s.me.trapDue.isNone && !s.me.queue.isEmpty && !s.me.laneParked && s.me.laneStall.isNone && decide (s.me.laneSince ≤ s.cycle)
    && (!(s.core s.cur.core).held.any fun o => decide (o.slot = s.cur.slot) && decide (o.split = s.cur.split))
    && !s.fetchWaits s.cur.core s.nextAddr 12

/-- The live splits of the groups of a core. -/
def State.splitsOf (s : State) (c : Nat) : List (Nat × Nat × Split) :=
  (s.core c).groups.flatMap fun e => e.2.splits.map fun q => (e.1, q.1, q.2)

/-- A candidate for issue: when it became ready, its rank behind the last pick, slot and split, and its charge. -/
structure Cand where
  since : Nat
  rank : Nat
  slot : Nat
  split : Nat
  charge : Nat := 0

/-- Oldest first, ties round-robin behind the last pick (R286). -/
def Cand.older (a b : Cand) : Bool := decide (a.since < b.since) || (decide (a.since = b.since) && decide (a.rank < b.rank))

/-- The place of a split in the round-robin order behind the last pick. -/
def rankOf (last g p : Nat) : Nat := (g * 4 + p + 127 - last % 128) % 128

/-- The control stream that a core issues from: one instruction in a lane cycle. -/
def State.ctlPick (s : State) (c : Nat) : Option Cand :=
  if (s.core c).ctlCycle = s.cycleOf c + 1 then none
  else firstBy Cand.older ((s.splitsOf c).filterMap fun e =>
    if ({ s with cur := s.seat c e.1 e.2.1 } : State).ctlReady then some { since := e.2.2.ctlSince, rank := rankOf (s.core c).rrCtl e.1 e.2.1, slot := e.1, split := e.2.1 } else none)

/-- The opcode weight of a lane word by op and fmt (R287); a matrix operation is charged while it runs. -/
def weight (op fmt : Nat) : Nat :=
  let o := op % 0x200
  if o = 0x0A0 ∨ o = 0x0A1 then 0
  else if 0x080 ≤ o then 3
  else if o = 2 ∨ o = 3 ∨ o = 4 then 3
  else if o = 0x037 ∨ o = 0x038 then (if fmt = 3 then 4 else 3)
  else if 0x048 ≤ o ∧ o ≤ 0x04F then 6
  else if 0x040 ≤ o ∧ o ≤ 0x063 then (if fmt = 4 then 6 else 4)
  else 2

/-- The charge of a lane word for the split of the step: weight × active lanes; accumulator instructions count 32. -/
def State.laneCharge (s : State) (w : BitVec 96) : Nat :=
  let op := (w.extractLsb' 85 10).toNat
  let n := if 0x0A2 ≤ op ∧ op ≤ 0x0A7 then 32 else popcount (s.execMask (w.extractLsb' 49 4))
  weight op (w.extractLsb' 20 5).toNat * n

/-- The lane word that the split of the step issues next (R31, R128). -/
def State.nextLane (s : State) : Except Flt (BitVec 96) :=
  s.fetchLane s.cur.core s.myTeam.lrec.lbase ((s.me.queue.head?.map Block.off).getD 0)

/-- The lane streams of a core that are ready. -/
def State.laneCands (s : State) (c : Nat) : List Cand :=
  (s.splitsOf c).filterMap fun e =>
    let t : State := { s with cur := s.seat c e.1 e.2.1 }
    if t.laneReady then
      some { since := e.2.2.laneSince, rank := rankOf (s.core c).rrLane e.1 e.2.1, slot := e.1, split := e.2.1, charge := match t.nextLane with
        | .ok w => t.laneCharge w
        | .error _ => 0 }
    else none

/-- The charge of a candidate comes first above the mark (R288), except for one that has been ready for 64 lane cycles (R286). -/
def Cand.lighter (now : Nat) (a b : Cand) : Bool :=
  let x := decide (a.since + 64 ≤ now)
  let y := decide (b.since + 64 ≤ now)
  if x || y then (x && !y) || (x && y && a.older b)
  else decide (a.charge < b.charge) || (decide (a.charge = b.charge) && a.older b)

/-- The lane stream that a core issues from: two instructions in a lane cycle, the first by age, the second from another split, by least charge while the record exceeds its mark (R286, R288). -/
def State.lanePick (s : State) (c : Nat) : Option Cand :=
  let x := s.core c
  let k := s.cluster (retOf c) (clusterOf c)
  if x.laneCycle ≠ s.cycleOf c + 1 then firstBy Cand.older (s.laneCands c)
  else if x.laneBoth then none
  else firstBy (if k.curHwm.toNat < k.curRec.toNat then Cand.lighter (s.cycleOf c) else Cand.older)
    ((s.laneCands c).filter fun e => decide (e.slot * 4 + e.split ≠ x.laneFirst))

/-- A stream of a core would issue in a later lane cycle. -/
def State.streamsWait (s : State) (c : Nat) : Bool :=
  (s.splitsOf c).any fun e => e.2.2.trapDue.isNone &&
    (decide (e.2.2.ctl = .ready) || (!e.2.2.queue.isEmpty && !e.2.2.laneParked && e.2.2.laneStall.isNone))

/-! ### Steps of a core -/

/-- A team leaves instead of going on: it holds a request, every group is at a blocking point, and there is room for it (R360). -/
def State.leaves (s : State) (t : Nat) : Bool := s.mayEvict t && (s.evictAll (s.leavers t)).isSome

/-- A blocked split of the step that its condition lets go on, or trap (R30, R177, R359). Behind a batch that has ended without `PEND` a team that holds a request is evicted first (R360). -/
def State.mayMeet (s : State) : Bool :=
  let c := s.cur.core
  let g := s.cur.slot
  s.me.trapDue.isNone && match s.me.ctl with
  | .blocked w => s.waitMet c g w && (match w with
    | .merge _ => decide ((s.here.splits.head?.map Prod.fst) = some s.cur.split)
    | .batch _ => if (s.pendTiles c g).isEmpty then !s.leaves s.here.team else decide (s.lowestBatch c g = some s.cur.split)
    | _ => true)
  | _ => false

/-- Steps of a split: a condition met, a window that closes, a trap that is taken. -/
def State.splitSteps (s : State) : List Pend :=
  let u := s.cur
  (if s.mayMeet then [⟨u, .waitConditionMet⟩] else [])
  ++ (if s.me.trapDue.isSome && !s.trapWaits u.core u.slot u.split then [⟨u, .trapEntry⟩] else [])
  ++ (if s.me.trapDue.isNone && decide (s.me.ctl = .parked) && s.quiet then [⟨{ u with idx := 0 }, .parkEnd⟩] else [])
  ++ (if s.me.trapDue.isNone && s.me.laneParked && !s.here.outstanding u.split then [⟨{ u with idx := 1 }, .parkEnd⟩] else [])

/-- Steps of a group: an access performed, a gang that is complete, its end. -/
def State.groupSteps (s : State) (c g : Nat) (x : Group) : List Pend :=
  let u := s.seat c g 0
  ((List.range x.pending.length).filter fun i => !(s.portionsAt c g i).isEmpty).map (fun i => ⟨{ u with idx := i }, .accessPerformed⟩)
  ++ (match (s.core c).held.find? fun o => decide (o.slot = g) with
    | some o => if ((s.core c).arrived o).isSome then [⟨u, .gangRendezvous⟩] else []
    | none => [])
  ++ (if x.done && !x.finished && x.pending.isEmpty && x.fences.isEmpty && ((s.core c).opsOf g).isEmpty then [⟨u, .groupEnd⟩] else [])

/-- Steps of a core. -/
def State.coreSteps (s : State) (c : Nat) : List Turn :=
  let k := s.core c
  (match s.ctlPick c with
    | some x => [.ctl c x.slot x.split]
    | none => [])
  ++ (match s.lanePick c with
    | some x => [.lane c x.slot x.split]
    | none => [])
  ++ ((s.splitsOf c).flatMap fun e => ({ s with cur := s.seat c e.1 e.2.1 } : State).splitSteps).map .unit
  ++ (k.groups.flatMap fun e => s.groupSteps c e.1 e.2).map .unit
  ++ (if k.mxq.isEmpty then [] else [.unit ⟨{ core := c, ret := retOf c }, .matrixOperation⟩])

/-! ### Waiting steps -/

/-- Waiting steps that may happen: one for each unit, the oldest first. -/
def agendaSteps (l : List Pend) : List Turn :=
  ((List.range l.length).filter fun i => match l[i]? with
    | some e => !(l.take i).any fun x => decide (x.unit = e.unit)
    | none => false).map .agenda

/-- Steps of the units of a reticle: its distributor, clusters, ports and power. -/
def State.retSteps (s : State) (r : Nat) : List Pend :=
  if (s.ret r).answers then s.distSteps r ++ s.portSteps r ++ s.powerSteps r else []

/-- Sweeps of the drain detections that run, and probes that start by themselves. -/
def State.gridSteps (s : State) : List Pend :=
  s.sweeps.map (fun i => ⟨{ idx := i }, .drainSweep⟩)
  ++ ((s.teams.map Prod.fst).filter s.probeDue).map fun t => ⟨{ team := t }, .waitCycleProbeStart⟩

/-- The reticle to which a record about a team goes: that of its home core (R329). -/
def State.teamRets (s : State) (l : Nat) (rec : List Byte) (i : Nat) : List Nat :=
  match s.findTeam (s.partOf (linkRet l)) (BitVec.ofNat 32 (operand rec i 4)) (operand rec (i + 4) 4) with
  | some t => [retOf (s.homeNow t)]
  | none => []

/-- The reticles to which the service core forwards a record (R294, R328, R329). -/
def State.commandRets (s : State) (l : Nat) (rec : List Byte) : List Nat :=
  match operand rec 0 2 with
  | 0x01 => (descOf rec).rets
  | 0x02 => if operand rec 4 1 = 0 then [operand rec 2 1] else s.teamRets l rec 24
  | 0x04 => s.partRets (operand rec 4 1)
  | 0x05 => s.partRets (operand rec 22 1)
  | 0x07 => s.teamRets l rec 4
  | 0x08 => s.teamRets l rec 4
  | 0x0A => []
  | 0x0B => []
  | _ => [operand rec 2 1]

/-- The bytes of the record that a link executes next, as its memory holds them. -/
def State.recordNow (s : State) (l : Nat) : List Byte := readN (s.seenByte none) (s.recordAt l) 64

/-- The service core of a link's reticle can have a record now, and its answer be written (R103, R326); the endpoint there reaches every reticle that the record goes to and that answers (R20; log 93). -/
def State.recordReady (s : State) (l : Nat) : Bool :=
  !s.homeWaits (linkRet l) (s.recordAt l) && (s.commandRets l (s.recordNow l)).all fun r => !(s.ret r).answers || s.hostReaches l s.wafer r

/-- A link has a record to execute (R328, R330). -/
def State.commandWaits (s : State) (l : Nat) : Bool :=
  let x := s.link l
  s.started && x.accepts && x.sq.on && decide (x.sq.count ≠ 0) && (s.ret (linkRet l)).answers && s.recordReady l

/-- Every turn that is possible. -/
def State.turns (s : State) : List Turn :=
  s.cores.flatMap (fun k => s.coreSteps k.1 ++ (s.jobSteps k.1).map .unit)
  ++ (s.schedCores.flatMap s.schedSteps).map .unit
  ++ (s.teams.flatMap fun e => s.teamSteps e.1).map .unit
  ++ (s.rets.flatMap fun e => s.retSteps e.1).map .unit
  ++ s.gridSteps.map .unit
  ++ ([0, 1].filter s.commandWaits).map .command
  ++ agendaSteps s.agenda
  ++ (match s.timers with
    | t :: _ => if t.1 ≤ s.now then [.timer] else []
    | [] => [])
  ++ (if s.inbox.isEmpty then [] else [.input])

/-- The turn that is taken: the only one, or any of several (log 2). -/
def State.turn (s : State) : Option Turn :=
  match s.turns with
  | [] => none
  | [t] => some t
  | l => l[Config.pick s.freeCount % l.length]?

/-! ### Time -/

/-- A stall of the split of the step is for a memory result, a TLB miss or a full engine queue (R321). -/
def State.onMemory (s : State) : Stall → Bool
  | .writes _ => true
  | .memory _ => true
  | .engineFull => true
  | .accesses _ _ => true
  | .laneBusy r => s.awaits [r]
  | .drain => s.here.outstanding s.cur.split
  | .tile t => s.loading [t]
  | .pair t => s.loading [t, t + 1]
  | _ => false

/-- The split of the step waits as R321 tells: a stream of it is stalled or parked for a result, or waits for its next word. -/
def State.waitsOnMemory (s : State) : Bool :=
  let y := s.me
  let out := s.here.outstanding s.cur.split
  (match y.ctl with
    | .ready => s.fetchWaits s.cur.core y.pc.toNat 4
    | .stalled w => s.onMemory w
    | .parked => out
    | .blocked _ => false)
  || (match y.laneStall with
    | some w => s.onMemory w
    | none => (y.laneParked && out) || (!y.queue.isEmpty && !y.laneParked && s.fetchWaits s.cur.core s.nextAddr 12))

/-- A resident split of a cluster waits as R321 tells. -/
def State.clusterWaits (s : State) (k : Nat) : Bool :=
  [2 * k, 2 * k + 1].any fun c => (s.splitsOf c).any fun e => ({ s with cur := s.seat c e.1 e.2.1 } : State).waitsOnMemory

/-- The lane cycles of every cluster that holds something, brought up to now; a cluster's two cores are 2 k and 2 k + 1. -/
def State.tick (s : State) : State :=
  ((s.cores.map fun e => e.1 / 2).eraseDups).foldl (fun s k => s.tickCluster (k / 36) (k % 36) (s.clusterWaits k)) s

/-- The splits whose stalls are over become ready. -/
def State.wake (s : State) : State :=
  (s.cores.flatMap fun k => (s.splitsOf k.1).map fun e => (k.1, e)).foldl (fun (s : State) e =>
    if e.2.2.2.isStalled then s.setSplit e.1 e.2.1 e.2.2.1 ({ s with cur := s.seat e.1 e.2.1 e.2.2.1 } : State).unstalled else s) s

/-- The groups that are at a blocking point while their team holds a request (R366). -/
def State.noteBlocked (s : State) : State :=
  s.teams.foldl (fun s e => match e.2.request with
    | some r =>
      let l := ((s.groupsOf e.1).filter fun g => s.groupBlocked e.2.core g.1 g.2).map fun g => g.2.gid
      if s.isResident e.1 then s.modTeam e.1 fun x => { x with request := some { r with reached := l.foldl (fun m g => aput m g s.now) r.reached } } else s
    | none => s) s

/-- The fences that can be met now are, and event records that can reach their rings do (R114, R313). -/
def State.settleWaits (s : State) : State :=
  let s := (s.cores.flatMap fun k => (k.2.groups.filter fun g => !g.2.fences.isEmpty).map fun g => (k.1, g.1)).foldl (fun s e => s.settleFences e.1 e.2) s
  (s.rets.filter fun e => !e.2.eqHeld.isEmpty).foldl (fun s e => s.settleEvents e.1 e.2.eqHeld.length) s

/-- What every step finds first: fences that are met, stalls that are over, and blocking points that have been reached; on a device that lists no core and no reticle nothing waits. -/
def State.look (s : State) : State :=
  if s.cores.isEmpty && s.rets.isEmpty then s else s.settleWaits.wake.noteBlocked

/-- Reference time goes on. -/
def State.pass (s : State) (n : Nat) : State := ({ s with now := s.now + n } : State).tick

/-! ### What a turn runs -/

/-- A prepared step: an instruction to execute, one that a stream of the split of the step issues, or a state already reached. -/
inductive Issued where
  | run (i : Instr) (s : State)
  | stream (lane : Bool) (i : Instr) (s : State)
  | done (s : State)

/-- The next control instruction of a split (R128, R138, R153). -/
def State.runCtl (s : State) (c g p : Nat) : Issued :=
  let t : State := { s with cur := s.seat c g p }
  let a := t.me.pc.toNat
  let r := t.fetchControl c a
  let t := t.useFetch c a 4
  match r with
  | .error f => .done (t.raiseCtl f)
  | .ok w =>
    let t := { t with cur := { t.cur with insn := w.setWidth 96 } }
    match decodeControl w with
    | .ok i => .stream false i t
    | .error _ => .stream false (.illegalEncoding (.control w)) t

/-- The next lane instruction of a split. -/
def State.runLane (s : State) (c g p : Nat) : Issued :=
  let t : State := { s with cur := s.seat c g p }
  let a := t.nextAddr
  let r := t.nextLane
  let t := [0, 4, 8].foldl (fun t i => t.useFetch c (a + i) 4) t
  match r with
  | .error f => .done (t.raiseLane f)
  | .ok w =>
    let t := { t with cur := { t.cur with insn := w } }
    match decodeLane w with
    | .ok i => .stream true i t
    | .error _ => .stream true (.illegalEncoding (.lane w)) t

/-- The split of the step has issued its instruction, into the rendezvous latch too (R236), and has neither held it nor trapped; `a` is the state before it, `b` the state after it. -/
def issued (lane : Bool) (a b : State) : Bool :=
  match b.split? a.cur.core a.cur.slot a.cur.split with
  | none => !lane && !(b.team a.cur.team).byFault
  | some y =>
    y.trapDue.isNone && (a.me.inHandler || !y.inHandler)
      && if lane then decide (y.lWin.n = a.me.lWin.n + 1) || decide ((a.core a.cur.core).held.length < (b.core a.cur.core).held.length) else (match y.ctl with
        | .stalled _ => false
        | _ => true)

/-- A charge in the current lane cycle of a core's cluster (R287). -/
def State.charge (s : State) (c n : Nat) : State :=
  s.modCluster (retOf c) (clusterOf c) fun k => { k with recAdd := k.recAdd + n }

/-- What the issue of the control instruction of `a` leaves of its lane cycle: its core's control slot is taken, and its cluster charged (R286, R287). -/
def State.ctlSlot (s a : State) : State :=
  let c := a.cur.core
  (s.modCore c fun k => { k with rrCtl := a.cur.slot * 4 + a.cur.split, ctlCycle := a.cycle + 1 }).charge c (popcount a.me.active)

/-- What the issue of the lane instruction of `a` leaves of its lane cycle: a lane slot of its core is taken, its cluster charged, and its lanes in use (R286, R287, R322). -/
def State.laneSlot (s a : State) : State :=
  let c := a.cur.core
  let z := a.cur.slot * 4 + a.cur.split
  let s := s.modCore c fun k =>
    if k.laneCycle = a.cycle + 1 then { k with rrLane := z, laneBoth := true }
    else { k with rrLane := z, laneCycle := a.cycle + 1, laneFirst := z, laneBoth := false }
  (s.charge c (a.laneCharge a.cur.insn)).modCluster (retOf c) (clusterOf c) fun k =>
    { k with laneUsed := true }.useLanes (a.execMask (a.cur.insn.extractLsb' 49 4)) a.now

/-- What the issue of the instruction of `a` leaves of its lane cycle, where it has issued. -/
def State.slotTaken (s a : State) (lane : Bool) : State :=
  if issued lane a s then (if lane then s.laneSlot a else s.ctlSlot a) else s

/-- The step of a waiting unit. -/
def State.runPend (s : State) (e : Pend) : Issued := .run e.ins { s with cur := e.unit }

/-- The command of a record (R328, R329, R367). -/
def commandOf (l : Nat) (rec : List Byte) : Instr :=
  match operand rec 0 2 with
  | 0x01 => if bitOf (operand rec 7 1) 1 then .partitionDissolve l rec else .partitionSetUp l rec
  | 0x02 => .regionRegister l rec
  | 0x03 => .regionDeregister l rec
  | 0x04 => .tlbInvalidation l rec
  | 0x05 => .topologyChange l rec
  | 0x06 => .retargetDone l rec
  | 0x07 => match operand rec 12 1 with
    | 1 => .preemptionWithdraw l rec
    | 2 => .preemptionEnd l rec
    | 3 => .preemptionRestart l rec
    | _ => .preemptionRequest l rec
  | 0x08 => .waitCycleProbe l rec
  | 0x09 => if operand rec 13 1 = 1 then .warmStart l rec [] else .warmStartStage l rec
  | 0x0A => .attestation l rec
  | 0x0B => .waferId l rec
  | _ => .unassignedCommand l rec

/-- The next record of a link's queue, which is skipped where it takes an error response (R375). -/
def State.runCommand (s : State) (l : Nat) : Issued :=
  let r := s.unitReads (linkRet l) (s.recordAt l) 64
  match r.1 with
  | some rec => .run (commandOf l rec) { r.2 with cur := { ret := linkRet l, idx := l } }
  | none => .done (r.2.taken l)

/-- The instruction of a turn, with the state it runs in. -/
def State.runTurn (s : State) : Turn → Issued
  | .ctl c g p => s.runCtl c g p
  | .lane c g p => s.runLane c g p
  | .unit e => s.runPend e
  | .agenda i => match s.agenda[i]? with
    | some e => ({ s with agenda := s.agenda.eraseIdx i } : State).runPend e
    | none => .done s
  | .timer => match s.timers with
    | t :: l => ({ s with timers := l } : State).runPend t.2
    | [] => .done s
  | .input => match s.inbox with
    | e :: l => ({ s with inbox := l } : State).runPend e
    | [] => .done s
  | .command l => s.runCommand l

/-- Time goes on: by one cycle where a stream waits for its next lane cycle, otherwise to the next due step (log 3). -/
def State.idle (s : State) : State :=
  s.pass (if s.cores.any fun e => s.streamsWait e.1 then 1
    else match s.timers with
      | t :: _ => max 1 (t.1 - s.now)
      | [] => 1)

/-- The reference cycles that a turn takes: one, or, where several were possible and so several may happen in one cycle, none or one (log 3). -/
def State.takes (s : State) : Nat := if s.turns.length ≤ 1 then 1 else Config.pick (s.freeCount + 1) % 2

/-- What the machine does next. -/
def State.issue (s : State) : Issued :=
  let s := s.look
  match s.turn with
  | none => .done s.idle
  | some t => ({ s with freeCount := if s.turns.length ≤ 1 then s.freeCount else s.freeCount + 2 } : State).pass s.takes |>.runTurn t

end Sys2Proof.Machine
end

