-- ==== Sys2Proof/Machine/Step.lean ====
section
/-! DEFINITION. One step of the machine. -/

namespace Sys2Proof.Machine

/-- One step: the turn that is taken runs its instruction; a stream's instruction takes its slot of the lane cycle where it issues. -/
def step (s : State) : Host.Outcome State Fault Refusal :=
  match s.issue with
  | .run i t => exec i t
  | .stream lane i t => match exec i t with
    | .next u => .next (u.slotTaken t lane)
    | .fault f => .fault f
    | .refused r => .refused r
  | .done t => .next t

/-- The instruction of a table word as the next one to run (log 4): on core 0, one team of one group whose split stands at it, in a page that its core's TLB maps; nothing else waits. -/
def State.withFetchWord (s : State) (nbits w : Nat) : State :=
  let lane := decide (nbits = 96)
  let base := if lane then 0x20000 else 0x10000
  let y : Split := { pc := 0x10000, active := fullMask, ctl := if lane then .parked else .ready, queue := if lane then [{ off := 0, cnt := 1 }] else [] }
  let x : Group := { team := 1, regN := 256, accN := 64, poolN := 4, splits := [(0, y)] }
  let t : Team := { stage := .resident, lrec := { grid := 1, roles := [0x00000101], scratch := 8, nx := 1, ny := 1, nz := 1, count := 1, entry := 0x10000, lbase := 0x20000 } }
  let pte : Dword := 0x3B
  let k : Core := { groups := [(0, x)], tlb := [{ vpage := 0, big := true, pte := pte }] }
  let r : Reticle := { s.ret 0 with live := true, xlatRoot := 1, part := some { wafers := [s.wafer] } }
  writeN State.setMem { s with cores := [(0, k)], rets := [(0, r)], teams := [(1, t)], inbox := [], agenda := [], timers := [] } base (bytesLE ((if lane then 12 else 4)) w)

end Sys2Proof.Machine
end

