-- ==== Sys2Proof/Safety.lean ====
section
/-! DEFINITION. What the claims speak of: runs that never stop, what a step leaves unchanged, and when an instruction's operands are sound. -/

namespace Sys2Proof.Machine

/-! ### Runs -/

/-- The step does not stop the machine. -/
def State.Goes (s : State) : Prop := ∃ t, step s = .next t

/-- A run of `n` steps from `s` that ends in `t` without a stop. -/
inductive Runs : Nat → State → State → Prop where
  | zero (s : State) : Runs 0 s s
  | succ {n : Nat} {s t u : State} (h : step s = .next t) (r : Runs n t u) : Runs (n + 1) s u

/-- Every state that a run from `s` reaches goes on. -/
def State.Safe (s : State) : Prop := ∀ n t, Runs n s t → t.Goes

/-! ### What stays unchanged -/

/-- A reticle beside its cache slices, and a slice beside the lines that it holds. -/
def Reticle.bare (r : Reticle) : Reticle := { r with slices := [] }
def Slice.bare (x : Slice) : Slice := { x with lines := [] }

/-- The kinds of state beside the vector registers: of the split of the step its condition codes, active mask, loop stack, lane queue, trap state (with what a trap sets aside) and latched `ref.count`; of its group the mask registers, batch counters, gang register, staged runs, tokens, attached acquires, fences with the posted `nput`s that they wait for, and pending accesses; every other split; the accumulator files, scratchpads, DRAM, L1s, engine queues, error logs, teams (their codebooks and launch values included), reticles (every device register) and the cache slices with what they hold and log. -/
inductive Part where
  | codes
  | activeMask
  | loops
  | queue
  | trap
  | refHi
  | masks
  | batch
  | gang
  | staged
  | tokens
  | acqs
  | fences
  | pending
  | others
  | tiles
  | scratch
  | mem
  | l1
  | jobs
  | logs
  | teams
  | devices
  | slices
  deriving DecidableEq, Repr

/-- A kind of state reads in `t` as it read in `s`. -/
def Part.same : Part → State → State → Prop
  | .codes, s, t => t.me.cmpA = s.me.cmpA ∧ t.me.cmpB = s.me.cmpB
  | .activeMask, s, t => t.me.active = s.me.active
  | .loops, s, t => t.me.loops = s.me.loops
  | .queue, s, t => t.me.queue = s.me.queue
  | .trap, s, t => t.me.trap = s.me.trap ∧ t.me.inHandler = s.me.inHandler ∧ t.me.savedLoops = s.me.savedLoops ∧ t.me.savedCmpA = s.me.savedCmpA ∧ t.me.savedCmpB = s.me.savedCmpB
  | .refHi, s, t => t.me.refHi = s.me.refHi
  | .masks, s, t => t.here.masks = s.here.masks
  | .batch, s, t => t.here.batch = s.here.batch ∧ t.here.ended = s.here.ended
  | .gang, s, t => t.here.gang = s.here.gang
  | .staged, s, t => t.here.staged = s.here.staged
  | .tokens, s, t => t.here.token = s.here.token ∧ t.here.tokens = s.here.tokens
  | .acqs, s, t => t.here.acqs = s.here.acqs
  | .fences, s, t => t.here.fences = s.here.fences ∧ t.here.posted = s.here.posted
  | .pending, s, t => t.here.pending = s.here.pending
  | .others, s, t => ∀ c g p, ¬(c = s.cur.core ∧ g = s.cur.slot ∧ p = s.cur.split) → t.split? c g p = s.split? c g p
  | .tiles, s, t => ∀ c i, (t.core c).tile i = (s.core c).tile i
  | .scratch, s, t => ∀ c a, t.scratchByte c a = s.scratchByte c a
  | .mem, s, t => ∀ a, t.memByte a = s.memByte a
  | .l1, s, t => ∀ c, (t.core c).l1 = (s.core c).l1
  | .jobs, s, t => ∀ c, (t.core c).jobs = (s.core c).jobs
  | .logs, s, t => ∀ c, (t.core c).elog = (s.core c).elog ∧ (t.core c).flog = (s.core c).flog ∧ (t.core c).melog = (s.core c).melog
  | .teams, s, t => t.teams = s.teams
  | .devices, s, t => ∀ r, (t.ret r).bare = (s.ret r).bare
  | .slices, s, t => ∀ r k, t.slice r k = s.slice r k

/-- Registers other than `regs` of the group of the step hold in `t` what they held in `s`: those of this core by their place in its register file, and those of every other core. -/
def SameRegs (regs : List Nat) (s t : State) : Prop :=
  ∀ c i, (c = s.cur.core → ∀ r ∈ regs, i ≠ s.here.regBase + r) → (t.core c).reg i = (s.core c).reg i

/-- The frame of an instruction: the step stays at the same split, whose group keeps its place, registers other than `regs` and every kind of state not listed in `parts` are unchanged. -/
structure Kept (regs : List Nat) (parts : List Part) (s t : State) : Prop where
  cur : t.cur = s.cur
  base : t.here.regBase = s.here.regBase
  regs : SameRegs regs s t
  rest : ∀ p : Part, p ∉ parts → p.same s t

/-! ### When operands are sound -/

/-- The step concerns the live split `y`. -/
def State.At (s : State) (y : Split) : Prop := s.me? = some y

/-- No queued or executing lane block of the split names a register of the list, and no access it has issued still has to write one (R62, R63). -/
def State.Unnamed (s : State) (regs : List Nat) : Prop :=
  ∀ r ∈ regs, r ∉ s.queuedNames laneNames ∧ s.awaits [r] = false

/-- A register is in the group's budget (R45). -/
def State.Owns (s : State) (r : BitVec 8) : Prop := r.toNat < s.budget

/-- A register that a control instruction reads as one word (R147): in the budget, uniform or read with `[first]`, carrying bits, i32 or n32. -/
def State.Word (s : State) (r : BitVec 8) (first : Bool := false) : Prop :=
  s.Owns r ∧ (first = true ∨ (s.ctlReg r.toNat).val.isUniform = true) ∧ plainTag (s.ctlReg r.toNat).tag = true

/-- Two tags agree: one is bits or both are the same (R147). -/
def Agree (t u : Tag) : Prop := t = tBits ∨ u = tBits ∨ t = u

/-- The operative tag of two sources (R147). -/
def tagOfTwo (t u : Tag) : Tag := if t = tBits then u else t

/-- The step concerns the live split `y`, which has a lane block, and no access of the split still has to write a register that the lane instruction names (R31, R62). -/
structure State.LaneAt (s : State) (i : Instr) (y : Split) : Prop where
  live : s.me? = some y
  block : y.queue ≠ []
  free : s.awaits (laneNames i) = false

end Sys2Proof.Machine
end

