-- ==== Sys2Proof/Certificates/Slice0/Obligations.lean ====
section
/-! DEFINITION. The statements for the provers. -/

namespace Sys2Proof.Claims

open Sys2Proof.Machine

/-! ### The common shape -/

/-- The instruction completes at `s`: it answers a next state that meets `post`, in which the vector registers other than `regs` and the kinds of state other than `parts` are unchanged. -/
def Does (i : Instr) (s : State) (regs : List Nat) (parts : List Part) (post : State → Prop) : Prop :=
  ∃ t, exec i s = .next t ∧ post t ∧ Kept regs parts s t

/-- No core leases a line. -/
def unleased (s : State) : Prop := ∀ fa, (s.lineTag fa).lessee = none

/-- The instruction takes the exception `code`, `info` in its split `y`, whose handler is at `h`, once nothing keeps the trap waiting: the split continues at the handler with its trap record written and its loop stack and condition operands set aside. The trap descriptor is read through the slices; where no core leases a line, that changes no memory, no L1 and no team. -/
def Traps (i : Instr) (s : State) (code info pc : Nat) : Prop :=
  ∀ (y : Split) (h : Dword), s.At y → y.inHandler = false → s.trapWaits s.cur.core s.cur.slot s.cur.split = false → y.queue = [] →
    s.handler s.cur.core s.myTeam.lrec.lbase = .ok h →
    Does i s [] [.codes, .loops, .trap, .queue, .slices, .mem, .l1, .teams] fun t =>
      (unleased s → ∀ q ∈ [Part.mem, .l1, .teams], q.same s t) ∧
      t.me.inHandler = true ∧ t.me.pc = h ∧ t.me.loops = [] ∧ t.me.queue = [] ∧ t.me.cmpA = 0 ∧ t.me.cmpB = 0 ∧
      t.me.savedLoops = y.loops ∧ t.me.savedCmpA = y.cmpA ∧ t.me.savedCmpB = y.cmpB ∧
      t.me.trap.cause.toNat % 256 = code ∧ t.me.trap.info = BitVec.ofNat 32 info ∧
      t.me.trap.pc = BitVec.ofNat 32 pc ∧ t.me.trap.pcHi = BitVec.ofNat 32 (pc / 2 ^ 32) ∧ t.me.trap.depth = BitVec.ofNat 32 y.loops.length

/-- The next PC and loop stack of an instruction that completes in line (R32). -/
def inLine (s t : State) : Prop := t.me.pc = (loopEnd s.me.pc s.me.loops).1 ∧ t.me.loops = (loopEnd s.me.pc s.me.loops).2

/-- The next PC and loop stack of a taken branch (R32). -/
def goesTo (s t : State) (a : Dword) : Prop := t.me.pc = a ∧ t.me.loops = unwind a s.me.loops

/-- Teams as before, but for the arrivals that their cores keep for the probe. -/
def sameTeams (s t : State) : Prop := ∀ u, (t.team? u).map (fun x => { x with arrivals := [] }) = (s.team? u).map fun x => { x with arrivals := [] }

/-! ### Control sources (R147) -/

/-- What a control instruction reads as the word of lane `l` of a source; `[first]` reads the lowest active lane for every lane. -/
def read (s : State) (r : BitVec 8) (first : Bool := false) (l : Nat := 0) : Word :=
  (s.ctlReg r.toNat).val.lane (if first then (lowestLane s.me.active).getD 0 else l)

/-- The tag of a source of a control instruction. -/
def tag (s : State) (r : BitVec 8) : Tag := (s.ctlReg r.toNat).tag

/-- A source as its shape counts: `[first]` makes it uniform. -/
def isU (s : State) (r : BitVec 8) (first : Bool := false) : Prop := first = true ∨ (s.ctlReg r.toNat).val.isUniform = true
def isA (s : State) (r : BitVec 8) (first : Bool := false) : Prop := first = false ∧ (s.ctlReg r.toNat).val.isAffine = true

/-- A source that is one word: in the budget, uniform, carrying bits, i32 or n32. -/
def isWord (s : State) (r : BitVec 8) (first : Bool := false) : Prop := s.Owns r ∧ isU s r first ∧ plainTag (tag s r) = true

/-- Two sources that are one word each and whose tags agree. -/
def twoWords (s : State) (a b : BitVec 8) (first : Bool := false) : Prop :=
  isWord s a ∧ isWord s b first ∧ Agree (tag s a) (tag s b)

/-- A register of the group as it stands, by lane. -/
def now (t : State) (r : BitVec 8) (l : Nat) : Word := (t.regNow r.toNat).val.lane l

/-- A destination that a control instruction may write. -/
def dest (s : State) (d : BitVec 8) : Prop := s.Owns d ∧ s.Unnamed [d.toNat]

/-- The split may issue an instruction that acts as marked, and no failed job waits to be reported (R149, R361). -/
def quiet (s : State) : Prop := s.me.queue = [] ∧ s.here.outstanding s.cur.split = false ∧ s.here.failed = []

/-! ### Arithmetic (R162) -/

/-- A two-source control instruction: lane l of vd becomes `op` of the lanes l of its sources, with the operative tag, uniform where both sources are and affine otherwise. -/
def binary (mk : Bool → BitVec 8 → BitVec 8 → BitVec 8 → Bool → Instr) (takes : Prop → Prop → Prop → Prop → Prop)
    (op : Tag → Word → Word → Word) : Prop :=
  ∀ (s : State) (y : Split) (p : Bool) (d a b : BitVec 8) (x : Bool),
    s.At y → dest s d → s.Owns a → s.Owns b → takes (isU s a) (isA s a) (isU s b x) (isA s b x) →
    plainTag (tag s a) = true → plainTag (tag s b) = true → Agree (tag s a) (tag s b) →
    Does (mk p d a b x) s [d.toNat] [.loops] fun t =>
      (t.regNow d.toNat).tag = tagOfTwo (tag s a) (tag s b) ∧
      (∀ l, l < 32 → now t d l = op (tagOfTwo (tag s a) (tag s b)) (read s a false l) (read s b x l)) ∧
      (isU s a ∧ isU s b x → (t.regNow d.toNat).val.isUniform = true) ∧ (¬(isU s a ∧ isU s b x) → (t.regNow d.toNat).val.isAffine = true) ∧
      inLine s t

/-- The pairings of R162: uniform sources only; an affine a as well; one affine source; any. -/
def uniformOnly (ua _ ub _ : Prop) : Prop := ua ∧ ub
def affineFirst (ua aa ub _ : Prop) : Prop := (ua ∨ aa) ∧ ub
def oneAffine (ua aa ub ab : Prop) : Prop := (ua ∧ ub) ∨ (aa ∧ ub) ∨ (ua ∧ ab)
def anyAffine (ua aa ub ab : Prop) : Prop := (ua ∨ aa) ∧ (ub ∨ ab)

/-- The conditions of R131. -/
def condition (code : Nat) (u v : Word) : Prop :=
  match code with
  | 0 => True
  | 1 => u = v
  | 2 => u ≠ v
  | 3 => u.toInt < v.toInt
  | 4 => v.toInt ≤ u.toInt
  | 5 => v.toInt < u.toInt
  | 6 => u.toInt ≤ v.toInt
  | 7 => u.toNat < v.toNat
  | 8 => v.toNat ≤ u.toNat
  | 9 => v.toNat < u.toNat
  | _ => u.toNat ≤ v.toNat

end Sys2Proof.Claims

open Sys2Proof Sys2Proof.Machine Sys2Proof.Claims

/-! ### The control stream -/

/-- R162: `uadd`, `usub`, `umul` and `ushl` on uniform and affine sources, lane by lane: an affine result reads as lane-wise arithmetic gives. -/
def Obligations.AffineArithmetic : Prop :=
  binary .uadd anyAffine (fun _ u v => u + v) ∧ binary .usub affineFirst (fun _ u v => u - v) ∧
  binary .umul oneAffine (fun _ u v => u * v) ∧
  binary .ushl affineFirst (fun _ u v => if 32 ≤ v.toNat then 0 else u <<< v.toNat)

/-- R162: the control instructions that take uniform sources alone; `umulh`, `umin` and `umax` are signed where the operative tag is i32. -/
def Obligations.UniformArithmetic : Prop :=
  binary .umulh uniformOnly (fun t u v => if t = tI32 then BitVec.ofInt 32 (u.toInt * v.toInt / 2 ^ 32) else BitVec.ofNat 32 (u.toNat * v.toNat / 2 ^ 32)) ∧
  binary .ushr uniformOnly (fun _ u v => if 32 ≤ v.toNat then 0 else u >>> v.toNat) ∧
  binary .usra uniformOnly (fun _ u v => if 32 ≤ v.toNat then (if u.toInt < 0 then 0xFFFFFFFF else 0) else u.sshiftRight v.toNat) ∧
  binary .uand uniformOnly (fun _ u v => u &&& v) ∧ binary .uor uniformOnly (fun _ u v => u ||| v) ∧
  binary .uxor uniformOnly (fun _ u v => u ^^^ v) ∧
  binary .umin uniformOnly (fun t u v => if t = tI32 then (if u.toInt ≤ v.toInt then u else v) else (if u.toNat ≤ v.toNat then u else v)) ∧
  binary .umax uniformOnly (fun t u v => if t = tI32 then (if u.toInt ≤ v.toInt then v else u) else (if u.toNat ≤ v.toNat then v else u))

/-- R162, R164, R165: `umad` reads vd as a third source, uniform or affine; `umov` copies value, shape and tag; `uaff` builds base va, stride vb; `ulim` writes its sign-extended immediate as i32; `ulih` replaces the high half and keeps the tag. -/
def Obligations.UniformMoves : Prop :=
  (∀ (s : State) (y : Split) (p : Bool) (d a b : BitVec 8) (x : Bool), s.At y → dest s d → twoWords s a b x →
    (isU s d ∨ isA s d) → plainTag (tag s d) = true → Agree (tagOfTwo (tag s a) (tag s b)) (tag s d) →
    Does (.umad p d a b x) s [d.toNat] [.loops] fun t =>
      (t.regNow d.toNat).tag = tagOfTwo (tagOfTwo (tag s a) (tag s b)) (tag s d) ∧
      (∀ l, l < 32 → now t d l = read s d false l + read s a * read s b x) ∧ ((t.regNow d.toNat).val.isAffine = (s.ctlReg d.toNat).val.isAffine) ∧ inLine s t) ∧
  (∀ (s : State) (y : Split) (p : Bool) (d b : BitVec 8) (x : Bool), s.At y → dest s d → s.Owns b → (isU s b x ∨ isA s b x) →
    Does (.umov p d b x) s [d.toNat] [.loops] fun t =>
      (t.regNow d.toNat).tag = tag s b ∧ (∀ l, l < 32 → now t d l = read s b x l) ∧ (isA s b x ↔ (t.regNow d.toNat).val.isAffine = true) ∧ inLine s t) ∧
  (∀ (s : State) (y : Split) (p : Bool) (d a b : BitVec 8) (x : Bool), s.At y → dest s d → twoWords s a b x →
    Does (.uaff p d a b x) s [d.toNat] [.loops] fun t =>
      (t.regNow d.toNat).tag = tagOfTwo (tag s a) (tag s b) ∧ (t.regNow d.toNat).val.isAffine = true ∧
      (∀ l, l < 32 → now t d l = read s a + BitVec.ofNat 32 l * read s b x) ∧ inLine s t) ∧
  (∀ (s : State) (y : Split) (p : Bool) (d : BitVec 8) (i : BitVec 17), s.At y → dest s d →
    Does (.ulim p d i) s [d.toNat] [.loops] fun t =>
      (t.regNow d.toNat).tag = tI32 ∧ (t.regNow d.toNat).val.isUniform = true ∧ (∀ l, l < 32 → (now t d l).toInt = i.toInt) ∧ inLine s t) ∧
  (∀ (s : State) (y : Split) (p : Bool) (d : BitVec 8) (i : BitVec 16), s.At y → dest s d → isWord s d →
    Does (.ulih p d i) s [d.toNat] [.loops] fun t =>
      (t.regNow d.toNat).tag = tag s d ∧ (t.regNow d.toNat).val.isUniform = true ∧
      (∀ l, l < 32 → (now t d l).toNat = i.toNat * 2 ^ 16 + (read s d).toNat % 2 ^ 16) ∧ inLine s t)

/-- R163, R131, R164: `ucmp` sets the condition codes; each of the eleven conditions reads them, and `usel` copies vb where its condition holds and writes nothing otherwise. -/
def Obligations.ConditionCodes : Prop :=
  (∀ (s : State) (y : Split) (p : Bool) (a b : BitVec 8) (x : Bool), s.At y → twoWords s a b x →
    Does (.ucmp p a b x) s [] [.loops, .codes] fun t => t.me.cmpA = read s a ∧ t.me.cmpB = read s b x ∧ inLine s t) ∧
  (∀ (s : State) (y : Split) (p : Bool) (c : BitVec 4) (a b : BitVec 8) (x : Bool), s.At y → c.toNat ≤ 10 → dest s a → s.Owns b → (isU s b x ∨ isA s b x) →
    (condition c.toNat y.cmpA y.cmpB → Does (.usel p c a b x) s [a.toNat] [.loops] fun t =>
      (t.regNow a.toNat).tag = tag s b ∧ (∀ l, l < 32 → now t a l = read s b x l) ∧ inLine s t) ∧
    (¬condition c.toNat y.cmpA y.cmpB → Does (.usel p c a b x) s [] [.loops] (inLine s)))

/-- R32, R131, R151, R154 to R156: the branches, `loop`, `lbrk`, `lrun` and `nop`: where control goes, what happens to the loop stack and the lane queue. That a `loop` of count 0 makes no end check of an outer entry that ends there is the model's choice (log 86). -/
def Obligations.BranchesAndLoops : Prop :=
  (∀ (s : State) (y : Split) (p : Bool) (o : BitVec 21), s.At y → Does (.b p o) s [] [.loops] fun t => goesTo s t (y.pc + 4 * o.signExtend 64)) ∧
  (∀ (s : State) (y : Split) (p : Bool) (c : BitVec 4) (o : BitVec 21), s.At y → c.toNat ≤ 10 →
    Does (.bc p c o) s [] [.loops] fun t => (condition c.toNat y.cmpA y.cmpB → goesTo s t (y.pc + 4 * o.signExtend 64)) ∧ (¬condition c.toNat y.cmpA y.cmpB → inLine s t)) ∧
  (∀ (s : State) (y : Split) (p : Bool) (k : BitVec 4) (o : BitVec 21), s.At y →
    Does (.bmz p k o) s [] [.loops] (fun t => (s.ctlMask k.toNat &&& y.active = 0 → goesTo s t (y.pc + 4 * o.signExtend 64)) ∧ (s.ctlMask k.toNat &&& y.active ≠ 0 → inLine s t)) ∧
    Does (.bma p k o) s [] [.loops] (fun t => (s.ctlMask k.toNat &&& y.active = y.active → goesTo s t (y.pc + 4 * o.signExtend 64)) ∧ (s.ctlMask k.toNat &&& y.active ≠ y.active → inLine s t))) ∧
  (∀ (s : State) (y : Split) (p : Bool) (a : BitVec 8) (i : BitVec 9), s.At y → isWord s a →
    (read s a = 0 → Does (.loop p a i) s [] [] fun t => t.me.pc = y.pc + 4 * i.setWidth 64 + 4) ∧
    (read s a ≠ 0 → y.loops.length < 4 → Does (.loop p a i) s [] [.loops] fun t =>
      (t.me.pc, t.me.loops) = loopEnd y.pc ({ start := y.pc + 4, stop := y.pc + 4 * i.setWidth 64, count := read s a } :: y.loops))) ∧
  (∀ (s : State) (y : Split) (p : Bool) (e : LoopEntry) (l : List LoopEntry), s.At y → y.loops = e :: l →
    Does (.lbrk p) s [] [.loops] fun t => t.me.pc = e.stop + 4 ∧ t.me.loops = l) ∧
  (∀ (s : State) (y : Split) (p : Bool) (n : BitVec 8) (o : BitVec 17), s.At y → y.queue.length < 4 →
    Does (.lrun p n o) s [] [.loops, .queue] fun t => t.me.queue = y.queue ++ [{ off := o.toNat, cnt := n.toNat + 1, late := y.closes p }] ∧ inLine s t) ∧
  (∀ (s : State) (y : Split) (p : Bool), s.At y → Does (.nop p) s [] [.loops] (inLine s))

/-- R152: `call` writes the link pair as uniform n32 and goes to its target; `ret` goes to the address in its pair, whose low bits are 0; neither changes the loop stack. -/
def Obligations.CallsAndReturns : Prop :=
  (∀ (s : State) (y : Split) (p : Bool) (d : BitVec 8) (i : BitVec 17), s.At y → d.toNat + 2 ≤ s.budget → s.Unnamed [d.toNat, d.toNat + 1] →
    Does (.call p d i) s [d.toNat, d.toNat + 1] [] fun t =>
      t.me.pc = y.pc + 4 * i.signExtend 64 ∧ (t.regNow d.toNat).tag = tN32 ∧ (t.regNow (d.toNat + 1)).tag = tN32 ∧
      ∀ l, l < 32 → (now t d l).toNat = (y.pc + 4).toNat % 2 ^ 32 ∧ ((t.regNow (d.toNat + 1)).val.lane l).toNat = (y.pc + 4).toNat / 2 ^ 32) ∧
  (∀ (s : State) (y : Split) (p : Bool) (a : BitVec 8), s.At y → a.toNat + 2 ≤ s.budget → twoWords s a (a + 1) → (read s a).toNat % 4 = 0 →
    Does (.ret p a) s [] [] fun t => t.me.pc.toNat = (read s (a + 1)).toNat * 2 ^ 32 + (read s a).toNat)

/-- R28, R30, R44, R157 to R160: `split` divides by a mask, the new split at the lowest free id with copies of the loop stack and codes, and follows what its maker has issued; `merge` alone completes and advances the join phase, and otherwise waits; `yld` waits with its continuation; `exit` ends the split. That a split created inside a handler is itself outside one is the model's choice (log 87). -/
def Obligations.SplitsAndWaits : Prop :=
  (∀ (s : State) (y : Split) (p : Bool) (k : BitVec 4) (o : BitVec 21), s.At y → quiet s →
    (s.ctlMask k.toNat &&& y.active = 0 ∨ s.ctlMask k.toNat &&& y.active = y.active → Does (.split p k o) s [] [.loops] (inLine s)) ∧
    (∀ i l, s.ctlMask k.toNat &&& y.active ≠ 0 → s.ctlMask k.toNat &&& y.active ≠ y.active → s.here.freeIds = i :: l →
      Does (.split p k o) s [] [.loops, .activeMask, .others, .pending, .fences] fun t =>
        t.here.pending = (s.here.follow s.cur.split i).pending ∧ t.here.fences = (s.here.follow s.cur.split i).fences ∧ t.here.posted = s.here.posted ∧
        t.me.active = y.active &&& ~~~(s.ctlMask k.toNat) ∧ inLine s t ∧ i < 4 ∧ aget s.here.splits i = none ∧
        ∃ z, t.split? s.cur.core s.cur.slot i = some z ∧ z.active = s.ctlMask k.toNat &&& y.active ∧ z.pc = y.pc + 4 * o.signExtend 64 ∧
          z.loops = y.loops ∧ z.cmpA = y.cmpA ∧ z.cmpB = y.cmpB ∧ z.queue = [] ∧ z.inHandler = false)) ∧
  (∀ (s : State) (y : Split) (p : Bool), s.At y → quiet s →
    (s.here.splits.length = 1 → Does (.merge p) s [] [.loops] fun t => t.here.join = s.here.join + 1 ∧ inLine s t) ∧
    (s.here.splits.length ≠ 1 → Does (.merge p) s [] [] fun t => t.me.ctl = .blocked (.merge y.pc) ∧ t.me.pc = y.pc)) ∧
  (∀ (s : State) (y : Split) (p : Bool) (o : BitVec 21), s.At y → quiet s → y.atLoopEnd y.pc = false →
    Does (.yld p o) s [] [] fun t => t.me.ctl = .blocked (.yld (y.pc + 4 * o.signExtend 64) false)) ∧
  (∀ (s : State) (y : Split) (p : Bool), s.At y → quiet s → (∀ f ∈ s.here.fences, f.split ≠ s.cur.split) →
    ∃ t, exec (.exit p) s = .next t ∧ t.me? = none ∧ t.here.done = t.here.splits.isEmpty ∧ SameRegs [] s t ∧
      ∀ q ∈ [Part.others, .masks, .batch, .gang, .staged, .tokens, .acqs, .tiles, .scratch, .mem, .l1, .jobs, .logs, .teams, .devices, .slices], q.same s t)

/-- R350, R169: the software trap saves PC + 4 and its code and enters the handler; outside a handler `eret` and, on a full stack or an empty one, `loop` and `lbrk` trap too, each with the code of R353. -/
def Obligations.TrapEntry : Prop :=
  (∀ (s : State) (y : Split) (p : Bool) (i : BitVec 9), s.At y → quiet s → Traps (.trap p i) s 22 i.toNat ((y.pc + 4).toNat)) ∧
  (∀ (s : State) (y : Split) (p : Bool), s.At y → Traps (.eret p) s 1 0 y.pc.toNat) ∧
  (∀ (s : State) (y : Split) (p : Bool) (a : BitVec 8) (i : BitVec 9), s.At y → isWord s a → read s a ≠ 0 → 4 ≤ y.loops.length → Traps (.loop p a i) s 12 4 y.pc.toNat) ∧
  (∀ (s : State) (y : Split) (p : Bool), s.At y → y.loops = [] → Traps (.lbrk p) s 11 0 y.pc.toNat)

/-- R354: `eret` restores the set-aside loop stack and condition operands, continues at the trap record's pc, rebuilds the lane queue of a lane fault, and clears the in-handler bit and the record. -/
def Obligations.ReturnFromHandler : Prop :=
  ∀ (s : State) (y : Split) (p : Bool), s.At y → quiet s → y.inHandler = true →
    Does (.eret p) s [] [.codes, .loops, .queue, .trap] fun t =>
      t.me.inHandler = false ∧ t.me.trap = {} ∧ t.me.loops = y.savedLoops ∧ t.me.cmpA = y.savedCmpA ∧ t.me.cmpB = y.savedCmpB ∧
      t.me.pc.toNat = y.trap.pcHi.toNat * 2 ^ 32 + y.trap.pc.toNat ∧
      (y.trap.cause.getLsbD 8 = false → t.me.queue = []) ∧
      (y.trap.cause.getLsbD 8 = true → ∃ n k, n = y.trap.lane.toNat % 2 ^ 17 ∧ k = y.trap.lane.toNat / 2 ^ 17 % 256 + 1 ∧
        t.me.queue = (if y.trap.cause.getLsbD 9 then (if k = 1 then [] else [{ off := n + 1, cnt := k - 1 }]) else [{ off := n, cnt := k }])
          ++ ([y.trap.x0, y.trap.x1, y.trap.x2].take (y.trap.x3.toNat % 4)).map Block.ofWord)

/-! ### Special registers, staging and pool (R59, R60, R166 to R168, R170, R171, R187) -/

/-- `sget` of index `i` answers the word `w l` in lane l of vd as n32, affine or uniform; `hi` is what `ref.count.hi` then holds. -/
def Sys2Proof.Claims.reads (s : State) (p : Bool) (d : BitVec 8) (i : Nat) (aff : Bool) (w : Nat → Word) (hi : Word) : Prop :=
  Does (.sget p d (BitVec.ofNat 9 i)) s [d.toNat] [.loops, .refHi] fun t =>
    (t.regNow d.toNat).tag = tN32 ∧ (∀ l, l < 32 → now t d l = w l) ∧ (t.regNow d.toNat).val.isAffine = aff ∧ (t.regNow d.toNat).val.isUniform = !aff ∧
    t.me.refHi = hi ∧ inLine s t

/-- R59, R166, R351: every special register reads as the table gives, `id.lane` affine and every other uniform; `ref.count` latches its high word; the trap-state registers read in a handler. -/
def Obligations.SpecialRegisterReads : Prop :=
  ∀ (s : State) (y : Split) (p : Bool) (d : BitVec 8), s.At y → dest s d →
    let g := s.here
    let r := s.myTeam.lrec
    let n := s.myTeam.lin
    let c := s.cur.core
    let t := s.ret (c / 72)
    let u (i v : Nat) : Prop := reads s p d i false (fun _ => BitVec.ofNat 32 v) y.refHi
    let w (i : Nat) (v : Word) : Prop := reads s p d i false (fun _ => v) y.refHi
    reads s p d 0x00 true (fun l => BitVec.ofNat 32 l) y.refHi ∧
    u 0x01 g.gid ∧ u 0x02 g.role ∧ u 0x03 s.cur.split ∧
    (0 < r.nx → 0 < r.ny → u 0x04 (n % r.nx) ∧ u 0x05 (n / r.nx % r.ny) ∧ u 0x06 (n / (r.nx * r.ny))) ∧
    u 0x07 r.nx ∧ u 0x08 r.ny ∧ u 0x09 r.nz ∧ w 0x0A r.grid ∧ u 0x0B (c % 72) ∧ u 0x0C (c / 72) ∧ u 0x0D s.wafer ∧
    reads s p d 0x10 false (fun _ => (s.refCount (c / 72)).setWidth 32) ((s.refCount (c / 72)).extractLsb' 32 32) ∧ w 0x11 y.refHi ∧
    (t.inSlot = false → u 0x12 (t.slotAt - s.now) ∧ u 0x13 (if t.slotN % 16 = 0 then 10000 else 1600)) ∧
    (t.inSlot = true → u 0x12 0 ∧ u 0x13 (t.slotEnd - s.now)) ∧
    u 0x20 y.loops.length ∧
    (∀ e l, y.loops = e :: l → w 0x21 (e.start.setWidth 32) ∧ w 0x22 (e.stop.setWidth 32) ∧ w 0x23 e.count) ∧
    (y.loops = [] → u 0x21 0 ∧ u 0x22 0 ∧ u 0x23 0) ∧
    (y.inHandler = true →
      w 0x30 y.trap.cause ∧ w 0x31 y.trap.pc ∧ w 0x32 y.trap.pcHi ∧ w 0x33 y.trap.lane ∧ w 0x34 y.trap.insn0 ∧ w 0x35 y.trap.insn1 ∧
      w 0x36 y.trap.insn2 ∧ w 0x37 y.trap.addr ∧ w 0x38 y.trap.addrHi ∧ w 0x39 y.trap.info ∧ w 0x3A y.trap.x0 ∧ w 0x3B y.trap.x1 ∧
      w 0x3C y.trap.x2 ∧ w 0x3D y.trap.x3 ∧ w 0x3E y.trap.aux ∧ w 0x3F y.trap.depth)

/-- R166, R167, R351, R353: an unassigned index, and a trap-state index outside a handler, raise the register-range fault; so does a write of anything but `loop.count` and, in a handler, `trap.cause`, `trap.pc` and `trap.pc.hi`. -/
def Sys2Proof.Claims.specialRegisterFaultsHold : Prop :=
  (∀ (s : State) (y : Split) (p : Bool) (d : BitVec 8) (i : BitVec 9), s.At y → dest s d →
    i.toNat ∉ [0, 1, 2, 3, 4, 5, 6, 7, 8, 9, 0xA, 0xB, 0xC, 0xD, 0x10, 0x11, 0x12, 0x13, 0x20, 0x21, 0x22, 0x23] →
    (y.inHandler = false ∨ i.toNat < 0x30 ∨ 0x3F < i.toNat) → Traps (.sget p d i) s 2 i.toNat y.pc.toNat) ∧
  (∀ (s : State) (y : Split) (p : Bool) (a : BitVec 8) (i : BitVec 9), s.At y → s.Owns a → i.toNat ≠ 0x23 →
    (y.inHandler = false ∨ i.toNat < 0x30 ∨ 0x32 < i.toNat) → Traps (.sput p a i) s 2 i.toNat y.pc.toNat)

/-- R167, R351: `sput` writes the count of the top loop entry and, in a handler, bit 9 of `trap.cause` alone, `trap.pc` and `trap.pc.hi`. -/
def Sys2Proof.Claims.specialRegisterWritesHold : Prop :=
  ∀ (s : State) (y : Split) (p : Bool) (a : BitVec 8), s.At y → isWord s a →
    (∀ e l, y.loops = e :: l → Does (.sput p a 0x23) s [] [.loops] fun t =>
      (t.me.pc, t.me.loops) = loopEnd y.pc ({ e with count := read s a } :: l)) ∧
    (y.loops = [] → Traps (.sput p a 0x23) s 11 0 y.pc.toNat) ∧
    (y.inHandler = true →
      Does (.sput p a 0x30) s [] [.loops, .trap] (fun t => inLine s t ∧ t.me.inHandler = true ∧
        (∀ i, i < 32 → t.me.trap.cause.getLsbD i = if i = 9 then (read s a).getLsbD 9 else y.trap.cause.getLsbD i) ∧ { t.me.trap with cause := y.trap.cause } = y.trap) ∧
      Does (.sput p a 0x31) s [] [.loops, .trap] (fun t => inLine s t ∧ t.me.inHandler = true ∧ t.me.trap = { y.trap with pc := read s a }) ∧
      Does (.sput p a 0x32) s [] [.loops, .trap] (fun t => inLine s t ∧ t.me.inHandler = true ∧ t.me.trap = { y.trap with pcHi := read s a }))

/-- R166, R167, R351, R353: an unassigned index, and a trap-state index outside a handler, raise the register-range fault; so does a write of anything but `loop.count` and, in a handler, `trap.cause`, `trap.pc` and `trap.pc.hi`. R167, R351: `sput` writes the count of the top loop entry and, in a handler, bit 9 of `trap.cause` alone, `trap.pc` and `trap.pc.hi`. Both hold. -/
def Obligations.SpecialRegisterStops : Prop := specialRegisterFaultsHold ∧ specialRegisterWritesHold

/-- R60, R168, R170, R176, R187: `rgn` stages its present runs, and none beyond the budget; `slotq` writes the three words of the housekeeping controller; `mmafence` closes the open batch; `widepool` counts the pool tiles that no wide tile names. -/
def Obligations.StagingSlotsAndPool : Prop :=
  (∀ (s : State) (y : Split) (p : Bool) (r0 r1 r2 r3 : BitVec 5) (m : BitVec 4), s.At y →
    (∀ e ∈ [(0, r0), (1, r1), (2, r2), (3, r3)], m.getLsbD e.1 = true → 8 * e.2.toNat + 8 ≤ s.budget) →
    Does (.rgn p r0 r1 r2 r3 m) s [] [.loops, .staged] fun t => inLine s t ∧
      t.here.staged = if m = 0 then [] else [(0, r0), (1, r1), (2, r2), (3, r3)].map fun e => if m.getLsbD e.1 then some (8 * e.2.toNat) else none) ∧
  (∀ (s : State) (y : Split) (p : Bool) (r0 r1 r2 r3 : BitVec 5) (m : BitVec 4), s.At y → m.getLsbD 0 = true → s.budget < 8 * r0.toNat + 8 →
    Traps (.rgn p r0 r1 r2 r3 m) s 2 (max (8 * r0.toNat) s.budget) y.pc.toNat) ∧
  (∀ (s : State) (y : Split) (p : Bool) (d : BitVec 8), s.At y → d.toNat + 3 ≤ s.budget → s.Unnamed [d.toNat, d.toNat + 1, d.toNat + 2] →
    let r := s.ret (s.cur.core / 72)
    Does (.slotq p d) s [d.toNat, d.toNat + 1, d.toNat + 2] [.loops] fun t => inLine s t ∧
      (∀ k, k < 3 → (t.regNow (d.toNat + k)).tag = tN32 ∧ (t.regNow (d.toNat + k)).val.isUniform = true) ∧
      (t.regNow d.toNat).val.lane 0 = BitVec.ofNat 32 (if r.inSlot then 0 else r.slotAt - s.now) ∧
      (t.regNow (d.toNat + 1)).val.lane 0 = BitVec.ofNat 32 (if r.inSlot then r.slotEnd - s.now else if r.slotN % 16 = 0 then 10000 else 1600) ∧
      (t.regNow (d.toNat + 2)).val.lane 0 = BitVec.ofNat 32 ((if r.inSlot then 2 else 0) + (if r.slotN % 16 = 0 then 1 else 0))) ∧
  (∀ (s : State) (y : Split) (p : Bool), s.At y →
    Does (.mmafence p) s [] [.loops, .batch, .tiles] fun t => inLine s t ∧ t.here.batch = s.here.batch + 1 ∧
      ((s.core s.cur.core).opsOf s.cur.slot = [] → t.here.ended = s.here.batch + 1)) ∧
  (∀ (s : State) (y : Split) (p : Bool) (d : BitVec 8), s.At y → dest s d → (s.core s.cur.core).opsOf s.cur.slot = [] →
    let g := s.here
    let free := (List.range g.poolN).filter fun j => decide (∀ t, t < g.accN - g.poolN →
      ((s.core s.cur.core).tile (g.accBase + t)).info.tag ≠ 3 ∨ ((s.core s.cur.core).tile (g.accBase + t)).info.partner.toNat ≠ g.accBase + (g.accN - g.poolN) + j)
    Does (.widepool p d) s [d.toNat] [.loops] fun t => inLine s t ∧ (t.regNow d.toNat).tag = tN32 ∧
      (t.regNow d.toNat).val.isUniform = true ∧ now t d 0 = BitVec.ofNat 32 free.length)

/-- R171, R319: `opreq` answers the point held or moved to, the point asked and the reason; below the floor, without the power right or during a change it is denied and changes no device; a point that is not faster than the one held is granted and becomes the target; a value above 15 raises the operand-range fault. -/
def Obligations.OperatingPointRequest : Prop :=
  ∀ (s : State) (y : Split) (p : Bool) (d a : BitVec 8), s.At y → dest s d → isWord s a →
    let r := s.cur.core / 72
    let k := s.cur.core % 72 / 2
    let x := s.cluster r k
    let n := (read s a).toNat
    let answered (t : State) (cur why : Nat) : Prop := inLine s t ∧ (t.regNow d.toNat).tag = tN32 ∧ (t.regNow d.toNat).val.isUniform = true ∧ now t d 0 = BitVec.ofNat 32 (cur * 256 + n * 16 + why)
    (7 ≤ n → n < 16 → Does (.opreq p d a) s [d.toNat] [.loops] fun t => answered t x.cur 1) ∧
    (n < 7 → s.here.power = false → Does (.opreq p d a) s [d.toNat] [.loops] fun t => answered t x.cur 2) ∧
    (n < 7 → s.here.power = true → x.busy = true → Does (.opreq p d a) s [d.toNat] [.loops] fun t => answered t x.cur 5) ∧
    (n < 7 → s.here.power = true → x.busy = false → x.cur ≤ n → Does (.opreq p d a) s [d.toNat] [.loops, .devices, .slices] fun t =>
      answered t n 0 ∧ (t.cluster r k).cur = n ∧ (t.cluster r k).tgt = n) ∧
    (16 ≤ n → Traps (.opreq p d a) s 5 n y.pc.toNat)

/-! ### Fences, waits and barriers (R41, R114, R174 to R182) -/

/-- R114, R174: `fence` completes for every scope, kind and range, whatever accesses and fences of its group are outstanding. Where it follows no other fence and no access: over the whole space, at team scope it changes nothing; an acquire at wafer or sys scope drops the clean bytes of every line of the core's L1; a release whose lines can all be written back leaves no dirty byte in it, each having reached memory where its line is not lost, and then stands only while acknowledgements that it waits for are outstanding; one whose lines cannot be written back yet stands unmet, and no line changes. Where an access of its split that it waits for is still to be performed, it stands unmet. -/
def Obligations.Fences : Prop :=
  ∀ (s : State) (y : Split) (p : Bool) (o : BitVec 4) (a b : BitVec 8), s.At y → twoWords s a b → y.queue = [] → o.toNat < 12 → o.toNat % 4 ≠ 0 →
    let i := Instr.fence p o a b
    let c := s.cur.core
    let scope := o.toNat / 4
    let kind := o.toNat % 4
    let due := s.covered scope (read s a) (read s b)
    let stands (t : State) (jobs : List Nat) (met : Bool) : Prop :=
      t.here.fences = [{ id := 1, met := met, jobs := jobs, split := s.cur.split, scope := scope, kind := kind, base := read s a, len := read s b }]
    Does i s [] [.loops, .pending, .fences, .l1, .mem, .teams, .slices] (inLine s) ∧
    (s.here.fences = [] → s.here.pending = [] → read s b = 0xFFFFFFFF →
      (scope = 0 → Does i s [] [.loops] (inLine s)) ∧
      (scope ≠ 0 → kind = 1 → Does i s [] [.loops, .l1] fun t => inLine s t ∧
        (t.core c).l1 = (s.core c).l1.map (fun l => { l with valid := l.valid &&& l.dirty }) ∧ ∀ k, k ≠ c → (t.core k).l1 = (s.core k).l1) ∧
      (scope ≠ 0 → 2 ≤ kind → s.releasable c scope (read s a) (read s b) = true →
        Does i s [] [.loops, .fences, .l1, .mem, .teams, .slices] fun t => inLine s t ∧ (∀ l ∈ (t.core c).l1, l.dirty = 0) ∧
          ((s.core c).l1.Pairwise (fun l m => l.line ≠ m.line) → ∀ l ∈ (s.core c).l1, ∀ i, i < 128 → l.dirty.getLsbD i = true →
            s.lost (l.line * 128) = false → t.memByte (l.line * 128 + i) = tget 0 l.data i) ∧
          (due = [] → t.here.fences = []) ∧ (due ≠ [] → stands t due true)) ∧
      (scope ≠ 0 → 2 ≤ kind → s.releasable c scope (read s a) (read s b) = false → Does i s [] [.loops, .fences] fun t => inLine s t ∧ stands t due false)) ∧
    (s.here.fences = [] → (∃ x ∈ s.here.pending, x.of s.cur.split = true ∧ s.waitsFor kind (read s a) (read s b) x = true) →
      Does i s [] [.loops, .pending, .fences] fun t => inLine s t ∧ stands t (if 2 ≤ kind then due else []) false)

/-- No fence holds what the split of the step does next (R114, R174). -/
def Sys2Proof.Claims.noFence (s : State) : Prop := ∀ f ∈ s.here.fences, f.holds s.cur.split = false

/-- The barrier at `a` lies in the team's allocation, aligned on 16 bytes (R148). -/
def Sys2Proof.Claims.barrierAt (s : State) (a : Word) : Prop := a.toNat % 16 = 0 ∧ a.toNat + 16 ≤ s.scratchSize

/-- Phase `n` lies behind `m` (R175). -/
def Sys2Proof.Claims.behind (m n : Word) : Prop := 1 ≤ (m - n).toNat ∧ (m - n).toNat < 2 ^ 31

/-- R41, R117, R175, R177: a wait completes where its condition holds, and otherwise blocks the split at its PC with nothing changed; observing a completed token forgets it; a `wait.batch` on the open batch closes it; a batch that lies ahead raises the operand-range fault. -/
def Obligations.Waits : Prop :=
  (∀ (s : State) (y : Split) (p : Bool) (a b : BitVec 8), s.At y → quiet s → twoWords s a b → barrierAt s (read s a) →
    let w := Wait.bar (read s a) (read s b)
    (behind (s.bar s.here.team (read s a).toNat).phase (read s b) → (∀ x ∈ s.here.acqs, x.bar ≠ (read s a).toNat) → Does (.waitBar p a b) s [] [.loops] (inLine s)) ∧
    (behind (s.bar s.here.team (read s a).toNat).phase (read s b) → Does (.waitBar p a b) s [] [.loops, .acqs, .l1] fun t => inLine s t ∧ ∀ x ∈ t.here.acqs, x ∈ s.here.acqs) ∧
    (¬behind (s.bar s.here.team (read s a).toNat).phase (read s b) → Does (.waitBar p a b) s [] [] fun t => t.me.ctl = .blocked w ∧ t.me.pc = y.pc)) ∧
  (∀ (s : State) (y : Split) (p : Bool) (a : BitVec 8), s.At y → quiet s → isWord s a →
    (2 ^ 31 ≤ (s.here.batch - read s a).toNat → Traps (.waitBatch p a) s 5 (read s a).toNat y.pc.toNat) ∧
    ((s.here.batch - read s a).toNat < 2 ^ 31 → s.here.batch ≠ read s a →
      (behind s.here.ended (read s a) → (∀ t, t < s.here.workTiles → (s.tile t).info.pend = false) → Does (.waitBatch p a) s [] [.loops] (inLine s)) ∧
      (¬behind s.here.ended (read s a) → Does (.waitBatch p a) s [] [] fun t => t.me.ctl = .blocked (.batch (read s a)) ∧ t.me.pc = y.pc)) ∧
    (s.here.batch = read s a → (s.core s.cur.core).opsOf s.cur.slot = [] → (∀ t, t < s.here.workTiles → (s.tile t).info.pend = false) →
      Does (.waitBatch p a) s [] [.loops, .batch, .tiles] fun t => inLine s t ∧ t.here.batch = s.here.batch + 1 ∧ t.here.ended = s.here.batch + 1)) ∧
  (∀ (s : State) (y : Split) (p : Bool) (a : BitVec 8), s.At y → quiet s → isWord s a →
    ((∀ e ∈ s.here.tokens, e.1 = read s a → e.2 = true) →
      Does (.waitTok p a) s [] [.loops, .tokens] fun t => inLine s t ∧ t.here.tokens = s.here.tokens.filter (fun e => decide (e.1 ≠ read s a)) ∧ t.here.token = s.here.token) ∧
    ((∃ e ∈ s.here.tokens, e.1 = read s a) → (∀ e ∈ s.here.tokens, e.1 = read s a → e.2 = false) →
      Does (.waitTok p a) s [] [] fun t => t.me.ctl = .blocked (.tok (read s a)) ∧ t.me.pc = y.pc))

/-- A control instruction may read or write `n` bytes of the allocation: no fence holds the split, no access of the group is outstanding, and no matrix operation still has to read a panel there (R107, R238). -/
def Sys2Proof.Claims.scratchReady (s : State) (a n : Nat) : Prop :=
  noFence s ∧ s.here.pending = [] ∧ s.panelBusy (regRun (s.myTeam.scratchBase + a) n) = false

/-- What a barrier operation needs of the split and its group: its lane queue has drained, nothing holds the barrier's bytes, and no grid barrier collects on the barrier. -/
def Sys2Proof.Claims.barrierReady (s : State) (a : Word) : Prop :=
  s.me.queue = [] ∧ scratchReady s a.toNat 16 ∧ barrierAt s a ∧ s.myTeam.gbar ≠ some a.toNat

/-- Scratchpad bytes other than the 16 of the barrier are unchanged. -/
def Sys2Proof.Claims.onlyBarrier (s t : State) (a : Word) : Prop :=
  ∀ c x, ¬(c = s.myTeam.core ∧ s.myTeam.scratchBase + a.toNat ≤ x ∧ x < s.myTeam.scratchBase + a.toNat + 16) → t.scratchByte c x = s.scratchByte c x

/-- R179, R180, R265: `binit` sets a barrier with its expected count and everything else 0; `barrive` counts one arrival and `bexpect` none, each adding vb to the balance; with the arrivals complete and the balance 0 the phase advances, arrivals clear, and the next phase's balance takes effect; an arrival too many is barrier misuse 1. -/
def Sys2Proof.Claims.barriersHold : Prop :=
  (∀ (s : State) (y : Split) (p : Bool) (a b : BitVec 8) (x : Bool), s.At y → twoWords s a b x → barrierReady s (read s a) →
    ((read s b x).toNat ≤ 255 → Does (.binit p a b x) s [] [.loops, .scratch, .teams] fun t => inLine s t ∧ onlyBarrier s t (read s a) ∧ sameTeams s t ∧
      t.bar s.here.team (read s a).toNat = { expect := (read s b x).toNat, arrived := 0, bal := 0, balnx := 0, phase := 0 }) ∧
    (255 < (read s b x).toNat → Traps (.binit p a b x) s 5 (read s b x).toNat y.pc.toNat)) ∧
  (∀ (s : State) (y : Split) (p : Bool) (a b : BitVec 8), s.At y → twoWords s a b → barrierReady s (read s a) →
    let v := s.bar s.here.team (read s a).toNat
    let need := if v.expect = 0 then s.myTeam.lrec.groups else v.expect
    let e : Int := v.bal + (read s b).toNat
    let after (n : Nat) : Bar := if v.arrived + n = need ∧ e = 0 then { v with phase := v.phase + 1, arrived := 0, bal := v.balnx, balnx := 0 }
      else { v with arrived := v.arrived + n, bal := e }
    (∀ k ∈ s.cores, ∀ j ∈ k.2.jobs, j.cmd ≠ 7) → e < 2 ^ 39 →
    (v.arrived < need → v.arrived < 255 → Does (.barrive p 0 a b) s [] [.loops, .scratch, .teams] fun t => inLine s t ∧ onlyBarrier s t (read s a) ∧ sameTeams s t ∧ t.bar s.here.team (read s a).toNat = after 1) ∧
    (Does (.bexpect p 0 a b) s [] [.loops, .scratch, .teams] fun t => inLine s t ∧ onlyBarrier s t (read s a) ∧ sameTeams s t ∧ t.bar s.here.team (read s a).toNat = after 0) ∧
    (need ≤ v.arrived → Traps (.barrive p 0 a b) s 15 1 y.pc.toNat))

/-- R148, R178, R353: a barrier operand that is misaligned raises the misalignment fault, one outside the allocation the scratchpad-range fault, in every barrier instruction. -/
def Sys2Proof.Claims.barrierAddressesHold : Prop :=
  ∀ (s : State) (y : Split) (p : Bool) (a b : BitVec 8), s.At y → quiet s → twoWords s a b → (read s b).toNat ≤ 255 →
    ((read s a).toNat % 16 ≠ 0 → ∀ i ∈ [Instr.waitBar p a b, .binit p a b false, .barrive p 0 a b, .bexpect p 0 a b, .gbar p a], Traps i s 6 0 y.pc.toNat) ∧
    ((read s a).toNat % 16 = 0 → s.scratchSize < (read s a).toNat + 16 →
      ∀ i ∈ [Instr.waitBar p a b, .binit p a b false, .barrive p 0 a b, .bexpect p 0 a b, .gbar p a], Traps i s 7 s.scratchSize y.pc.toNat)

/-- R179, R180, R265: `binit` sets a barrier with its expected count and everything else 0; `barrive` counts one arrival and `bexpect` none, each adding vb to the balance; with the arrivals complete and the balance 0 the phase advances, arrivals clear, and the next phase's balance takes effect; an arrival too many is barrier misuse 1. R148, R178, R353: a barrier operand that is misaligned raises the misalignment fault, one outside the allocation the scratchpad-range fault, in every barrier instruction. Both hold. -/
def Obligations.BarrierOperations : Prop := barriersHold ∧ barrierAddressesHold

/-- R181, R182, R274: `gbar` makes its barrier the one that the grid barrier collects on and counts one arrival, in class 0 alone; `drain` records the group's part in the drain of its rank set. -/
def Obligations.GridBarrierAndDrain : Prop :=
  (∀ (s : State) (y : Split) (p : Bool) (a : BitVec 8), s.At y → isWord s a → y.queue = [] → scratchReady s (read s a).toNat 16 → barrierAt s (read s a) →
    s.team? s.here.team ≠ none → (s.myTeam.gbar = none ∨ s.myTeam.gbar = some (read s a).toNat) →
    let v := s.bar s.here.team (read s a).toNat
    let need := if v.expect = 0 then s.myTeam.lrec.groups else v.expect
    (v.arrived < need → v.arrived < 255 → s.myTeam.lrec.cls = 0 → Does (.gbar p a) s [] [.loops, .scratch, .teams] fun t => inLine s t ∧ onlyBarrier s t (read s a) ∧
      t.myTeam.gbar = some (read s a).toNat ∧ t.bar s.here.team (read s a).toNat = { v with arrived := v.arrived + 1 }) ∧
    (v.arrived < need → s.myTeam.lrec.cls ≠ 0 → Traps (.gbar p a) s 17 s.myTeam.lrec.cls y.pc.toNat)) ∧
  (∀ (s : State) (y : Split) (p : Bool) (a b : BitVec 8), s.At y → isWord s a → b.toNat < 254 → twoWords s b (b + 1) → Agree (tag s a) (tagOfTwo (tag s b) (tag s (b + 1))) →
    y.queue = [] → noFence s → barrierAt s (read s a) → s.team? s.here.team ≠ none → s.myTeam.drainSet = none → 0 < s.myTeam.lrec.groups →
    Does (.drain p a b) s [] [.loops, .teams, .devices] fun t => inLine s t ∧
      t.myTeam.drainSet = some { addr := (read s a).toNat, lo := read s b, hi := read s (b + 1), groups := [s.here.gid] })

/-! ### Gangs, codebooks and silts (R72, R183 to R186) -/

/-- R72, R183 to R186: `gang` sets the gang register of a sound set of members with its sequence 0; `cbld` loads 16 sound entries and the least exponent among the nonzero ones; `silt.thr` and `silt.clr` write one field of one tile. -/
def Obligations.MatrixControl : Prop :=
  (∀ (s : State) (y : Split) (p : Bool) (a b : BitVec 8) (x : Bool), s.At y → twoWords s a b x → (s.core s.cur.core).opsOf s.cur.slot = [] →
    let n := (read s b x).toNat
    let l := (List.range n).map fun i => (read s a).toNat / 32 ^ i % 32
    ((n = 1 ∨ 6 < n) → Traps (.gang p a b x) s 5 n y.pc.toNat) ∧
    ((n = 0 ∨ 2 ≤ n) → n ≤ 6 → (read s a).toNat < 32 ^ n → l.Nodup → (∀ m ∈ l, m < s.myTeam.lrec.groups) → (n = 0 ∨ s.here.gid ∈ l) →
      Does (.gang p a b x) s [] [.loops, .gang] fun t => inLine s t ∧ t.here.gang.seq = 0 ∧ t.here.gang.size.toNat = n ∧ t.here.gang.members.toNat = (read s a).toNat)) ∧
  (∀ (s : State) (y : Split) (p : Bool) (k : BitVec 3) (a : BitVec 8), s.At y → isWord s a → scratchReady s (read s a).toNat 32 → (read s a).toNat % 32 = 0 → (read s a).toNat + 32 ≤ s.scratchSize →
    (s.core s.cur.core).readsBook s.here.team k.toNat = false → s.team? s.here.team ≠ none →
    let at' (j : Nat) : Byte := s.scratchByte s.cur.core (s.myTeam.scratchBase + (read s a).toNat + j)
    let e (j : Nat) : Nat := (at' (2 * j)).toNat + 256 * (at' (2 * j + 1)).toNat
    let x (j : Nat) : Nat := e j / 128 % 256
    let nz (j : Nat) : Prop := e j % 2 ^ 15 ≠ 0
    (∀ j, j < 16 → x j ≠ 255 ∧ (x j = 0 → ¬nz j)) → (∀ i j, i < 16 → j < 16 → nz i → nz j → x i ≤ x j + 7) →
    Does (.cbld p k a) s [] [.loops, .teams] fun t => inLine s t ∧
      (tget {} t.myTeam.codebooks k.toNat).entries = (List.range 16).map (fun j => BitVec.ofNat 16 (e j)) ∧
      (∀ m, m < 16 → nz m → (∀ j, j < 16 → nz j → x m ≤ x j) → (tget {} t.myTeam.codebooks k.toNat).emin.toNat = x m) ∧
      ∀ m, m ≠ k.toNat → tget {} t.myTeam.codebooks m = tget {} s.myTeam.codebooks m) ∧
  (∀ (s : State) (y : Split) (p : Bool) (d : BitVec 7) (b : BitVec 8) (x : Bool), s.At y → d.toNat < s.here.workTiles → s.tileBusy [d.toNat] = false →
    ¬(d.toNat % 2 = 1 ∧ (s.tile d.toNat).info.tag = 2) →
    let others (t : State) : Prop := ∀ c i, ¬(c = s.cur.core ∧ i = s.here.accBase + d.toNat) → (t.core c).tile i = (s.core c).tile i
    (isWord s b x → (read s b x).toNat ≤ 0x7F80 → Does (.siltThr p d b x) s [] [.loops, .tiles] fun t => inLine s t ∧ others t ∧
      t.tile d.toNat = { s.tile d.toNat with info := { (s.tile d.toNat).info with thr := (read s b x).setWidth 16 } }) ∧
    (isWord s b x → 0x7F80 < (read s b x).toNat → Traps (.siltThr p d b x) s 5 (read s b x).toNat y.pc.toNat) ∧
    (Does (.siltClr p d) s [] [.loops, .tiles] fun t => inLine s t ∧ others t ∧
      t.tile d.toNat = { s.tile d.toNat with info := { (s.tile d.toNat).info with silt := 0 } }))

/-! ### Engine commands and spawn (R134, R172, R245, R246, R250 to R258) -/

/-- The engine command of a number (R133). -/
def Sys2Proof.Claims.engineCommand (cmd : Nat) (p : Bool) (a b : BitVec 8) (compl : BitVec 2) (var : BitVec 3) : Instr :=
  match cmd with
  | 0 => .cpy p a b compl var
  | 1 => .gth p a b compl var
  | 2 => .sct p a b compl var
  | 3 => .nput p a b compl var
  | 4 => .nget p a b compl var
  | 5 => .natom p a b compl var
  | 6 => .coll p a b compl var
  | 7 => .nswap p a b compl var
  | _ => .l1ways p b compl var

/-- The words of a descriptor at register `a`. -/
def Sys2Proof.Claims.descriptor (s : State) (a : BitVec 8) (n : Nat) : List Word := (List.range n).map fun i => (s.ctlReg (a.toNat + i)).val.lane 0

/-- What a command needs: its descriptor sound, in the budget, uniform and plain, within its limits; room in the engine's queue and, for a team-collective command, no job to join and no tile of it still in use; no release that holds the split, and no access outstanding. -/
def Sys2Proof.Claims.commandReady (s : State) (cmd : Nat) (a : BitVec 8) : Prop :=
  let n := descLen cmd
  let w := descriptor s a n
  let plan := collPlan s.myTeam.lrec s.myTeam.lin w
  s.me.queue = [] ∧ s.here.pending = [] ∧ (∀ f ∈ s.here.fences, f.holds s.cur.split = true → f.kind < 2) ∧ (s.core s.cur.core).jobs.length < 64 ∧ s.team? s.here.team ≠ none ∧
  (n ≠ 0 → a.toNat + n ≤ s.budget) ∧ (∀ i, i < n → (s.ctlReg (a.toNat + i)).val.isUniform = true ∧ plainTag (s.ctlReg (a.toNat + i)).tag = true) ∧
  badWord cmd w = none ∧ (cmd = 6 ∨ cmd = 7 → s.openJob cmd = none) ∧
  (cmd = 6 → plan.bad w = none ∧ (∀ t ∈ s.collRun plan, s.tileBusy [t] = false) ∧ s.collTiles plan = [] ∧ (plan.tiles = true ∨ plan.first + plan.s * plan.span ≤ s.scratchSize))

/-- The job that a command leaves in the engine's queue of its core. -/
def Sys2Proof.Claims.queued (s t : State) (cmd : Nat) (a : BitVec 8) (var : BitVec 3) (how : Completion) : Prop :=
  ∃ j ∈ (t.core s.cur.core).jobs, j.id = (s.core s.cur.core).jobSeq ∧ j.cmd = cmd ∧ j.var = var.toNat ∧ j.words = descriptor s a (descLen cmd) ∧
    j.compl = how ∧ j.team = s.here.team ∧ j.gid = s.here.gid ∧ j.split = s.cur.split ∧ j.error = none ∧ j.pos = 0

/-- R134, R245, R246, R250 to R258, R270: every engine command queues its job and counts it as sent. With token completion vb takes the group's next token, which then is outstanding; with barrier completion nothing but the job is recorded. -/
def Sys2Proof.Claims.engineCommandsHold : Prop :=
  ∀ (s : State) (y : Split) (p : Bool) (cmd : Nat) (a b : BitVec 8) (var : BitVec 3), s.At y → cmd ≤ 8 → (cmd = 8 → a = 0) → commandReady s cmd a →
    ((engineCommand cmd p a b 2 var).wf = true → dest s b → s.here.tokens.length < 256 →
      let tok : Word := if s.here.token = 0xFFFFFFFF then 1 else s.here.token + 1
      Does (engineCommand cmd p a b 2 var) s [b.toNat] [.loops, .tokens, .jobs, .teams] fun t => inLine s t ∧
        (t.regNow b.toNat).tag = tN32 ∧ (t.regNow b.toNat).val.isUniform = true ∧ now t b 0 = tok ∧ t.here.token = tok ∧ t.here.tokens = s.here.tokens ++ [(tok, false)] ∧
        queued s t cmd a var (.token tok) ∧ t.myTeam.snt = s.myTeam.snt + 1 ∧ t.myTeam.jobs = s.myTeam.jobs + 1) ∧
    (∀ parity : Nat, parity < 2 → (engineCommand cmd p a b (BitVec.ofNat 2 parity) var).wf = true → isWord s b → barrierAt s (read s b) →
      Does (engineCommand cmd p a b (BitVec.ofNat 2 parity) var) s [] [.loops, .jobs, .teams] fun t => inLine s t ∧
        queued s t cmd a var (.barrier (read s b).toNat parity) ∧ t.myTeam.snt = s.myTeam.snt + 1 ∧ t.myTeam.jobs = s.myTeam.jobs + 1)

/-- R250 to R254, R353: a descriptor word outside its limits raises the operand-range fault with the word; that the offset word of an `natom` which is no multiple of 4 does so at issue is a reading of the model (log 42, DEDUCED). -/
def Sys2Proof.Claims.descriptorLimitsHold : Prop :=
  ∀ (s : State) (y : Split) (p : Bool) (cmd : Nat) (a b : BitVec 8) (var : BitVec 3) (v : Nat), s.At y → cmd ≤ 5 → (engineCommand cmd p a b 2 var).wf = true → dest s b → a.toNat + descLen cmd ≤ s.budget →
    (∀ i, i < descLen cmd → (s.ctlReg (a.toNat + i)).val.isUniform = true ∧ plainTag (s.ctlReg (a.toNat + i)).tag = true) →
    let w (i : Nat) : Nat := ((s.ctlReg (a.toNat + i)).val.lane 0).toNat
    (cmd = 0 → v = w 4 ∧ (v = 0 ∨ 2 ^ 24 < v)) → (cmd = 1 ∨ cmd = 2 → v = w 5 ∧ (v = 0 ∨ 2 ^ 20 < v)) → (cmd = 3 → v = w 5 ∧ (v = 0 ∨ 2 ^ 24 < v)) →
    (cmd = 4 → v = w 3 ∧ (v = 0 ∨ 2 ^ 24 < v)) → (cmd = 5 → v = w 1 ∧ v % 4 ≠ 0) →
    Traps (engineCommand cmd p a b 2 var) s 5 v y.pc.toNat

/-- R134, R245, R246, R250 to R258, R270: every engine command queues its job and counts it as sent. With token completion vb takes the group's next token, which then is outstanding; with barrier completion nothing but the job is recorded. R250 to R254, R353: a descriptor word outside its limits raises the operand-range fault with the word; that the offset word of an `natom` which is no multiple of 4 does so at issue is a reading of the model (log 42, DEDUCED). Both hold. -/
def Obligations.CommandsAndDescriptors : Prop := engineCommandsHold ∧ descriptorLimitsHold

/-- R172: `spawn` reads the 128-byte record that its two words address, through the page that maps it, cached or not, and answers in vd for the reticle that vb names, 0xFFFFFFFF being the core's own: 2 where that reticle is not live or not in the issuing partition, 3 where the record names another partition, 1 where its queue for the record's priority is full, and then no launch queue changes; else 0, whether or not the distributor reads the queue, the record standing in the queue's next slot. A misaligned record and a reticle that no index names fault; whatever the status, the team is no longer idempotent. -/
def Obligations.Spawn : Prop :=
  ∀ (s : State) (y : Split) (p : Bool) (d a b : BitVec 8) (x : Bool), s.At y → dest s d → a.toNat < 255 → twoWords s a (a + 1) → isWord s b x →
    Agree (tagOfTwo (tag s a) (tag s (a + 1))) (tag s b) →
    let va := (read s a).toNat + (read s (a + 1)).toNat * 2 ^ 32
    let v := (read s b x).toNat
    let own := s.cur.core / 72
    let r := if v = 0xFFFFFFFF then own else v
    (64 ≤ v → v ≠ 0xFFFFFFFF → Traps (.spawn p d a b x) s 5 v y.pc.toNat) ∧
    (v < 64 ∨ v = 0xFFFFFFFF → va % 128 ≠ 0 → Traps (.spawn p d a b x) s 6 0 y.pc.toNat) ∧
    (∀ m cached, v < 64 ∨ v = 0xFFFFFFFF → va % 128 = 0 → y.queue = [] → noFence s → s.here.pending = [] → s.walkWaits s.cur.core va = false →
      s.span s.cur.core va 128 .load = .ok (m, cached) →
      (∀ z ∈ m, (cached = true ∧ (s.core s.cur.core).validBytes [z] = true) ∨ (s.homeWaits own z = false ∧ (cached = true → s.roomWaits s.cur.core (z / 128) = false))) → s.team? s.here.team ≠ none →
      let bytes := (s.loadBytes s.cur.core cached m).1
      let e := LaunchRec.ofNat (natLE bytes)
      let q := (s.ret r).lq e.prio
      let slot := q.slot 128 q.tail
      let answers (n : Nat) (more : State → Prop) : Prop :=
        Does (.spawn p d a b x) s [d.toNat] [.loops, .l1, .mem, .teams, .devices, .slices] fun t =>
          inLine s t ∧ (t.regNow d.toNat).tag = tN32 ∧ now t d 0 = BitVec.ofNat 32 n ∧ t.myTeam.idem = false ∧ more t
      let same (t : State) : Prop := ∀ k i, (t.ret k).lq i = (s.ret k).lq i
      (cached = false → (∀ z ∈ m, (s.core s.cur.core).line? (z / 128) = none ∧ (s.lineTag z).lessee = none ∧ s.isWindow z = false) → bytes = m.map s.memByte) ∧
      ((s.ret r).live = false ∨ s.partOf r ≠ s.partOf own → answers 2 same) ∧
      ((s.ret r).live = true → s.partOf r = s.partOf own → e.part ≠ s.partOf own → answers 3 same) ∧
      ((s.ret r).live = true → s.partOf r = s.partOf own → e.part = s.partOf own → 4 ≤ q.log2n → q.log2n ≤ 15 → q.count = 2 ^ q.log2n → answers 1 same) ∧
      ((s.ret r).live = true → s.partOf r = s.partOf own → e.part = s.partOf own → 4 ≤ q.log2n → q.log2n ≤ 15 → q.count < 2 ^ q.log2n →
        s.releasable s.cur.core 1 0 0xFFFFFFFF = true → s.homeWaits own slot = false → s.target slot = .dram →
        (∀ i, i < 128 → s.isWindow (slot + i) = false ∧ s.lost (slot + i) = false) →
        answers 0 fun t => (t.ret r).lq e.prio = { q with tail := q.tail + 1 } ∧ ∀ i, i < 128 → t.memByte (slot + i) = bytes.getD i 0))
namespace Sys2Proof.Claims

/-! ### Lane instructions: what they read and how they end (R31, R52, R188 to R194) -/

/-- The lane that a source is read at for lane `l`: l itself, the lane a modifier names, or with `[first]` the lowest lane of E (R52). -/
def laneOf (m : BitVec 7) (E : Mask) (l : Nat) : Nat :=
  if m = 0 then l else if m.toNat < 64 then m.toNat - 32 else (lowestLane E).getD 0

/-- The effective execution mask of a lane instruction (R188). -/
def effective (s : State) (mask : BitVec 4) : Mask := s.laneMask mask.toNat &&& s.me.active

/-- What a lane instruction reads of a source in lane `l`. -/
def lin (s : State) (E : Mask) (r : BitVec 8) (m : BitVec 7) (l : Nat) : Word := (s.laneReg r.toNat).val.lane (laneOf m E l)

/-- The 64-bit value of a pair, low word first (R193). -/
def lin2 (s : State) (E : Mask) (r : BitVec 8) (m : BitVec 7) (l : Nat) : Nat :=
  (lin s E r m l).toNat + ((s.laneReg (r.toNat + 1)).val.lane (laneOf m E l)).toNat * 2 ^ 32

/-- The tag of a lane source. -/
def ltag (s : State) (r : BitVec 8) : Tag := (s.laneReg r.toNat).tag

/-- The register counts as uniform (R46, R52). -/
def lu (s : State) (r : BitVec 8) (m : BitVec 7) : Prop := m ≠ 0 ∨ (s.laneReg r.toNat).val.isUniform = true

/-- Registers of the group's budget (R45). -/
def owned (s : State) (rs : List Nat) : Prop := ∀ r ∈ rs, r < s.budget

/-- A tag that a source listed as fmt accepts (R192): the format's own, and bits for the integer formats. -/
def fits (fmt : Nat) (t : Tag) : Prop := t.toNat = 8 * fmt ∨ (fmt ∈ [1, 2, 10, 11] ∧ t = 0)

/-- The tag of R192 for bitwise, permute and shuffle instructions. -/
def common (t u : Tag) : Tag := if t = u then t else 0

/-- The lane block at the head of the queue loses the instruction that issued (R31). -/
def popped (s t : State) : Prop :=
  t.me.pc = s.me.pc ∧ t.me.queue = match s.me.queue with
    | [] => []
    | b :: l => if b.cnt ≤ 1 then l else { off := b.off + 1, cnt := b.cnt - 1 } :: l

/-- A lane instruction issues: its block advances, `post` holds, and everything but the registers and the kinds of state given is unchanged. -/
def Issues (i : Instr) (s : State) (regs : List Nat) (parts : List Part) (post : State → Prop) : Prop :=
  Does i s regs (.queue :: parts) fun t => popped s t ∧ post t

/-- A register result under E (R188): with E empty nothing; otherwise the register carries the tag, its lanes of E meet `R` and the others keep their values. -/
def result (s t : State) (d : Nat) (E : Mask) (T : Tag) (R : Nat → Word → Prop) : Prop :=
  (E = 0 → t.regNow d = s.regNow d) ∧
  (E ≠ 0 → (t.regNow d).tag = T ∧ ∀ l, l < 32 →
    if E.getLsbD l then R l ((t.regNow d).val.lane l) else (t.regNow d).val.lane l = (s.regNow d).val.lane l)

/-- A mask result under E (R53, R197): the lanes of E take `g`, the others and every other mask stay. -/
def maskResult (s t : State) (d : BitVec 8) (E : Mask) (g : Nat → Prop) : Prop :=
  (∀ l, l < 32 → ((t.maskNow d.toNat).getLsbD l = true ↔ if E.getLsbD l then g l else (s.maskNow d.toNat).getLsbD l = true)) ∧
  ∀ k, k ≠ d.toNat → t.maskNow k = s.maskNow k

/-- The instruction takes the exception `code`, `info` in the lane stream, once nothing keeps the trap waiting: the split continues at its handler, the record naming the lane block to resume at (R351, R352). Where no core leases a line, reading the trap descriptor changes no memory, no L1 and no team. -/
def LaneTraps (i : Instr) (s : State) (code info : Nat) : Prop :=
  ∀ (y : Split) (b : Block) (l : List Block) (h : Dword), s.LaneAt i y → y.queue = b :: l → y.inHandler = false → s.trapWaits s.cur.core s.cur.slot s.cur.split = false →
    s.handler s.cur.core s.myTeam.lrec.lbase = .ok h →
    Does i s [] [.codes, .loops, .trap, .queue, .devices, .slices, .mem, .l1, .teams] fun t =>
      (unleased s → ∀ q ∈ [Part.mem, .l1, .teams], q.same s t) ∧
      t.me.inHandler = true ∧ t.me.pc = h ∧ t.me.loops = [] ∧ t.me.queue = [] ∧ t.me.savedLoops = y.loops ∧ t.me.savedCmpA = y.cmpA ∧ t.me.savedCmpB = y.cmpB ∧
      t.me.trap.cause.toNat % 2 ^ 10 = 2 ^ 8 + code ∧ t.me.trap.info = BitVec.ofNat 32 info ∧
      t.me.trap.pc.toNat + t.me.trap.pcHi.toNat * 2 ^ 32 = y.pc.toNat ∧ t.me.trap.lane = BitVec.ofNat 32 (b.off + (b.cnt - 1) * 2 ^ 17) ∧
      t.me.trap.depth = BitVec.ofNat 32 y.loops.length

/-! ### Shapes of statements -/

/-- One source. -/
def lane1 (mk : LaneOp → Instr) (takes : Nat → Tag → Prop) (T : Nat → Tag → Tag) (R : LaneOp → (Nat → Word) → Nat → Word → Prop) : Prop :=
  ∀ (s : State) (y : Split) (f : LaneOp), s.LaneAt (mk f) y → (mk f).wf = true → owned s [f.d.toNat, f.a.toNat] → takes f.fmt.toNat (ltag s f.a) →
    let E := effective s f.mask
    Issues (mk f) s [f.d.toNat] [] fun t => result s t f.d.toNat E (T f.fmt.toNat (ltag s f.a)) (R f (lin s E f.a f.moda))

/-- Two sources. -/
def lane2 (mk : LaneOp → Instr) (takes : Nat → Tag → Tag → Prop) (T : Nat → Tag → Tag → Tag) (R : Nat → Nat → (Nat → Word) → (Nat → Word) → Nat → Word → Prop) : Prop :=
  ∀ (s : State) (y : Split) (f : LaneOp), s.LaneAt (mk f) y → (mk f).wf = true → owned s [f.d.toNat, f.a.toNat, f.b.toNat] → takes f.fmt.toNat (ltag s f.a) (ltag s f.b) →
    let E := effective s f.mask
    Issues (mk f) s [f.d.toNat] [] fun t =>
      result s t f.d.toNat E (T f.fmt.toNat (ltag s f.a) (ltag s f.b)) (R f.fmt.toNat f.ext.toNat (lin s E f.a f.moda) (lin s E f.b f.modb))

/-- The immediate form of two sources: the immediate is uniform and carries the instruction's format (R136). -/
def laneI (mk : LaneImm → Instr) (takes : Nat → Tag → Prop) (T : Nat → Tag → Tag) (R : Nat → Nat → (Nat → Word) → (Nat → Word) → Nat → Word → Prop) : Prop :=
  ∀ (s : State) (y : Split) (f : LaneImm), s.LaneAt (mk f) y → (mk f).wf = true → owned s [f.d.toNat, f.a.toNat] → takes f.fmt.toNat (ltag s f.a) →
    let E := effective s f.mask
    Issues (mk f) s [f.d.toNat] [] fun t => result s t f.d.toNat E (T f.fmt.toNat (ltag s f.a)) (R f.fmt.toNat f.ext.toNat (lin s E f.a f.moda) fun _ => f.imm)

/-- Three sources. -/
def lane3 (mk : LaneOp → Instr) (takes : Nat → Tag → Tag → Tag → Prop) (T : Nat → Tag → Tag → Tag → Tag) (R : LaneOp → Word → Word → Word → Word → Prop) : Prop :=
  ∀ (s : State) (y : Split) (f : LaneOp), s.LaneAt (mk f) y → (mk f).wf = true → owned s [f.d.toNat, f.a.toNat, f.b.toNat, f.c.toNat] →
    takes f.fmt.toNat (ltag s f.a) (ltag s f.b) (ltag s f.c) →
    let E := effective s f.mask
    Issues (mk f) s [f.d.toNat] [] fun t => result s t f.d.toNat E (T f.fmt.toNat (ltag s f.a) (ltag s f.b) (ltag s f.c))
      fun l v => R f (lin s E f.a f.moda l) (lin s E f.b f.modb l) (lin s E f.c f.modc l) v

/-- Lane by lane. -/
def each (R : Nat → Nat → Word → Word → Word → Prop) (fmt ext : Nat) (A B : Nat → Word) (l : Nat) (v : Word) : Prop := R fmt ext (A l) (B l) v
def each1 (R : Nat → Nat → Word → Word → Prop) (f : LaneOp) (A : Nat → Word) (l : Nat) (v : Word) : Prop := R f.fmt.toNat f.ext.toNat (A l) v

/-! ### Integer elements (R49, R64, R194) -/

/-- The elements of a lane. -/
def elements (fmt : Nat) : Nat := if fmt = 10 ∨ fmt = 11 then 4 else 1

/-- Element `k` of a lane, as an integer. -/
def element (fmt k : Nat) (w : Word) : Int :=
  match fmt with
  | 1 => w.toInt
  | 10 => (w.extractLsb' (8 * k) 8).toInt
  | 11 => (w.extractLsb' (8 * k) 8).toNat
  | _ => w.toNat

def lowest (fmt : Nat) : Int := match fmt with
  | 1 => -2 ^ 31
  | 10 => -2 ^ 7
  | _ => 0
def highest (fmt : Nat) : Int := match fmt with
  | 1 => 2 ^ 31 - 1
  | 10 => 2 ^ 7 - 1
  | 11 => 2 ^ 8 - 1
  | _ => 2 ^ 32 - 1

/-- An exact result as its element holds it (R195): wrapped, or clamped under `.sat`. -/
def narrowed (fmt : Nat) (sat : Bool) (x e : Int) : Prop :=
  if sat then e = max (lowest fmt) (min (highest fmt) x) else (e - x) % 2 ^ (32 / elements fmt) = 0

/-- Every element is the exact operation narrowed; `.sat` is ext[0]. -/
def exactly (g : Int → Int → Int) (fmt ext : Nat) (a b v : Word) : Prop :=
  ∀ k, k < elements fmt → narrowed fmt (ext % 2 = 1) (g (element fmt k a) (element fmt k b)) (element fmt k v)

def fmtTag2 (fmt : Nat) (t u : Tag) : Prop := fits fmt t ∧ fits fmt u
def anyTags (_ : Nat) (_ _ : Tag) : Prop := True
def anyTag (_ : Nat) (_ : Tag) : Prop := True
def own (fmt : Nat) (_ _ : Tag) : Tag := BitVec.ofNat 8 (8 * fmt)
def own1 (fmt : Nat) (_ : Tag) : Tag := BitVec.ofNat 8 (8 * fmt)
def shared (_ : Nat) (t u : Tag) : Tag := common t u
def first (_ : Nat) (t _ : Tag) : Tag := t
def first1 (_ : Nat) (t : Tag) : Tag := t
def count (_ : Nat) (_ u : Tag) : Prop := plainTag u = true
def count1 (_ : Nat) (_ : Tag) : Tag := 0x10

/-- Set bits of a word. -/
def ones (w : Word) : Nat := ((List.range 32).filter fun k => w.getLsbD k).length

/-- The shifts and the rotation (R196). -/
def shiftedLeft (_ _ : Nat) (a b v : Word) : Prop := v = if 32 ≤ b.toNat then 0 else a <<< b.toNat
def shiftedRight (_ _ : Nat) (a b v : Word) : Prop := v = if 32 ≤ b.toNat then 0 else a >>> b.toNat
def shiftedSigned (_ _ : Nat) (a b v : Word) : Prop := ∀ k, k < 32 → v.getLsbD k = a.getLsbD (min 31 (k + b.toNat))
def rotated (_ _ : Nat) (a b v : Word) : Prop := ∀ k, k < 32 → v.getLsbD ((k + b.toNat) % 32) = a.getLsbD k

end Sys2Proof.Claims

/-! ### Lane arithmetic and bits (R188 to R196) -/

/-- R188, R192, R194, R195: `add`, `sub`, `mul`, `mulhi`, `min` and `max`, in register and immediate form, `mad`, `abs` and `neg`, on whole lanes and on four bytes: exact results, wrapped or under `.sat` clamped, in the lanes of E. -/
def Obligations.LaneIntegers : Prop :=
  (lane2 .add fmtTag2 own (each (exactly (· + ·))) ∧ laneI .addImmediate fits own1 (each (exactly (· + ·)))) ∧
  (lane2 .sub fmtTag2 own (each (exactly (· - ·))) ∧ laneI .subImmediate fits own1 (each (exactly (· - ·)))) ∧
  (lane2 .mul fmtTag2 own (each fun _ _ a b v => v = a * b) ∧ laneI .mulImmediate fits own1 (each fun _ _ a b v => v = a * b)) ∧
  lane2 .mulhi fmtTag2 own (each fun fmt _ a b v => v = if fmt = 1 then BitVec.ofInt 32 (a.toInt * b.toInt / 2 ^ 32) else BitVec.ofNat 32 (a.toNat * b.toNat / 2 ^ 32)) ∧
  lane3 .mad (fun fmt t u w => fits fmt t ∧ fits fmt u ∧ fits fmt w) (fun fmt _ _ _ => BitVec.ofNat 8 (8 * fmt)) (fun _ a b c v => v = a * b + c) ∧
  (lane2 .minL fmtTag2 own (each fun fmt _ a b v => ∀ k, k < elements fmt → element fmt k v = min (element fmt k a) (element fmt k b)) ∧
    laneI .minImmediate fits own1 (each fun fmt _ a b v => ∀ k, k < elements fmt → element fmt k v = min (element fmt k a) (element fmt k b))) ∧
  (lane2 .maxL fmtTag2 own (each fun fmt _ a b v => ∀ k, k < elements fmt → element fmt k v = max (element fmt k a) (element fmt k b)) ∧
    laneI .maxImmediate fits own1 (each fun fmt _ a b v => ∀ k, k < elements fmt → element fmt k v = max (element fmt k a) (element fmt k b))) ∧
  lane1 .absL fits own1 (each1 fun fmt ext a v => exactly (fun x _ => if x < 0 then -x else x) fmt ext a 0 v) ∧
  lane1 .neg fits own1 (each1 fun fmt ext a v => exactly (fun x _ => -x) fmt ext a 0 v)

/-- R188, R192, R196: bitwise operations, shifts, rotations, counts and bit fields, in register and immediate form, with their result tags. -/
def Obligations.LaneBits : Prop :=
  (lane2 .andL anyTags shared (each fun _ _ a b v => v = a &&& b) ∧ laneI .andImmediate anyTag first1 (each fun _ _ a b v => v = a &&& b)) ∧
  (lane2 .orL anyTags shared (each fun _ _ a b v => v = a ||| b) ∧ laneI .orImmediate anyTag first1 (each fun _ _ a b v => v = a ||| b)) ∧
  (lane2 .xor anyTags shared (each fun _ _ a b v => v = a ^^^ b) ∧ laneI .xorImmediate anyTag first1 (each fun _ _ a b v => v = a ^^^ b)) ∧
  lane1 .notL anyTag first1 (each1 fun _ _ a v => v = ~~~a) ∧
  (lane2 .shl count first (each shiftedLeft) ∧ laneI .shlImmediate anyTag first1 (each shiftedLeft)) ∧
  (lane2 .shr count first (each shiftedRight) ∧ laneI .shrImmediate anyTag first1 (each shiftedRight)) ∧
  (lane2 .sra count first (each shiftedSigned) ∧ laneI .sraImmediate anyTag first1 (each shiftedSigned)) ∧
  (lane2 .rot count first (each rotated) ∧ laneI .rotImmediate anyTag first1 (each rotated)) ∧
  lane1 .popc anyTag count1 (each1 fun _ _ a v => v.toNat = ones a) ∧
  lane1 .clz anyTag count1 (each1 fun _ _ a v => v.toNat ≤ 32 ∧ (∀ k, k < v.toNat → a.getLsbD (31 - k) = false) ∧ (v.toNat < 32 → a.getLsbD (31 - v.toNat) = true)) ∧
  lane1 .brev anyTag first1 (each1 fun _ _ a v => ∀ k, k < 32 → v.getLsbD k = a.getLsbD (31 - k)) ∧
  lane3 .bfe (fun _ _ u w => plainTag u = true ∧ plainTag w = true) (fun fmt _ _ _ => BitVec.ofNat 8 (8 * fmt)) (fun f a b c v =>
    let pos := b.toNat % 32
    let w := min (c.toNat % 64) (32 - pos)
    ∀ k, k < 32 → v.getLsbD k = if k < w then a.getLsbD (pos + k) else (decide (f.fmt = 1) && decide (0 < w) && a.getLsbD (pos + w - 1))) ∧
  lane3 .bfi (fun _ _ _ w => plainTag w = true) (fun fmt _ _ _ => BitVec.ofNat 8 (8 * fmt)) (fun _ a b c v =>
    let pos := c.toNat % 32
    let w := min (c.toNat / 256 % 64) (32 - pos)
    ∀ k, k < 32 → v.getLsbD k = if pos ≤ k ∧ k < pos + w then a.getLsbD (k - pos) else b.getLsbD k)

/-! ### Compares, masks and selection (R53, R197, R199 to R201) -/

/-- R53, R131, R197, R199 to R201: `cmp` in both forms, the mask operations and `ballot` write the lanes of E of their mask; `sel` chooses by a mask, of pairs too, whatever tag their even registers carry; `mcount` and `mprefix` count the set lanes of a mask within E; a compare into m0 raises the register-range fault. -/
def Sys2Proof.Claims.compareSelectAndMasksHold : Prop :=
  (∀ (s : State) (y : Split) (f : LaneOp), s.LaneAt (.cmp f) y → (Instr.cmp f).wf = true → f.d ≠ 0 → owned s [f.a.toNat, f.b.toNat] →
    fits f.fmt.toNat (ltag s f.a) → fits f.fmt.toNat (ltag s f.b) →
    let E := effective s f.mask
    Issues (.cmp f) s [] [.masks] fun t => maskResult s t f.d E fun l => condition f.ext.toNat (lin s E f.a f.moda l) (lin s E f.b f.modb l)) ∧
  (∀ (s : State) (y : Split) (f : LaneImm), s.LaneAt (.cmpImmediate f) y → (Instr.cmpImmediate f).wf = true → f.d ≠ 0 → owned s [f.a.toNat] → fits f.fmt.toNat (ltag s f.a) →
    let E := effective s f.mask
    Issues (.cmpImmediate f) s [] [.masks] fun t => maskResult s t f.d E fun l => condition f.ext.toNat (lin s E f.a f.moda l) f.imm) ∧
  (∀ (s : State) (f : LaneOp), (Instr.cmp f).wf = true → f.d = 0 → LaneTraps (.cmp f) s 2 0) ∧
  (∀ (s : State) (y : Split) (f : LaneOp), (Instr.mand f).wf = true → f.d ≠ 0 →
    let E := effective s f.mask
    let a (l : Nat) : Bool := (s.laneMask f.a.toNat).getLsbD l
    let b (l : Nat) : Bool := (s.laneMask f.b.toNat).getLsbD l
    (s.LaneAt (.mand f) y → Issues (.mand f) s [] [.masks] fun t => maskResult s t f.d E fun l => a l = true ∧ b l = true) ∧
    (s.LaneAt (.mor f) y → Issues (.mor f) s [] [.masks] fun t => maskResult s t f.d E fun l => a l = true ∨ b l = true) ∧
    (s.LaneAt (.mxor f) y → Issues (.mxor f) s [] [.masks] fun t => maskResult s t f.d E fun l => a l ≠ b l) ∧
    (s.LaneAt (.mnot f) y → f.b = 0 → Issues (.mnot f) s [] [.masks] fun t => maskResult s t f.d E fun l => a l = false)) ∧
  (∀ (s : State) (y : Split) (f : LaneOp), s.LaneAt (.ballot f) y → (Instr.ballot f).wf = true → f.d ≠ 0 → owned s [f.a.toNat] →
    let E := effective s f.mask
    Issues (.ballot f) s [] [.masks] fun t => maskResult s t f.d E fun l => lin s E f.a f.moda l ≠ 0) ∧
  (∀ (s : State) (y : Split) (f : LaneOp), s.LaneAt (.sel f) y → (Instr.sel f).wf = true → f.fmt = 0 → owned s [f.d.toNat, f.a.toNat, f.b.toNat] →
    let E := effective s f.mask
    Issues (.sel f) s [f.d.toNat] [] fun t => result s t f.d.toNat E (common (ltag s f.a) (ltag s f.b)) fun l v =>
      v = if (s.laneMask f.c.toNat).getLsbD l then lin s E f.a f.moda l else lin s E f.b f.modb l) ∧
  (∀ (s : State) (y : Split) (f : LaneOp), s.LaneAt (.sel f) y → (Instr.sel f).wf = true → f.fmt = 4 → owned s [f.d.toNat + 1, f.a.toNat + 1, f.b.toNat + 1] →
    (∀ r ∈ [f.a, f.b], (s.laneReg (r.toNat + 1)).tag = tF64hi) →
    let E := effective s f.mask
    let c (l : Nat) : Bool := (s.laneMask f.c.toNat).getLsbD l
    Issues (.sel f) s [f.d.toNat, f.d.toNat + 1] [] fun t =>
      result s t f.d.toNat E tF64lo (fun l v => v.toNat = (if c l then lin2 s E f.a f.moda l else lin2 s E f.b f.modb l) % 2 ^ 32) ∧
      result s t (f.d.toNat + 1) E tF64hi (fun l v => v.toNat = (if c l then lin2 s E f.a f.moda l else lin2 s E f.b f.modb l) / 2 ^ 32)) ∧
  (∀ (s : State) (y : Split) (f : LaneOp), (Instr.mcount f).wf = true → owned s [f.d.toNat] →
    let E := effective s f.mask
    let m := s.laneMask f.a.toNat &&& E
    (s.LaneAt (.mcount f) y → Issues (.mcount f) s [f.d.toNat] [] fun t => result s t f.d.toNat E tN32 fun _ v => v.toNat = ones m) ∧
    (s.LaneAt (.mprefix f) y → Issues (.mprefix f) s [f.d.toNat] [] fun t => result s t f.d.toNat E tN32 fun l v =>
      v.toNat = ((List.range l).filter fun k => m.getLsbD k).length))

/-! ### Movement between lanes (R202 to R206) -/

/-- Byte `k` of a word. -/
def Sys2Proof.Claims.byte (w : Word) (k : Nat) : Nat := w.toNat / 256 ^ k % 256

/-- R202 to R205: shuffles read lanes of their source, those outside E included; `shcat` reads the 256-byte stream of vb before va, and records shape 0 where both its sources count as uniform (a reading of the model, log 18); `prm` picks bytes and `lut16` looks them up in the first four lanes of vb. -/
def Obligations.LaneMovement : Prop :=
  lane2 .shfl count shared (fun _ _ A B l v => v = A ((B l).toNat % 32)) ∧
  lane1 .shup anyTag first1 (fun f A l v => v = A (if f.ext.toNat ≤ l then l - f.ext.toNat else l)) ∧
  lane1 .shdn anyTag first1 (fun f A l v => v = A (if l + f.ext.toNat ≤ 31 then l + f.ext.toNat else l)) ∧
  lane1 .shxor anyTag first1 (fun f A l v => v = A (l ^^^ f.ext.toNat)) ∧
  (∀ (s : State) (y : Split) (f : LaneOp), s.LaneAt (.shcat f) y → (Instr.shcat f).wf = true → owned s [f.d.toNat, f.a.toNat, f.b.toNat] →
    ¬(lu s f.a f.moda ∧ lu s f.b f.modb) →
    let E := effective s f.mask
    let stream (k : Nat) : Nat := if k < 128 then byte (lin s E f.b f.modb (k / 4)) (k % 4) else byte (lin s E f.a f.moda ((k - 128) / 4)) (k % 4)
    Issues (.shcat f) s [f.d.toNat] [] fun t => result s t f.d.toNat E (common (ltag s f.a) (ltag s f.b)) fun l v =>
      ∀ k, k < 4 → byte v k = stream (128 + 4 * l + k - f.ext.toNat)) ∧
  (∀ (s : State) (f : LaneOp), (Instr.shcat f).wf = true → owned s [f.d.toNat, f.a.toNat, f.b.toNat] → lu s f.a f.moda → lu s f.b f.modb → LaneTraps (.shcat f) s 3 0) ∧
  lane3 .prm (fun _ _ _ _ => True) (fun _ t u w => if t = u ∧ u = w then t else 0) (fun _ a b c v => ∀ k, k < 4 →
    byte v k = if 128 ≤ byte c k then 0 else if byte c k % 8 < 4 then byte a (byte c k % 8) else byte b (byte c k % 8 - 4)) ∧
  lane2 .lut16 anyTags shared (fun _ ext A B l v => ∀ k, k < 4 →
    let i := if ext = 1 then byte (A l) k / 16 else byte (A l) k % 16
    byte v k = byte (B (i / 4)) (i % 4))

/-- The operations of `lscan` and `lred` on integers (R206): sum, min, max, and, or, exclusive or. -/
def Sys2Proof.Claims.combined (fmt op : Nat) (a b : Word) : Word :=
  match op with
  | 0 => a + b
  | 1 => if element fmt 0 a ≤ element fmt 0 b then a else b
  | 2 => if element fmt 0 a ≤ element fmt 0 b then b else a
  | 3 => a &&& b
  | 4 => a ||| b
  | _ => a ^^^ b

/-- The values of a list combined, the first as it stands. -/
def Sys2Proof.Claims.foldAll (g : Word → Word → Word) : List Word → Word
  | [] => 0
  | a :: l => l.foldl g a

/-- R206: on integers `lscan` gives each lane of E the combination of the lanes of E up to it, and `lred` every lane of E that of all of them; on f32 values both complete with their format's tag. -/
def Obligations.ScansAndReductions : Prop :=
  ∀ (s : State) (y : Split) (f : LaneOp), (Instr.lscan f).wf = true → owned s [f.d.toNat, f.a.toNat] → fits f.fmt.toNat (ltag s f.a) →
    let E := effective s f.mask
    let A := lin s E f.a f.moda
    let upTo (n : Nat) : Word := foldAll (combined f.fmt.toNat f.ext.toNat) (((List.range n).filter fun k => E.getLsbD k).map A)
    (s.LaneAt (.lscan f) y → Issues (.lscan f) s [f.d.toNat] [] fun t =>
      result s t f.d.toNat E (BitVec.ofNat 8 (8 * f.fmt.toNat)) fun l v => f.fmt = 3 ∨ v = upTo (l + 1)) ∧
    (s.LaneAt (.lred f) y → Issues (.lred f) s [f.d.toNat] [] fun t =>
      result s t f.d.toNat E (BitVec.ofNat 8 (8 * f.fmt.toNat)) fun _ v => f.fmt = 3 ∨ v = upTo 32)

/-! ### Floating point (R65, R69, R194, R198, R207 to R211) -/

namespace Sys2Proof.Claims

/-- The floating format of a fmt (R64). -/
def form (fmt : Nat) : FFmt := match fmt with
  | 4 => f64F
  | 6 => bf16F
  | 7 => f16F
  | _ => f32F

/-- The elements of a lane, each 64, 32 or 16 bits. -/
def width (fmt : Nat) : Nat := if fmt = 4 then 64 else if fmt = 6 ∨ fmt = 7 then 16 else 32
def parts (fmt : Nat) : Nat := if fmt = 6 ∨ fmt = 7 then 2 else 1

/-- Element `k` of a lane's datum. -/
def part (fmt k v : Nat) : Nat := v / 2 ^ (width fmt * k) % 2 ^ width fmt

/-- A source's datum in a lane: a pair under .f64. -/
def datum (s : State) (fmt : Nat) (E : Mask) (r : BitVec 8) (m : BitVec 7) (l : Nat) : Nat :=
  if fmt = 4 then lin2 s E r m l else (lin s E r m l).toNat

/-- A floating source carries its format, the odd register of a pair f64hi (R193). -/
def isF (s : State) (fmt : Nat) (r : BitVec 8) : Prop :=
  ltag s r = BitVec.ofNat 8 (8 * fmt) ∧ (fmt = 4 → (s.laneReg (r.toNat + 1)).tag = 0x28)

/-- The registers of data fields. -/
def pairs (fmt : Nat) (rs : List (BitVec 8)) : List Nat := rs.map fun r => r.toNat + if fmt = 4 then 1 else 0

/-- A datum written under E: each element of each lane of E meets `R`. -/
def fresult (s t : State) (fmt : Nat) (d : BitVec 8) (E : Mask) (R : Nat → Nat → Nat → Prop) : Prop :=
  (E = 0 → t.regNow d.toNat = s.regNow d.toNat ∧ t.regNow (d.toNat + 1) = s.regNow (d.toNat + 1)) ∧
  (E ≠ 0 → (t.regNow d.toNat).tag = BitVec.ofNat 8 (8 * fmt) ∧ (fmt = 4 → (t.regNow (d.toNat + 1)).tag = 0x28) ∧ ∀ l, l < 32 →
    let lo (u : State) : Nat := ((u.regNow d.toNat).val.lane l).toNat
    let hi (u : State) : Nat := if fmt = 4 then ((u.regNow (d.toNat + 1)).val.lane l).toNat else 0
    if E.getLsbD l then ∀ k, k < parts fmt → R l k (part fmt k (lo t + hi t * 2 ^ 32)) else lo t = lo s ∧ hi t = hi s)

def dests (fmt : Nat) (d : BitVec 8) : List Nat := if fmt = 4 then [d.toNat, d.toNat + 1] else [d.toNat]

/-- A floating instruction of one source: `R` of format, rounding, source element and result element. -/
def float1 (mk : LaneOp → Instr) (R : Nat → Nat → Nat → Nat → Prop) : Prop :=
  ∀ (s : State) (y : Split) (f : LaneOp), s.LaneAt (mk f) y → (mk f).wf = true → owned s (pairs f.fmt.toNat [f.d, f.a]) → isF s f.fmt.toNat f.a →
    let E := effective s f.mask
    let n := f.fmt.toNat
    Issues (mk f) s (dests n f.d) [] fun t => fresult s t n f.d E fun l k v => R n f.rnd.toNat (part n k (datum s n E f.a f.moda l)) v

/-- One of two sources, in register and immediate form. -/
def float2 (mk : LaneOp → Instr) (R : Nat → Nat → Nat → Nat → Nat → Prop) : Prop :=
  ∀ (s : State) (y : Split) (f : LaneOp), s.LaneAt (mk f) y → (mk f).wf = true → owned s (pairs f.fmt.toNat [f.d, f.a, f.b]) →
    isF s f.fmt.toNat f.a → isF s f.fmt.toNat f.b →
    let E := effective s f.mask
    let n := f.fmt.toNat
    Issues (mk f) s (dests n f.d) [] fun t => fresult s t n f.d E fun l k v => R n f.rnd.toNat (part n k (datum s n E f.a f.moda l)) (part n k (datum s n E f.b f.modb l)) v
def floatI (mk : LaneImm → Instr) (R : Nat → Nat → Nat → Nat → Nat → Prop) : Prop :=
  ∀ (s : State) (y : Split) (f : LaneImm), s.LaneAt (mk f) y → (mk f).wf = true → owned s [f.d.toNat, f.a.toNat] → isF s f.fmt.toNat f.a →
    let E := effective s f.mask
    let n := f.fmt.toNat
    Issues (mk f) s [f.d.toNat] [] fun t => fresult s t n f.d E fun l k v => R n f.rnd.toNat (part n k (datum s n E f.a f.moda l)) (part n k f.imm.toNat) v

/-- An exact operation on values, rounded once by round_M (R69, R207). -/
def rounds1 (g : Nat → FVal → FVal) (fmt rnd a v : Nat) : Prop := v = roundF (form fmt) rnd (g rnd ((form fmt).decode a))
def rounds2 (g : Nat → FVal → FVal → FVal) (fmt rnd a b v : Nat) : Prop := v = roundF (form fmt) rnd (g rnd ((form fmt).decode a) ((form fmt).decode b))

/-- The lesser of two floating patterns (R208): −0 below +0, a NaN gives the other, two the canonical NaN. -/
def lesser (F : FFmt) (a b : Nat) : Nat :=
  let x := F.decode a
  let y := F.decode b
  if x.isNan = true ∧ y.isNan = true then F.qnan else if x.isNan = true then b else if y.isNan = true then a
  else if fltV x y = true ∨ (feqV x y = true ∧ x.sign = true ∧ y.sign = false) then a else b
def greater (F : FFmt) (a b : Nat) : Nat :=
  let x := F.decode a
  let y := F.decode b
  if x.isNan = true ∧ y.isNan = true then F.qnan else if x.isNan = true then b else if y.isNan = true then a
  else if fltV x y = true ∨ (feqV x y = true ∧ x.sign = true ∧ y.sign = false) then b else a

/-- The conditions of `fcmp` (R198). -/
def fcondition (code : Nat) (x y : FVal) : Prop :=
  let un := x.isNan = true ∨ y.isNan = true
  match code with
  | 0 => ¬un ∧ feqV x y = true
  | 1 => un ∨ feqV x y = false
  | 2 => ¬un ∧ fltV x y = true
  | 3 => ¬un ∧ (fltV x y = true ∨ feqV x y = true)
  | 4 => ¬un ∧ fltV y x = true
  | 5 => ¬un ∧ (fltV y x = true ∨ feqV x y = true)
  | 6 => un
  | _ => ¬un

end Sys2Proof.Claims

/-- R194, R207 to R209: the floating instructions round their exact result once, element by element, with a pair under .f64; `fmin` and `fmax` choose an operand. -/
def Obligations.LaneFloats : Prop :=
  (float2 .fadd (rounds2 fun m x y => faddV m x y) ∧ floatI .faddImmediate (rounds2 fun m x y => faddV m x y)) ∧
  (float2 .fsub (rounds2 fun m x y => faddV m x y.negate) ∧ floatI .fsubImmediate (rounds2 fun m x y => faddV m x y.negate)) ∧
  (float2 .fmul (rounds2 fun _ x y => fmulV x y) ∧ floatI .fmulImmediate (rounds2 fun _ x y => fmulV x y)) ∧
  (∀ (s : State) (y : Split) (f : LaneOp), s.LaneAt (.fma f) y → (Instr.fma f).wf = true → owned s (pairs f.fmt.toNat [f.d, f.a, f.b, f.c]) →
    isF s f.fmt.toNat f.a → isF s f.fmt.toNat f.b → isF s f.fmt.toNat f.c →
    let E := effective s f.mask
    let n := f.fmt.toNat
    let x (r : BitVec 8) (m : BitVec 7) (l k : Nat) : FVal := (form n).decode (part n k (datum s n E r m l))
    Issues (.fma f) s (dests n f.d) [] fun t => fresult s t n f.d E fun l k v =>
      v = roundF (form n) f.rnd.toNat (faddV f.rnd.toNat (fmulV (x f.a f.moda l k) (x f.b f.modb l k)) (x f.c f.modc l k))) ∧
  (float2 .fmin (fun n _ a b v => v = lesser (form n) a b) ∧ floatI .fminImmediate (fun n _ a b v => v = lesser (form n) a b)) ∧
  (float2 .fmax (fun n _ a b v => v = greater (form n) a b) ∧ floatI .fmaxImmediate (fun n _ a b v => v = greater (form n) a b)) ∧
  float1 .fabs (rounds1 fun _ x => x.mag) ∧ float1 .fneg (rounds1 fun _ x => x.negate) ∧
  float1 .fsqrt (rounds1 fun _ x => fsqrtV x) ∧ float2 .fdiv (rounds2 fun _ x y => fdivV x y) ∧ float1 .frnd (rounds1 fun m x => frndV m x) ∧
  (∀ (s : State) (y : Split) (f : LaneOp), s.LaneAt (.fscale f) y → (Instr.fscale f).wf = true → owned s (f.b.toNat :: pairs f.fmt.toNat [f.d, f.a]) →
    isF s f.fmt.toNat f.a → (ltag s f.b = 0x08 ∨ ltag s f.b = 0) →
    let E := effective s f.mask
    let n := f.fmt.toNat
    Issues (.fscale f) s (dests n f.d) [] fun t => fresult s t n f.d E fun l k v =>
      v = roundF (form n) f.rnd.toNat (fscaleV ((form n).decode (part n k (datum s n E f.a f.moda l))) (lin s E f.b f.modb l).toInt))

/-- R65, R69, R198, R211: `fcmp` in both forms and `fcls` write their mask by the values and classes of their sources; a source without the format raises the tag-mismatch fault, whose `trap.info` is the tag word of the register itself, modified or not (a reading of the model, log 18). -/
def Sys2Proof.Claims.floatComparesHold : Prop :=
  (∀ (s : State) (y : Split) (f : LaneOp), s.LaneAt (.fcmp f) y → (Instr.fcmp f).wf = true → f.d ≠ 0 → owned s (pairs f.fmt.toNat [f.a, f.b]) →
    isF s f.fmt.toNat f.a → isF s f.fmt.toNat f.b →
    let E := effective s f.mask
    let n := f.fmt.toNat
    Issues (.fcmp f) s [] [.masks] fun t => maskResult s t f.d E fun l =>
      fcondition f.ext.toNat ((form n).decode (datum s n E f.a f.moda l)) ((form n).decode (datum s n E f.b f.modb l))) ∧
  (∀ (s : State) (y : Split) (f : LaneImm), s.LaneAt (.fcmpImmediate f) y → (Instr.fcmpImmediate f).wf = true → f.d ≠ 0 → owned s [f.a.toNat] → isF s f.fmt.toNat f.a →
    let E := effective s f.mask
    let n := f.fmt.toNat
    Issues (.fcmpImmediate f) s [] [.masks] fun t => maskResult s t f.d E fun l =>
      fcondition f.ext.toNat ((form n).decode (datum s n E f.a f.moda l)) ((form n).decode f.imm.toNat)) ∧
  (∀ (s : State) (y : Split) (f : LaneOp), s.LaneAt (.fcls f) y → (Instr.fcls f).wf = true → f.d ≠ 0 → owned s (pairs f.fmt.toNat [f.a]) → isF s f.fmt.toNat f.a →
    let E := effective s f.mask
    let n := f.fmt.toNat
    Issues (.fcls f) s [] [.masks] fun t => maskResult s t f.d E fun l => f.ext.getLsbD (match (form n).decode (datum s n E f.a f.moda l) with
      | .nan => 0
      | .inf neg => if neg then 1 else 8
      | .fin neg m _ => if m = 0 then (if neg then 4 else 5) else if m < 2 ^ (form n).mw then (if neg then 3 else 6) else (if neg then 2 else 7)) = true) ∧
  (∀ (s : State) (f : LaneOp) (i : Instr), i ∈ [Instr.fadd f, .fsub f, .fmul f, .fmin f, .fmax f] → i.wf = true → owned s (pairs f.fmt.toNat [f.d, f.a, f.b]) →
    effective s f.mask ≠ 0 → ltag s f.a ≠ BitVec.ofNat 8 (8 * f.fmt.toNat) → LaneTraps i s 4 ((s.laneReg f.a.toNat).val.shape * 256 + (ltag s f.a).toNat))

/-- R53, R131, R197, R199 to R201: `cmp` in both forms, the mask operations and `ballot` write the lanes of E of their mask; `sel` chooses by a mask, of pairs too, whatever tag their even registers carry; `mcount` and `mprefix` count the set lanes of a mask within E; a compare into m0 raises the register-range fault. R65, R69, R198, R211: `fcmp` in both forms and `fcls` write their mask by the values and classes of their sources; a source without the format raises the tag-mismatch fault, whose `trap.info` is the tag word of the register itself, modified or not (a reading of the model, log 18). Both hold. -/
def Obligations.Compares : Prop := compareSelectAndMasksHold ∧ floatComparesHold

/-- R69: a value that a format holds rounds to its own pattern in every mode, and back; a magnitude beyond the largest finite one becomes the infinity to nearest, or the largest finite value where the format has none or the mode points toward zero. -/
def Obligations.Rounding : Prop :=
  ∀ F ∈ [f64F, f32F, f16F, bf16F, e4m3F, e2m1F],
    (∀ (mode p : Nat), p < 2 ^ F.bits → F.decode p ≠ .nan → roundF F mode (F.decode p) = p) ∧
    (∀ (neg : Bool) (m : Nat) (e : Int), m ≠ 0 → (F.bias : Int) + 1 < (m.log2 : Int) + e →
      let sign := if neg then 2 ^ (F.ew + F.mw) else 0
      roundF F 0 (.fin neg m e) = sign + (if F.inf then (2 ^ F.ew - 1) * 2 ^ F.mw else F.maxMag) ∧ roundF F 1 (.fin neg m e) = sign + F.maxMag)

namespace Sys2Proof.Claims

/-- An approximating instruction completes on every f32 source, and its result in each lane satisfies a predicate of the value that the source holds. -/
def approximates (mk : LaneOp → Instr) (P : FVal → Nat → Prop) : Prop :=
  float1 mk fun _ _ a v => v < 2 ^ 32 ∧ (f32F.decode a = .nan → v = 0x7FC00000) ∧ P (f32F.decode a) v

/-- The numerator and denominator of ± m × 2^e. -/
def num (neg : Bool) (m : Nat) (e : Int) : Int := (if neg then -1 else 1) * (m : Int) * 2 ^ e.toNat
def den (e : Int) : Int := 2 ^ (-e).toNat

/-- The f32 zero and infinity of a sign, and 2^k for −149 ≤ k ≤ 127. -/
def zeroOf (neg : Bool) : Nat := if neg then 0x80000000 else 0
def infOf (neg : Bool) : Nat := if neg then 0xFF800000 else 0x7F800000
def powerOf (k : Int) : Nat := if -126 ≤ k then (k + 127).toNat * 2 ^ 23 else 2 ^ (k + 149).toNat

/-- 0, +1, +0 and −1 at four successive quarter turns. -/
def quarter (q : Int) : Nat := if q % 4 = 1 then 0x3F800000 else if q % 4 = 3 then 0xBF800000 else 0

end Sys2Proof.Claims

/-- R209, R210: the approximating instructions complete on every f32 source, in every lane of E. NaN gives the canonical NaN in all six. `frcp` of a zero is the infinity and of an infinity the zero of its sign; `frsq` of a zero is the infinity of its sign, of +infinity +0 and of any other negative source NaN; `fexp2` of −infinity is +0, of +infinity and of 128 or more +infinity, of −150 or less +0, and of an integer from −149 to 127 the power itself; `flog2` of a zero is −infinity, of +infinity +infinity, of 1 +0 and of any other negative source NaN; `fsin` and `fcos` of an infinity are NaN and at every multiple of a quarter turn exactly 0, +1 or −1, the zeros +0 but that `fsin` of a zero is that zero. The limits of error between these points are not stated here. -/
def Obligations.Approximations : Prop :=
  approximates .frcp (fun x v => match x with
    | .nan => True
    | .inf n => v = zeroOf n
    | .fin n m _ => m = 0 → v = infOf n) ∧
  approximates .frsq (fun x v => match x with
    | .nan => True
    | .inf n => v = if n then 0x7FC00000 else 0
    | .fin n m _ => (m = 0 → v = infOf n) ∧ (m ≠ 0 → n = true → v = 0x7FC00000)) ∧
  approximates .fexp2 (fun x v => match x with
    | .nan => True
    | .inf n => v = if n then 0 else 0x7F800000
    | .fin n m e => (128 * den e ≤ num n m e → v = 0x7F800000) ∧ (num n m e ≤ -150 * den e → v = 0) ∧
      ∀ k : Int, -149 ≤ k → k ≤ 127 → num n m e = k * den e → v = powerOf k) ∧
  approximates .flog2 (fun x v => match x with
    | .nan => True
    | .inf n => v = if n then 0x7FC00000 else 0x7F800000
    | .fin n m e => (m = 0 → v = 0xFF800000) ∧ (m ≠ 0 → n = true → v = 0x7FC00000) ∧ (num n m e = den e → v = 0)) ∧
  approximates .fsin (fun x v => match x with
    | .nan => True
    | .inf _ => v = 0x7FC00000
    | .fin n m e => (m = 0 → v = zeroOf n) ∧ ∀ q : Int, m ≠ 0 → 4 * num n m e = q * den e → v = quarter q) ∧
  approximates .fcos (fun x v => match x with
    | .nan => True
    | .inf _ => v = 0x7FC00000
    | .fin n m e => ∀ q : Int, 4 * num n m e = q * den e → v = quarter (q + 1))

/-! ### Conversions, tags and moves (R212 to R218) -/

namespace Sys2Proof.Claims

/-- The value of an element by its format code (R64, R65). -/
def value (fmt v : Nat) : FVal :=
  if fmt = 1 ∨ fmt = 2 ∨ fmt = 10 ∨ fmt = 11 then
    let i : Int := if fmt = 1 then (BitVec.ofNat 32 v).toInt else if fmt = 10 then (BitVec.ofNat 8 v).toInt else if fmt = 11 then ((v % 256 : Nat) : Int) else ((v % 2 ^ 32 : Nat) : Int)
    .fin (decide (i < 0)) i.natAbs 0
  else (floatFmt fmt).decode v

/-- round_M into any format (R69). -/
def rounded (fmt mode : Nat) (x : FVal) : Nat :=
  if fmt = 1 ∨ fmt = 2 ∨ fmt = 10 ∨ fmt = 11 then
    (roundInt mode (lowest fmt) (highest fmt) x % (2 ^ (32 / elements fmt) : Nat)).toNat
  else roundF (floatFmt fmt) mode x

/-- Bits [n·k + n − 1 : n·k] of a word. -/
def slice (n k : Nat) (w : Word) : Nat := w.toNat / 2 ^ (n * k) % 2 ^ n

end Sys2Proof.Claims

/-- R212: `cvt` reads its source format from the tag, a pair for f64lo, and rounds each value into the format of the instruction; a source of another format raises the tag-mismatch fault. Two readings of the model: that fault's `trap.info` is the tag word of the register itself, modified or not (log 18), and a pair may begin at an odd register (log 20). -/
def Obligations.Conversion : Prop :=
  (∀ (s : State) (y : Split) (f : LaneOp) (src : Nat), s.LaneAt (.cvt f) y → (Instr.cvt f).wf = true → src ∈ [1, 2, 3] → owned s (f.a.toNat :: pairs f.fmt.toNat [f.d]) →
    ltag s f.a = BitVec.ofNat 8 (8 * src) →
    let E := effective s f.mask
    let n := f.fmt.toNat
    Issues (.cvt f) s (dests n f.d) [] fun t => fresult s t n f.d E fun l _ v => v = rounded n f.rnd.toNat (value src (lin s E f.a f.moda l).toNat)) ∧
  (∀ (s : State) (y : Split) (f : LaneOp), s.LaneAt (.cvt f) y → (Instr.cvt f).wf = true → owned s ((f.a.toNat + 1) :: pairs f.fmt.toNat [f.d]) → isF s 4 f.a →
    let E := effective s f.mask
    let n := f.fmt.toNat
    Issues (.cvt f) s (dests n f.d) [] fun t => fresult s t n f.d E fun l _ v => v = rounded n f.rnd.toNat (f64F.decode (lin2 s E f.a f.moda l))) ∧
  (∀ (s : State) (f : LaneOp), (Instr.cvt f).wf = true → owned s (f.a.toNat :: pairs f.fmt.toNat [f.d]) → effective s f.mask ≠ 0 →
    (ltag s f.a).toNat / 8 ∉ [1, 2, 3, 4] → LaneTraps (.cvt f) s 4 ((s.laneReg f.a.toNat).val.shape * 256 + (ltag s f.a).toNat))

/-- R213, R214: `pack` rounds elements of two sources into one lane, the byte formats keeping two bytes of vd; `unpack` widens elements of one. -/
def Obligations.PackAndUnpack : Prop :=
  (∀ (s : State) (y : Split) (f : LaneOp), s.LaneAt (.pack f) y → (Instr.pack f).wf = true → owned s [f.d.toNat, f.a.toNat, f.b.toNat] →
    let n := f.fmt.toNat
    let E := effective s f.mask
    let a := lin s E f.a f.moda
    let b := lin s E f.b f.modb
    let gives (R : Nat → Word → Prop) : Prop := Issues (.pack f) s [f.d.toNat] [] fun t => result s t f.d.toNat E (BitVec.ofNat 8 (8 * n)) R
    ((n = 6 ∨ n = 7) → ltag s f.a = tF32 → ltag s f.b = tF32 → gives fun l v =>
      slice 16 0 v = rounded n f.rnd.toNat (f32F.decode (a l).toNat) ∧ slice 16 1 v = rounded n f.rnd.toNat (f32F.decode (b l).toNat)) ∧
    (∀ h, h ∈ [6, 7] → n = 8 → ltag s f.a = BitVec.ofNat 8 (8 * h) → ltag s f.b = ltag s f.a → gives fun l v => ∀ k, k < 2 →
      slice 8 k v = rounded 8 f.rnd.toNat (value h (slice 16 k (a l))) ∧ slice 8 (2 + k) v = rounded 8 f.rnd.toNat (value h (slice 16 k (b l)))) ∧
    (n = 9 → ltag s f.a = 0x40 → ltag s f.b = 0x40 → gives fun l v => ∀ k, k < 4 →
      slice 4 k v = rounded 9 f.rnd.toNat (value 8 (slice 8 k (a l))) ∧ slice 4 (4 + k) v = rounded 9 f.rnd.toNat (value 8 (slice 8 k (b l)))) ∧
    ((n = 10 ∨ n = 11) → ltag s f.a = BitVec.ofNat 8 (8 * (n - 9)) → ltag s f.b = ltag s f.a → (ltag s f.d = 0 ∨ ltag s f.d = BitVec.ofNat 8 (8 * n)) → gives fun l v =>
      let h := f.ext.toNat
      let old := (s.laneReg f.d.toNat).val.lane l
      slice 8 (2 * h) v = rounded n 0 (value (n - 9) (a l).toNat) ∧ slice 8 (2 * h + 1) v = rounded n 0 (value (n - 9) (b l).toNat) ∧
      slice 8 (2 - 2 * h) v = slice 8 (2 - 2 * h) old ∧ slice 8 (3 - 2 * h) v = slice 8 (3 - 2 * h) old)) ∧
  (∀ (s : State) (y : Split) (f : LaneOp), s.LaneAt (.unpack f) y → (Instr.unpack f).wf = true → owned s [f.d.toNat, f.a.toNat] →
    let n := f.fmt.toNat
    let e := f.ext.toNat
    let E := effective s f.mask
    let a := lin s E f.a f.moda
    let gives (R : Nat → Word → Prop) : Prop := Issues (.unpack f) s [f.d.toNat] [] fun t => result s t f.d.toNat E (BitVec.ofNat 8 (8 * n)) R
    (∀ h, h ∈ [6, 7] → n = 3 → e < 2 → ltag s f.a = BitVec.ofNat 8 (8 * h) → gives fun l v => v.toNat = roundF f32F 0 (value h (slice 16 e (a l)))) ∧
    (n = 3 → ltag s f.a = 0x68 → gives fun l v =>
      let x := slice 8 e (a l)
      v.toNat = if x = 255 then 0x7FC00000 else roundF f32F 0 (.fin false 1 ((x : Int) - 127))) ∧
    (n = 7 → ltag s f.a = 0x40 → gives fun l v => ∀ k, k < 2 → slice 16 k v = roundF f16F 0 (value 8 (slice 8 (2 * e + k) (a l)))) ∧
    (n = 8 → ltag s f.a = 0x48 → gives fun l v => ∀ k, k < 4 → slice 8 k v = roundF e4m3F 0 (value 9 (slice 4 (4 * e + k) (a l)))) ∧
    (n = 1 → ltag s f.a = 0x50 → gives fun l v => v.toInt = ((a l).extractLsb' (8 * e) 8).toInt) ∧
    (n = 2 → ltag s f.a = 0x58 → gives fun l v => v.toNat = slice 8 e (a l)))

/-- R51, R215 to R218: `cbdec` looks two codes up in the codebook that the tag names; `tag` writes a tag and no value, whatever E holds, and refuses a slot that its format has not, `trap.info` then holding the tag word of vd, its only register (a reading of the model, log 18); `tget` reads the tag word; `mov` copies a register of any tag, a pair whose odd register carries f64hi, or an immediate. -/
def Obligations.TagsAndMoves : Prop :=
  (∀ (s : State) (y : Split) (f : LaneOp), s.LaneAt (.cbdec f) y → (Instr.cbdec f).wf = true → owned s [f.d.toNat, f.a.toNat] → (ltag s f.a).toNat / 8 = 12 →
    let E := effective s f.mask
    let book := tget {} s.myTeam.codebooks ((ltag s f.a).toNat % 8)
    Issues (.cbdec f) s [f.d.toNat] [] fun t => result s t f.d.toNat E 0x30 fun l v => ∀ k, k < 2 →
      let x := (book.entries.getD (slice 4 (2 * f.ext.toNat + k) (lin s E f.a f.moda l)) 0).toNat
      slice 16 k v = if x % 2 ^ 15 = 0 then 0 else x) ∧
  (∀ (s : State) (y : Split) (f : LaneOp), s.LaneAt (.tag f) y → (Instr.tag f).wf = true →
    (f.fmt ≠ 4 → (f.fmt = 12 ∨ f.ext = 0) → owned s [f.d.toNat] → Issues (.tag f) s [f.d.toNat] [] fun t =>
      t.regNow f.d.toNat = { s.regNow f.d.toNat with tag := BitVec.ofNat 8 (8 * f.fmt.toNat + f.ext.toNat) }) ∧
    (f.fmt = 4 → f.ext = 0 → owned s [f.d.toNat + 1] → Issues (.tag f) s [f.d.toNat, f.d.toNat + 1] [] fun t =>
      t.regNow f.d.toNat = { s.regNow f.d.toNat with tag := 0x20 } ∧ t.regNow (f.d.toNat + 1) = { s.regNow (f.d.toNat + 1) with tag := 0x28 })) ∧
  (∀ (s : State) (f : LaneOp), (Instr.tag f).wf = true → f.fmt ≠ 4 → f.fmt ≠ 12 → f.ext ≠ 0 → owned s [f.d.toNat] →
    LaneTraps (.tag f) s 4 ((s.laneReg f.d.toNat).val.shape * 256 + (ltag s f.d).toNat)) ∧
  (∀ (s : State) (y : Split) (f : LaneOp), s.LaneAt (.tget f) y → (Instr.tget f).wf = true → owned s [f.d.toNat, f.a.toNat] →
    let E := effective s f.mask
    Issues (.tget f) s [f.d.toNat] [] fun t => result s t f.d.toNat E tN32 fun _ v => v.toNat = (s.laneReg f.a.toNat).val.shape * 256 + (ltag s f.a).toNat) ∧
  (∀ (s : State) (y : Split) (f : LaneOp), s.LaneAt (.mov f) y → (Instr.mov f).wf = true →
    let E := effective s f.mask
    (f.fmt = 0 → owned s [f.d.toNat, f.a.toNat] → Issues (.mov f) s [f.d.toNat] [] fun t => result s t f.d.toNat E (ltag s f.a) fun l v => v = lin s E f.a f.moda l) ∧
    (f.fmt = 4 → owned s [f.d.toNat + 1, f.a.toNat + 1] → (s.laneReg (f.a.toNat + 1)).tag = tF64hi → Issues (.mov f) s [f.d.toNat, f.d.toNat + 1] [] fun t =>
      fresult s t 4 f.d E fun l _ v => v = lin2 s E f.a f.moda l)) ∧
  (∀ (s : State) (y : Split) (f : LaneImm), s.LaneAt (.movImmediate f) y → (Instr.movImmediate f).wf = true → owned s [f.d.toNat] →
    Issues (.movImmediate f) s [f.d.toNat] [] fun t => result s t f.d.toNat (effective s f.mask) (BitVec.ofNat 8 (8 * f.fmt.toNat)) fun _ v => v = f.imm)

/-- R47, for sources without a lane modifier: under a full mask `add`, `sub`, `mul`, `min` and `max` of uniform sources give a uniform result, `add` and `sub` without `.sat` of affine and uniform registers an affine one, and `mov` of one register the shape of a uniform or affine source; under any other mask the result of each is general. -/
def Obligations.ResultShapes : Prop :=
  (∀ (s : State) (y : Split) (f : LaneOp), effective s f.mask ≠ 0 → f.moda = 0 → f.modb = 0 → owned s [f.d.toNat, f.a.toNat, f.b.toNat] →
    fits f.fmt.toNat (ltag s f.a) → fits f.fmt.toNat (ltag s f.b) →
    let full := effective s f.mask = 0xFFFFFFFF
    let a := (s.laneReg f.a.toNat).val
    let b := (s.laneReg f.b.toNat).val
    let shape (t : State) : Nat := (t.regNow f.d.toNat).val.shape
    (∀ i ∈ [Instr.add f, .sub f, .mul f, .minL f, .maxL f], i.wf = true → s.LaneAt i y → ∃ t, exec i s = .next t ∧
      (full → a.isUniform = true → b.isUniform = true → shape t = 0) ∧ (¬full → shape t = 2)) ∧
    ((Instr.add f).wf = true → s.LaneAt (.add f) y → full → (f.fmt = 1 ∨ f.fmt = 2) → f.ext = 0 → ∃ t, exec (.add f) s = .next t ∧
      ((a.isAffine = true ∧ (b.isAffine = true ∨ b.isUniform = true)) ∨ (a.isUniform = true ∧ b.isAffine = true) → shape t = 1)) ∧
    ((Instr.sub f).wf = true → s.LaneAt (.sub f) y → full → (f.fmt = 1 ∨ f.fmt = 2) → f.ext = 0 → ∃ t, exec (.sub f) s = .next t ∧
      (a.isAffine = true → b.isUniform = true → shape t = 1))) ∧
  (∀ (s : State) (y : Split) (f : LaneOp), s.LaneAt (.mov f) y → (Instr.mov f).wf = true → f.fmt = 0 → effective s f.mask ≠ 0 → f.moda = 0 → owned s [f.d.toNat, f.a.toNat] →
    let a := (s.laneReg f.a.toNat).val
    ∃ t, exec (.mov f) s = .next t ∧ (t.regNow f.d.toNat).val.shape =
      if effective s f.mask = 0xFFFFFFFF ∧ (a.isUniform = true ∨ a.isAffine = true) then a.shape else 2)

/-! ### Memory instructions of the lane stream (R219 to R233) -/

namespace Sys2Proof.Claims

/-- The offset of a lane (R219): the immediate, or b, read unsigned where the register carries n32. -/
def offset (s : State) (E : Mask) (f : LaneOp) (imm : Option Word) (l : Nat) : Int :=
  match imm with
  | some w => w.toInt
  | none => if ltag s f.b = tN32 then ((lin s E f.b f.modb l).toNat : Int) else (lin s E f.b f.modb l).toInt

/-- The address of a lane (R219): a pair in the virtual space, one register in the scratchpad space. -/
def address (s : State) (virt : Bool) (f : LaneOp) (imm : Option Word) (l : Nat) : Nat :=
  let E := effective s f.mask
  if virt then (((lin2 s E f.a f.moda l : Nat) + offset s E f imm l) % 2 ^ 64).toNat
  else (((lin s E f.a f.moda l).toNat + offset s E f imm l) % 2 ^ 32).toNat

/-- The address sources are in the budget and carry bits, i32 or n32. -/
def addressing (s : State) (virt : Bool) (f : LaneOp) (imm : Option Word) : Prop :=
  owned s (if virt then [f.a.toNat, f.a.toNat + 1] else [f.a.toNat]) ∧ (imm = none → s.Owns f.b) ∧
  plainTag (ltag s f.a) = true ∧ (virt = true → plainTag (s.laneReg (f.a.toNat + 1)).tag = true) ∧ (imm = none → plainTag (ltag s f.b) = true)

/-- The bytes at `B` are those of an element of `n` bytes at `a` (R219 to R221). -/
def reaches (s : State) (virt : Bool) (a n : Nat) (u : Use) (B : List Nat) : Prop :=
  if virt then ∃ cached, s.span s.cur.core a n u = .ok (B, cached)
  else a + n ≤ s.scratchSize ∧ B = (List.range n).map (s.myTeam.scratchBase + a + ·)

/-- The bytes of one element (R223). -/
def elementSize (f : LaneOp) : Nat := if f.fmt = 4 then 8 else if f.ext = 1 then 1 else if f.ext = 2 then 2 else 4

/-- A source of a store carries the tag that the format needs (R223, R224). -/
def stored (s : State) (fmt : Nat) (r : BitVec 8) : Prop := fmt = 0 ∨ (fmt ≠ 4 ∧ fits fmt (ltag s r)) ∨ (fmt = 4 ∧ isF s 4 r)

/-- Nothing keeps an access of `n` bytes in each lane of E from issuing: no fence holds the split (R114), its translations can be had, with room in the walker and table entries that wait for no slot (R89, R103), and no matrix operation still has to read a panel that holds its bytes (R238). -/
def mayIssue (s : State) (virt : Bool) (f : LaneOp) (imm : Option Word) (n : Nat) : Prop :=
  let l := (active (effective s f.mask)).map (address s virt f imm)
  noFence s ∧ (virt = true → s.walksWait s.cur.core (spanned n l) = false) ∧
  (virt = false → s.panelBusy (l.flatMap fun a => regRun (s.myTeam.scratchBase + a) n) = false)

/-- One access has joined those of the group, of the lanes of E with the bytes `B`, all of them still to be performed; none has where E is empty. -/
def joins (s t : State) (E : Mask) (B : Nat → List Nat) (P : Access → Prop) : Prop :=
  (E = 0 → t.here.pending = s.here.pending) ∧
  (E ≠ 0 → ∃ a, t.here.pending = s.here.pending ++ [a] ∧ a.split = s.cur.split ∧ a.mask = E ∧ a.tile = none ∧ a.run = 0 ∧ a.before = [] ∧
    a.lanes.map (fun x => (x.lane, x.bytes)) = (active E).map (fun l => (l, B l)) ∧ a.got = [] ∧ (∀ x ∈ a.lanes, x.left = List.range x.bytes.length) ∧ P a)

/-- A load issues. -/
def loadIssues (i : Instr) (virt : Bool) (f : LaneOp) (imm : Option Word) : Prop :=
  ∀ (s : State) (y : Split) (B : Nat → List Nat), s.LaneAt i y → i.wf = true → owned s [f.d.toNat, f.d.toNat + if f.fmt = 4 then 1 else 0] → addressing s virt f imm → mayIssue s virt f imm (elementSize f) →
    let E := effective s f.mask
    (∀ l, l < 32 → E.getLsbD l = true → reaches s virt (address s virt f imm l) (elementSize f) .load (B l)) →
    Issues i s [] [.pending] fun t => joins s t E B fun a =>
      a.kind = .load ∧ a.scratch = !virt ∧ a.dst = f.d.toNat ∧ a.size = elementSize f ∧ a.signed = decide (f.fmt = 1) ∧ a.tag = BitVec.ofNat 8 (8 * f.fmt.toNat) ∧ a.due = []

/-- A store issues; one to the virtual space ends the team's idempotence (R43). -/
def storeIssues (i : Instr) (virt : Bool) (f : LaneOp) (imm : Option Word) (r : BitVec 8) : Prop :=
  ∀ (s : State) (y : Split) (B : Nat → List Nat), s.LaneAt i y → i.wf = true → owned s (pairs f.fmt.toNat [r]) → addressing s virt f imm → mayIssue s virt f imm (elementSize f) → stored s f.fmt.toNat r →
    s.team? s.here.team ≠ none →
    let E := effective s f.mask
    (∀ l, l < 32 → E.getLsbD l = true → reaches s virt (address s virt f imm l) (elementSize f) .store (B l)) →
    Issues i s [] [.pending, .teams] fun t => (if virt = true ∧ E ≠ 0 then t.myTeam.idem = false else t.teams = s.teams) ∧
      joins s t E B fun a => a.kind = .store ∧ a.scratch = !virt ∧ a.size = elementSize f ∧ a.due = [] ∧
        ∀ x ∈ a.lanes, x.val.toNat + x.valHi.toNat * 2 ^ 32 = datum s f.fmt.toNat E r f.modc x.lane

/-- The byte that a prefetch of a lane names: its translation and permission allow it, and its page is cached (R226). -/
def prefetched (s : State) (va z : Nat) : Prop := ∃ pte, s.translate s.cur.core va = .ok z pte ∧ pte.getLsbD 3 = true ∧ pte.toNat / 256 % 4 = 0

/-- A prefetch issues: of the lanes of E that name a byte, and none where no lane does. No fence holds it. -/
def prefetchIssues (i : Instr) (f : LaneOp) (imm : Option Word) : Prop :=
  ∀ (s : State) (y : Split), s.LaneAt i y → i.wf = true → addressing s true f imm →
    s.walksWait s.cur.core (spanned 1 ((active (effective s f.mask)).map (address s true f imm))) = false →
    let names (l z : Nat) : Prop := l < 32 ∧ (effective s f.mask).getLsbD l = true ∧ prefetched s (address s true f imm l) z
    Issues i s [] [.pending] fun t =>
      ((∀ l z, ¬names l z) → t.here.pending = s.here.pending) ∧
      ((∃ l z, names l z) → ∃ a, t.here.pending = s.here.pending ++ [a] ∧ a.kind = .prefetch ∧ a.split = s.cur.split ∧ a.op = f.ext.toNat % 2 ∧ a.dst = 256 ∧
        ∀ l z, (∃ x ∈ a.lanes, x.lane = l ∧ x.bytes = [z] ∧ x.left = [0]) ↔ names l z)

end Sys2Proof.Claims

/-- R193, R219, R222, R223, R226: `ld`, `lds` and their immediate forms issue an access of the lanes of E at their addresses and write no register yet; `prf` and its immediate form issue one of the lanes whose bytes may be fetched, raise no fault and write nothing. -/
def Sys2Proof.Claims.loadsHold : Prop :=
  (∀ f, loadIssues (.ld f) true f none ∧ loadIssues (.lds f) false f none) ∧
  (∀ f : LaneImm, loadIssues (.ldImmediate f) true (immOp f) (some f.imm) ∧ loadIssues (.ldsImmediate f) false (immOp f) (some f.imm)) ∧
  (∀ f, prefetchIssues (.prf f) f none) ∧ (∀ f : LaneImm, prefetchIssues (.prfImmediate f) (immOp f) (some f.imm))

/-- R43, R193, R219, R222, R224: `st`, `sts` and their immediate forms issue an access that carries the data of each lane of E. -/
def Sys2Proof.Claims.storesHold : Prop :=
  (∀ f, storeIssues (.st f) true f none f.c ∧ storeIssues (.sts f) false f none f.c) ∧
  (∀ f : LaneImm, storeIssues (.stImmediate f) true (immOp f) (some f.imm) f.d ∧ storeIssues (.stsImmediate f) false (immOp f) (some f.imm) f.d)

/-- R193, R219, R222, R223, R226: `ld`, `lds` and their immediate forms issue an access of the lanes of E at their addresses and write no register yet; `prf` and its immediate form issue one of the lanes whose bytes may be fetched, raise no fault and write nothing. R43, R193, R219, R222, R224: `st`, `sts` and their immediate forms issue an access that carries the data of each lane of E. Both hold. -/
def Obligations.LoadsAndStores : Prop := loadsHold ∧ storesHold

namespace Sys2Proof.Claims

/-- The loads and stores of a space in register and immediate form, each with its operands, its immediate, its use and the register that it writes or whose data it stores. -/
def faultForms (virt : Bool) (f : LaneOp) (g : LaneImm) : List (Instr × LaneOp × Option Word × Use × BitVec 8) :=
  if virt then [(.ld f, f, none, .load, f.d), (.st f, f, none, .store, f.c), (.ldImmediate g, immOp g, some g.imm, .load, g.d), (.stImmediate g, immOp g, some g.imm, .store, g.d)]
  else [(.lds f, f, none, .load, f.d), (.sts f, f, none, .store, f.c), (.ldsImmediate g, immOp g, some g.imm, .load, g.d), (.stsImmediate g, immOp g, some g.imm, .store, g.d)]

end Sys2Proof.Claims

/-- R85, R219, R220, R221, R353: loads and stores, in register and immediate form, before any lane has an effect: an address of a lane of E beyond bit 56 takes the translation fault with level 4 where every lower lane of E reaches its bytes; a scratchpad access of which a lane reaches at or beyond the allocation takes the scratchpad-range fault; an address register of another format takes the tag-mismatch fault, whose `trap.info` is the tag word of the register itself, modified or not (a reading of the model, log 18). -/
def Obligations.AddressFaults : Prop :=
  ∀ (s : State) (f : LaneOp) (g : LaneImm) (virt : Bool) (i : Instr) (o : LaneOp) (imm : Option Word) (u : Use) (r : BitVec 8), (i, o, imm, u, r) ∈ faultForms virt f g → i.wf = true → owned s (pairs o.fmt.toNat [r]) →
    let E := effective s o.mask
    (addressing s virt o imm → noFence s → (u = .store → stored s o.fmt.toNat r) → ∀ l, l < 32 → E.getLsbD l = true →
      (virt = true → s.walksWait s.cur.core (spanned (elementSize o) ((active E).map (address s true o imm))) = false → 2 ^ 57 ≤ address s true o imm l →
        (∀ m, m < l → E.getLsbD m = true → ∃ B, reaches s true (address s true o imm m) (elementSize o) u B) → LaneTraps i s 8 4) ∧
      (virt = false → s.scratchSize < address s false o imm l + elementSize o → LaneTraps i s 7 s.scratchSize)) ∧
    (owned s (if virt then [o.a.toNat, o.a.toNat + 1] else [o.a.toNat]) → (imm = none → s.Owns o.b) → E ≠ 0 → plainTag (ltag s o.a) = false →
      LaneTraps i s 4 ((s.laneReg o.a.toNat).val.shape * 256 + (ltag s o.a).toNat))

/-! ### Accesses performed (R103, R106, R107, R122, R222 to R224, R229 to R233) -/

namespace Sys2Proof.Claims

/-- A byte that a core reads and writes where it lives (R96, R103): in DRAM of this wafer that it reaches now, its line in no own L1 and not lost. -/
def atHome (s : State) (z : Nat) : Prop :=
  s.target z = .dram ∧ faWafer z = s.wafer ∧ (s.core s.cur.core).line? (z / 128) = none ∧ s.lost (lineBase (z / 128)) = false ∧ s.slotWaits z = false ∧ s.reaches (s.cur.core / 72) z = true

/-- The byte that a program finds at a place. -/
def byteAt (s : State) (scratch : Bool) (z : Nat) : Byte := if scratch then s.scratchByte s.cur.core z else s.memByte z

/-- The access at the index of the step is ready: of the split of the step, behind no access that shares a byte with it, its parts one for each lane; it fills no tile. -/
def performs (s : State) (a : Access) : Prop :=
  s.here.pending[s.cur.idx]? = some a ∧ a.split = s.cur.split ∧ a.tile = none ∧ rising 0 a.got = true ∧ (a.lanes.map LaneAcc.lane).Nodup ∧
  (∀ b ∈ s.here.pending.take s.cur.idx, b.scratch = a.scratch → ∀ z ∈ a.touched, z ∉ b.touched) ∧
  a.size ∈ [1, 2, 4, 8] ∧ ∀ x ∈ a.lanes, x.lane < 32 ∧ x.bytes.length = a.size ∧ x.bytes.Nodup ∧ x.left.Nodup ∧ ∀ i ∈ x.left, i < a.size

/-- The access is of the scratchpad, or of bytes at home on uncached pages while no line is leased. -/
def plainly (s : State) (a : Access) : Prop := a.scratch = true ∨ unleased s ∧ ∀ x ∈ a.lanes, x.cached = false ∧ ∀ z ∈ x.bytes, atHome s z

/-- The place of byte `i` of a lane's part. -/
def place (x : LaneAcc) (i : Nat) : Nat := x.bytes.getD i 0

/-- The step may perform the bytes `k` of lane `x`: what is left of it, which shares no byte with what is left of a lower lane; all of it where it is naturally aligned and of 4 bytes or less, and otherwise all of it or one byte (R106, R122). -/
def mayPerform (a : Access) (x : LaneAcc) (k : List Nat) : Prop :=
  x.left ≠ [] ∧ (∀ m ∈ a.lanes, m.lane < x.lane → ∀ i ∈ x.left, ∀ j ∈ m.left, place x i ≠ place m j) ∧
  (a.size ≤ 4 ∧ x.va % a.size = 0 → k = x.left)

/-- The lanes of an access after the bytes `k` of lane `x`. -/
def remaining (a : Access) (x : LaneAcc) (k : List Nat) : List LaneAcc :=
  a.lanes.map fun l => if l.lane = x.lane then { l with left := l.left.filter fun i => !k.contains i } else l

/-- Byte `i` that an access holds for lane `n` after it has read `b` at the bytes `k` of lane `x`. -/
def heldByte (a : Access) (x : LaneAcc) (k : List Nat) (b : Nat → Byte) (n i : Nat) : Byte :=
  if n = x.lane ∧ i ∈ k then b i else (aget a.got (8 * n + i)).getD 0

/-- Nothing of the access is left after the bytes `k` of lane `x`. -/
def isLast (a : Access) (x : LaneAcc) (k : List Nat) : Prop := ∀ l ∈ remaining a x k, l.left = []

/-- The access of the step after the bytes `k` of lane `x`, which read `b`: it is gone where nothing is left, and else waits on with what it holds, no register written. -/
def partDone (s t : State) (a : Access) (x : LaneAcc) (k : List Nat) (b : Nat → Byte) : Prop :=
  (isLast a x k → t.here.pending = s.here.pending.eraseIdx s.cur.idx) ∧
  (¬isLast a x k → SameRegs [] s t ∧ ∃ r, t.here.pending[s.cur.idx]? = some r ∧ t.here.pending = setAt s.here.pending s.cur.idx r ∧
    r = { a with lanes := remaining a x k, got := r.got } ∧ ∀ n i, n < 32 → i < 8 → (aget r.got (8 * n + i)).getD 0 = heldByte a x k b n i)

/-- One part of the access of the step is performed; `post` says more of it. -/
def partStep (s t : State) (a : Access) (b : LaneAcc → Nat → Byte) (post : LaneAcc → List Nat → Prop) : Prop :=
  ∃ x ∈ a.lanes, ∃ k ∈ x.left :: x.left.map fun i => [i], mayPerform a x k ∧ partDone s t a x k (b x) ∧ post x k

/-- What a load or an atomic writes to its register once its last byte is read (R222, R223): `V` by lane. -/
def loadResult (s t : State) (a : Access) (V : Nat → Nat) : Prop :=
  (a.size ≠ 8 → result s t a.dst a.mask a.tag fun l v => v.toNat = V l) ∧
  (a.size = 8 → result s t a.dst a.mask tF64lo (fun l v => v.toNat = V l % 2 ^ 32) ∧ result s t (a.dst + 1) a.mask tF64hi fun l v => v.toNat = V l / 2 ^ 32)

/-- The number that a load makes of its bytes (R223). -/
def extended (size : Nat) (sgn : Bool) (v : Nat) : Nat :=
  if sgn = true ∧ size < 4 ∧ 2 ^ (8 * size - 1) ≤ v then v + 2 ^ 32 - 2 ^ (8 * size) else v

/-- The data of a store, low word first. -/
def stores (x : LaneAcc) : Nat := x.val.toNat + x.valHi.toNat * 2 ^ 32

/-- Every byte but those at `l`, and every other core's scratchpad, reads as before. -/
def elsewhere (s t : State) (scratch : Bool) (l : List Nat) : Prop :=
  (∀ z, z ∉ l → byteAt t scratch z = byteAt s scratch z) ∧ (scratch = true → ∀ c z, c ≠ s.cur.core → t.scratchByte c z = s.scratchByte c z)

end Sys2Proof.Claims

/-- R106, R107, R122, R222 to R224: an access is performed part by part, the lanes in any order but where two name one byte: a load holds the bytes that it finds and writes its register in the lanes of its mask with the last of them, little-endian and extended; a store leaves its data in the bytes performed, and no other byte changes. Through the L1 a load reads a valid copy and a store leaves its bytes there, memory untouched. Where no byte of it can be had from its home, nothing happens. -/
def Obligations.AccessesPerformed : Prop :=
  ∀ (s : State) (y : Split) (a : Access), s.At y → performs s a →
    (a.kind = .load → (∃ x ∈ a.lanes, x.left ≠ []) → a.dst + (if a.size = 8 then 1 else 0) < 256 → plainly s a →
      Does .accessPerformed s (if a.size = 8 then [a.dst, a.dst + 1] else [a.dst]) (.pending :: if a.scratch then [] else [.slices]) fun t =>
        partStep s t a (fun x i => byteAt s a.scratch (place x i)) fun x k =>
          let V (l : Nat) : Nat := extended a.size a.signed (natLE ((List.range a.size).map (heldByte a x k (fun i => byteAt s a.scratch (place x i)) l)))
          isLast a x k → (a.uniform = true → a.mask = 0xFFFFFFFF ∧ ∀ l, l < 32 → V l = V 0) → loadResult s t a V) ∧
    (a.kind = .store → (∃ x ∈ a.lanes, x.left ≠ []) → plainly s a →
      Does .accessPerformed s [] (.pending :: if a.scratch then [.scratch] else [.mem, .teams, .slices]) fun t =>
        partStep s t a (fun x i => (aget a.got (8 * x.lane + i)).getD 0) fun x k =>
          elsewhere s t a.scratch (k.map (place x)) ∧ ∀ i ∈ k, (byteAt t a.scratch (place x i)).toNat = stores x / 256 ^ i % 256) ∧
    (∀ (x : LaneAcc) (L : L1Line), a.scratch = false → a.lanes = [x] → x.cached = true → x.left = List.range a.size → a.size ≤ 4 → x.va % a.size = 0 →
      (∀ z ∈ x.bytes, z / 128 = L.line) → (s.core s.cur.core).line? L.line = some L →
      (a.kind = .load → a.uniform = false → a.dst < 256 → (∀ z ∈ x.bytes, L.valid.getLsbD (z % 128) = true) →
        Does .accessPerformed s [a.dst] [.pending, .l1] fun t => t.here.pending = s.here.pending.eraseIdx s.cur.idx ∧
          (a.mask = BitVec.ofNat 32 (2 ^ x.lane) → a.got = [] → result s t a.dst a.mask a.tag fun _ v => v.toNat = extended a.size a.signed (natLE (x.bytes.map fun z => tget 0 L.data (z % 128))))) ∧
      (a.kind = .store → Does .accessPerformed s [] [.pending, .l1] fun t => t.here.pending = s.here.pending.eraseIdx s.cur.idx ∧ ∃ M, (t.core s.cur.core).line? L.line = some M ∧ M.lease = L.lease ∧
        (∀ i, i < 128 → L.line * 128 + i ∉ x.bytes → tget 0 M.data i = tget 0 L.data i ∧ M.valid.getLsbD i = L.valid.getLsbD i ∧ M.dirty.getLsbD i = L.dirty.getLsbD i) ∧
        ∀ (i z : Nat), x.bytes[i]? = some z → (tget 0 M.data (z % 128)).toNat = stores x / 256 ^ i % 256 ∧ M.valid.getLsbD (z % 128) = true ∧ M.dirty.getLsbD (z % 128) = true)) ∧
    (a.scratch = false → a.kind = .load ∨ a.kind = .store → (∀ x ∈ a.lanes, x.cached = false ∧ ∀ i ∈ x.left, s.homeWaits (s.cur.core / 72) (place x i) = true) → exec .accessPerformed s = .next s)

namespace Sys2Proof.Claims

/-- The new value of an atomic (R229) on integers and bits. -/
def updated (op fmt : Nat) (old c cmp : Word) : Word :=
  match op with
  | 0 => old + c
  | 1 => if element fmt 0 old ≤ element fmt 0 c then old else c
  | 2 => if element fmt 0 old ≤ element fmt 0 c then c else old
  | 3 => old &&& c
  | 4 => old ||| c
  | 5 => old ^^^ c
  | 6 => c
  | _ => if old = cmp then c else old

/-- The operands of an atomic: the data and its registers in the budget, tags that fmt takes, base and length uniform and plain where an ordering is given (R229, R230); a release attached to it can be met now (R116). -/
def atomicReady (s : State) (red : Bool) (f : LaneOp) : Prop :=
  let fmt := f.fmt.toNat
  let kind := f.ext.toNat / 64 % 4
  let takes (t : Tag) : Prop := fmt = 0 ∨ fits fmt t
  (red = false → s.Owns f.d) ∧ owned s (if kind = 0 then [f.c.toNat] else [f.c.toNat, f.c.toNat + 1, f.c.toNat + 2]) ∧ takes (ltag s f.c) ∧ (f.ext.toNat % 16 = 7 → takes (ltag s f.d)) ∧
  (kind ≠ 0 → ∀ k ∈ [1, 2], (s.laneReg (f.c.toNat + k)).val.isUniform = true ∧ plainTag (s.laneReg (f.c.toNat + k)).tag = true) ∧
  (2 ≤ kind → s.releaseWaits (f.ext.toNat / 16 % 4) ((s.laneReg (f.c.toNat + 1)).val.lane 0) ((s.laneReg (f.c.toNat + 2)).val.lane 0) = false)

/-- An atomic issues: `red` returns nothing. An attached acquire follows it as a fence that waits for its value; with nothing outstanding before it, that of a reduction, or of an empty mask, is met at once. -/
def atomicIssues (i : Instr) (virt red : Bool) (f : LaneOp) : Prop :=
  ∀ (s : State) (y : Split) (B : Nat → List Nat), s.LaneAt i y → i.wf = true → addressing s virt f none → mayIssue s virt f none 4 → atomicReady s red f → s.team? s.here.team ≠ none →
    let E := effective s f.mask
    let e := f.ext.toNat
    let acq := e / 64 % 2 = 1
    let waits := E ≠ 0 ∧ red = false
    let fence : FenceWait := { id := 1, split := s.cur.split, scope := e / 16 % 4, kind := 1, base := (s.laneReg (f.c.toNat + 1)).val.lane 0, len := (s.laneReg (f.c.toNat + 2)).val.lane 0 }
    (∀ l, l < 32 → E.getLsbD l = true → address s virt f none l % 4 = 0 ∧ reaches s virt (address s virt f none l) 4 .atomic (B l)) →
    Issues i s [] ([.pending, .teams] ++ (if acq then [.fences] else []) ++ if e / 64 % 4 = 0 then [] else [.l1, .mem, .slices]) fun t =>
      (acq → s.here.pending = [] → s.here.fences = [] → t.here.fences = if waits then [fence] else []) ∧
      (¬acq ∨ s.here.pending = [] → joins s t E B fun a => a.due = (if acq ∧ waits ∧ s.here.fences = [] then [1] else a.due) ∧ (¬acq → a.due = []) ∧
      a.kind = (if red then .reduce else .atomic) ∧ a.scratch = !virt ∧ a.op = e % 16 ∧ a.fmt = f.fmt.toNat ∧ a.scope = e / 16 % 4 ∧ (red = false → a.dst = f.d.toNat) ∧ a.tag = BitVec.ofNat 8 (8 * f.fmt.toNat) ∧
      ∀ x ∈ a.lanes, x.val = lin s E f.c 0 x.lane ∧ x.cmp = lin s E f.d 0 x.lane)

end Sys2Proof.Claims

/-- R116, R219, R220, R229, R230, R232, R233: `atom`, `ared` and `atoms` issue with their operands and the orderings attached to them, and a misaligned address of a lane of E takes the misalignment fault. -/
def Obligations.AtomicsIssue : Prop :=
  (∀ f, atomicIssues (.atom f) true false f ∧ atomicIssues (.ared f) true true f ∧ atomicIssues (.atoms f) false false f) ∧
  (∀ (s : State) (f : LaneOp) (i : Instr) (virt red : Bool) (l : Nat), (i, virt, red) ∈ [(Instr.atom f, true, false), (.ared f, true, true), (.atoms f, false, false)] → i.wf = true →
    addressing s virt f none → mayIssue s virt f none 4 → atomicReady s red f → l < 32 → (effective s f.mask).getLsbD l = true → address s virt f none l % 4 ≠ 0 → LaneTraps i s 6 0)

/-- R101, R106, R229, R232, R233: an atomic on an integer format or bits, in the scratchpad or uncached at its home slice, is performed one lane after another, lanes of one word in ascending order: each leaves the new value in its word and, unless it is a reduction, the access writes the old ones to its register once the last lane is done. -/
def Obligations.AtomicsPerformed : Prop :=
  ∀ (s : State) (y : Split) (a : Access), s.At y → performs s a → a.kind = .atomic ∨ a.kind = .reduce → a.op < 8 → a.fmt ≤ 2 → a.dst < 256 → a.size = 4 → a.signed = false → plainly s a →
    (∃ x ∈ a.lanes, x.left ≠ []) → (∀ x ∈ a.lanes, (x.left = [] ∨ x.left = List.range 4) ∧ x.bytes = (List.range 4).map (place x 0 + ·) ∧ (a.scratch = false → place x 0 % 4 = 0)) →
    let word (t : State) (x : LaneAcc) : Word := BitVec.ofNat 32 (natLE (x.bytes.map (byteAt t a.scratch)))
    Does .accessPerformed s (if a.kind = .reduce then [] else [a.dst]) (.pending :: if a.scratch then [.scratch] else [.mem, .slices]) fun t =>
      partStep s t a (fun x i => byteAt s a.scratch (place x i)) fun x k =>
        elsewhere s t a.scratch x.bytes ∧ k = x.left ∧ word t x = updated a.op a.fmt (word s x) x.val x.cmp ∧
        (isLast a x k → a.kind = .atomic → loadResult s t a fun l => natLE ((List.range 4).map (heldByte a x k (fun i => byteAt s a.scratch (place x i)) l)))

namespace Sys2Proof.Claims

/-- The tag of register `j` of a run of fmt (R227). -/
def runTagOf (fmt j : Nat) : Tag := if fmt = 4 then (if j % 2 = 0 then 0x20 else 0x28) else BitVec.ofNat 8 (8 * fmt)

/-- The address of a run: kept where a register of it has moved or faulted already, and else that of its sources, each uniform and aligned on 128 bytes (R227, R228). -/
def runFrom (s : State) (f : LaneOp) (addr : Nat) : Prop :=
  let virt := !f.ext.getLsbD 8
  s.me.runAddr = some addr ∨ s.me.runAddr = none ∧ addressing s virt f none ∧ addr = address s virt f none ((lowestLane (effective s f.mask)).getD 0) ∧ addr % 128 = 0 ∧
    (f.moda ≠ 0 ∨ ((s.laneReg f.a.toNat).val.isUniform = true ∧ (virt = true → (s.laneReg (f.a.toNat + 1)).val.isUniform = true))) ∧ lu s f.b f.modb

/-- Nothing keeps the register at the cursor of a run from moving: the one before it has been transferred, no fence holds the split, its translation can be had, and no panel that holds its bytes is still to be read. -/
def runMoves (s : State) (virt : Bool) (addr : Nat) (B : List Nat) : Prop :=
  s.runWaits addr s.me.cursor = none ∧ noFence s ∧ (virt = true → s.walksWait s.cur.core (spanned 128 [addr + 128 * s.me.cursor]) = false) ∧ (virt = false → s.panelBusy B = false)

/-- `ldm` or `stm` of the registers from `r` on, which are sound as `sound` says: with E empty it ends at once; else it issues the access of the register at the cursor, lane L at + 4L, and goes on with the next, or ends with the last; a register whose bytes lie beyond the allocation faults. -/
def runIssues (i : Instr) (f : LaneOp) (r : BitVec 8) (u : Use) (sound : State → Nat → Prop) : Prop :=
  ∀ (s : State) (y : Split) (addr : Nat), s.LaneAt i y → i.wf = true → runFrom s f addr →
    let virt := !f.ext.getLsbD 8
    let n := f.ext.toNat % 32 + 1
    let E := effective s f.mask
    let cur := s.me.cursor
    let place := if virt then addr + 128 * cur else (addr + 128 * cur) % 2 ^ 32
    (s.me.runAddr = none → sound s n) →
    (E = 0 → Issues i s [] [] fun _ => True) ∧
    (∀ B, E ≠ 0 → cur < n → runMoves s virt addr B → reaches s virt place 128 u B → s.team? s.here.team ≠ none →
      Does i s [] (.pending :: .queue :: if u = .store then [.teams] else []) fun t =>
        (∃ a, t.here.pending = s.here.pending ++ [a] ∧ a.kind = (if u = .store then .store else .load) ∧ a.split = s.cur.split ∧ a.scratch = !virt ∧ a.mask = E ∧ a.size = 4 ∧ a.run = cur + 1 ∧ a.tile = none ∧ a.got = [] ∧
          (u = .load → a.dst = r.toNat + cur ∧ a.tag = runTagOf f.fmt.toNat cur) ∧
          a.lanes.map (fun x => (x.lane, x.va, x.bytes, x.left)) = (active E).map (fun l => (l, addr + 128 * cur + 4 * l, (B.drop (4 * l)).take 4, List.range 4)) ∧
          (u = .store → ∀ x ∈ a.lanes, x.val = (s.laneReg (r.toNat + cur)).val.lane (laneOf f.modc E x.lane))) ∧
        (cur + 1 < n → t.me.cursor = cur + 1 ∧ t.me.runAddr = some addr ∧ t.me.pc = s.me.pc ∧ t.me.queue = s.me.queue) ∧
        (cur + 1 = n → popped s t ∧ t.me.cursor = 0 ∧ t.me.runAddr = none ∧ (virt = true → u = .store → t.myTeam.idem = false))) ∧
    (virt = false → E ≠ 0 → s.runWaits addr cur = none → noFence s → s.scratchSize < place + 128 → LaneTraps i s 7 s.scratchSize)

end Sys2Proof.Claims

/-- R219, R227, R228, R372: `ldm` fills a run of registers in the lanes of E, each of 128 bytes, and `stm` writes them, read through the lane modifier, one register at a time from the restart cursor on, at the address of the first; a spill ends the team's idempotence with its last register. -/
def Obligations.SpillAndFill : Prop :=
  (∀ f, runIssues (.ldm f) f f.d .load fun s n => f.d.toNat + n ≤ s.budget) ∧
  (∀ f, runIssues (.stm f) f f.c .store fun s n => f.c.toNat + n ≤ s.budget ∧ (f.fmt = 0 ∨ ∀ j, j < n → (s.laneReg (f.c.toNat + j)).tag = runTagOf f.fmt.toNat j))

/-! ### Matrix operations and accumulators (R54, R55, R81, R234 to R244) -/

namespace Sys2Proof.Claims

/-- A working tile that an instruction may name: at rest, so with no matrix operation and no `accld` on it that has not ended, and not the odd tile of a pair; with `pair` its pair as well. -/
def tileFree (s : State) (t : Nat) (pair : Bool := false) : Prop :=
  t < s.here.workTiles ∧ s.tileBusy (if pair then [t, t + 1] else [t]) = false ∧ ¬(t % 2 = 1 ∧ (s.tile t).info.tag = 2) ∧
  ((s.tile t).info.tag = 2 ∨ pair = true → t % 2 = 0 ∧ t + 1 < s.here.workTiles)

/-- Element `i` of a tile. -/
def elemOf (x : Tile) (i : Nat) : Word := tget 0 x.elems i

/-- Tiles other than those listed, by working-tile number, and those of every other core are unchanged. -/
def onlyTiles (s t : State) (l : List Nat) : Prop := ∀ c i, ¬(c = s.cur.core ∧ ∃ k ∈ l, i = s.here.accBase + k) → (t.core c).tile i = (s.core c).tile i

/-- A single tile has been written, the odd tile of a pair that it led returned to its reset value (R55). -/
def oneTile (s t : State) (d : Nat) : Prop :=
  if (s.tile d).info.tag = 2 then onlyTiles s t [d, d + 1] ∧ t.tile (d + 1) = {} else onlyTiles s t [d]

/-- A tile has been written as a kind with metadata that keeps its threshold (R54, R55). -/
def written (s t : State) (d kind : Nat) (silt : BitVec 16) (sat : Bool) : Prop :=
  let m := (t.tile d).info
  m.tag = BitVec.ofNat 2 kind ∧ m.silt = silt ∧ m.sat = sat ∧ m.skip = false ∧ m.pend = false ∧ m.thr = (s.tile d).info.thr

/-- An image of the bytes `B` at a uniform address aligned on 128 bytes, which nothing keeps from being accessed (R89, R114, R238, R241). -/
def imageAt (s : State) (f : LaneOp) (n : Nat) (u : Use) (B : List Nat) : Prop :=
  let virt := !f.ext.getLsbD 2
  let E := s.me.active
  let l := (lowestLane E).getD 0
  let addr := if virt then (((lin2 s E f.a f.moda l : Nat) + offset s E f none l) % 2 ^ 64).toNat else (((lin s E f.a f.moda l).toNat + offset s E f none l) % 2 ^ 32).toNat
  addressing s virt f none ∧ addr % 128 = 0 ∧ noFence s ∧
  (f.moda ≠ 0 ∨ ((s.laneReg f.a.toNat).val.isUniform = true ∧ (virt = true → (s.laneReg (f.a.toNat + 1)).val.isUniform = true))) ∧ lu s f.b f.modb ∧
  reaches s virt addr n u B ∧ (virt = true → s.walksWait s.cur.core (spanned n [addr]) = false) ∧ (virt = false → s.panelBusy B = false)

/-- The one access to an image of the bytes `B` has joined those of the group, all of it still to be performed. -/
def imageJoins (s t : State) (scratch : Bool) (kind : AccessKind) (tile : Option (Nat × Nat)) (B : List Nat) (P : LaneAcc → Prop) : Prop :=
  ∃ a x, t.here.pending = s.here.pending ++ [a] ∧ a.kind = kind ∧ a.split = s.cur.split ∧ a.scratch = scratch ∧ a.size = B.length ∧ a.tile = tile ∧ a.got = [] ∧ a.run = 0 ∧
    a.lanes = [x] ∧ x.lane = 0 ∧ x.bytes = B ∧ x.left = List.range B.length ∧ P x

/-- Word `k` of `n` bytes of an image. -/
def imageWord (v : Nat → Byte) (n k : Nat) : Nat := natLE ((List.range n).map fun j => v (k * n + j))

/-- The image of a tile of a kind: its elements, those of a wide tile's partner behind its own, and the sidecar (R241). -/
def holdsImage (s : State) (d kind : Nat) (v : Nat → Byte) : Prop :=
  let x := s.tile d
  (kind < 2 → (∀ i, i < 512 → imageWord v 4 i = (elemOf x i).toNat) ∧ imageWord v 2 1024 = if kind = 1 then (if x.info.sat then 1 else 0) else x.info.silt.toNat) ∧
  (kind = 2 → (∀ i, i < 512 → imageWord v 8 i = (elemOf x i).toNat + (elemOf (s.tile (d + 1)) i).toNat * 2 ^ 32) ∧ imageWord v 2 2048 = x.info.silt.toNat) ∧
  (kind = 3 → (∀ i, i < 512 → imageWord v 4 i = (elemOf x i).toNat ∧ imageWord v 4 (512 + i) = (elemOf ((s.core s.cur.core).tile x.info.partner.toNat) i).toNat) ∧ imageWord v 2 2048 = x.info.silt.toNat)

/-- A tile has taken an image of a kind. -/
def takesImage (s t : State) (d kind : Nat) (v : Nat → Byte) : Prop :=
  let x := s.tile d
  let p := x.info.partner.toNat
  (kind < 2 → oneTile s t d ∧ (∀ i, i < 512 → (elemOf (t.tile d) i).toNat = imageWord v 4 i) ∧
    written s t d kind (if kind = 1 then x.info.silt else BitVec.ofNat 16 (imageWord v 2 1024)) (if kind = 1 then decide (imageWord v 2 1024 % 2 = 1) else x.info.sat)) ∧
  (kind = 2 → onlyTiles s t [d, d + 1] ∧ written s t d 2 (BitVec.ofNat 16 (imageWord v 2 2048)) x.info.sat ∧
    ∀ i, i < 512 → (elemOf (t.tile d) i).toNat + (elemOf (t.tile (d + 1)) i).toNat * 2 ^ 32 = imageWord v 8 i) ∧
  (kind = 3 → x.info.tag = 3 → p ≠ s.here.accBase + d →
    (∀ c i, ¬(c = s.cur.core ∧ (i = s.here.accBase + d ∨ i = p)) → (t.core c).tile i = (s.core c).tile i) ∧ written s t d 3 (BitVec.ofNat 16 (imageWord v 2 2048)) x.info.sat ∧ (t.tile d).info.partner.toNat = p ∧
    ∀ i, i < 512 → (elemOf (t.tile d) i).toNat = imageWord v 4 i ∧ (elemOf ((t.core s.cur.core).tile p) i).toNat = imageWord v 4 (512 + i))

/-- The tags that an A fragment of 24 registers carries (R235). -/
def fragment (s : State) (fmt : Nat) (a : Nat) : Prop :=
  ∀ j, j < 24 → if fmt = 4 then (s.laneReg (a + j)).tag = (if j % 2 = 0 then 0x20 else 0x28)
    else if fmt = 12 then (s.laneReg (a + j)).tag.toNat / 8 = 12 ∧ (s.laneReg (a + j)).tag = (s.laneReg a).tag
    else (s.laneReg (a + j)).tag = BitVec.ofNat 8 (8 * fmt)

/-- The operand-collector latch holds the fragment of an instruction (R237). -/
def hitsLatch (s : State) (fmt a : Nat) : Prop := ∃ l, s.here.latch = some l ∧ l.base = a ∧ l.fmt = fmt

/-- What an `mma` or `mmas` needs (R235): fragment, panel address and tile; a latched fragment has no register written since. -/
def matrixReady (s : State) (f : LaneOp) : Prop :=
  let fmt := f.fmt.toNat
  let b := (lin s (effective s f.mask) f.b f.modb 0).toNat
  owned s [f.a.toNat + 23, f.b.toNat] ∧ f.d.toNat + (if fmt = 4 then 1 else 0) < s.here.workTiles ∧ noFence s ∧ (∀ x ∈ s.here.pending, x.scratch = false ∧ x.tile = none) ∧
  (∀ o ∈ (s.core s.cur.core).held, o.slot ≠ s.cur.slot) ∧ (¬hitsLatch s fmt f.a.toNat → fragment s fmt f.a.toNat) ∧ (∀ l, s.here.latch = some l → l.base = f.a.toNat → l.fmt = fmt → l.dirty = []) ∧
  lu s f.b f.modb ∧ plainTag (ltag s f.b) = true ∧ b % 128 = 0 ∧ b + 24576 ≤ s.scratchSize ∧
  (if fmt = 4 then (s.tile f.d.toNat).info.tag = 2 ∧ f.d.toNat % 2 = 0 else if fmt = 10 ∨ fmt = 11 then (s.tile f.d.toNat).info.tag = 1 else (s.tile f.d.toNat).info.tag = 0 ∨ (s.tile f.d.toNat).info.tag = 3)

/-- The operation as it issues. -/
def operation (s : State) (scaled : Bool) (f : LaneOp) (o : GangOp) : Prop :=
  let e := f.ext.toNat
  o.slot = s.cur.slot ∧ o.gid = s.here.gid ∧ o.team = s.here.team ∧ o.gang = s.here.gang ∧ o.tile = f.d.toNat ∧
  (¬hitsLatch s f.fmt.toNat f.a.toNat → o.frag = (List.range 24).map fun j => s.laneReg (f.a.toNat + j)) ∧
  (∀ l, s.here.latch = some l → l.base = f.a.toNat → l.fmt = f.fmt.toNat → o.frag = l.regs) ∧
  o.panel = (lin s (effective s f.mask) f.b f.modb 0).toNat ∧ o.fmt = f.fmt.toNat ∧ o.bf = e / 2 % 16 ∧ o.bs = e / 32 % 8 ∧ o.rnd = f.rnd.toNat ∧ o.kofs = e / 256 % 32 ∧ o.kofsb = e / 8192 % 32 ∧
  o.scaled = scaled ∧ o.batch = s.here.batch ∧ o.split = s.cur.split

end Sys2Proof.Claims

/-- R176, R221, R234 to R237: `mma` and `mmas` without a gang queue one operation of the open batch, its fragment and panel read; in a gang the operation waits in the rendezvous latch and the lane queue stays. The fragment is that of the operand-collector latch where base and format agree and none of its registers has been written since; of a latched fragment with registers written since, nothing is stated here. A tile that does not agree with the format takes the tag-mismatch fault, a panel address off its alignment the misalignment fault, as R221 says, beyond the list of R362 (a reading of the model, log 17). -/
def Obligations.MatrixIssue : Prop :=
  ∀ (s : State) (f : LaneOp) (i : Instr) (scaled : Bool), (i, scaled) ∈ [(Instr.mma f, false), (.mmas f, true)] → i.wf = true →
    let n := f.ext.toNat
    let k := 2 + ((WF.blocks scaled f.fmt.toNat (n / 2 % 16) + n / 8192 % 32) * 64 + 127) / 128
    (scaled = true → f.c.toNat + k ≤ s.budget ∧ ∀ j, j < k → (s.laneReg (f.c.toNat + j)).tag = 0x68) →
    (∀ y : Split, s.LaneAt i y → matrixReady s f →
      (s.here.gang.size = 0 → Issues i s [] [] fun t => ∃ o, (t.core s.cur.core).mxq = (s.core s.cur.core).mxq ++ [[o]] ∧ (t.core s.cur.core).held = (s.core s.cur.core).held ∧ operation s scaled f o ∧
        o.buffer = (List.range o.buffer.length).map fun j => s.scratchByte s.myTeam.core (s.myTeam.scratchBase + o.panel + j)) ∧
      (s.here.gang.size ≠ 0 → Does i s [] [] fun t => ∃ o, (t.core s.cur.core).held = (s.core s.cur.core).held ++ [o] ∧ (t.core s.cur.core).mxq = (s.core s.cur.core).mxq ∧ operation s scaled f o)) ∧
    (owned s [f.a.toNat + 23, f.b.toNat] → f.d.toNat + (if f.fmt = 4 then 1 else 0) < s.here.workTiles → s.here.latch = none → noFence s → (∀ x ∈ s.here.pending, x.tile = none) →
      (∀ o ∈ (s.core s.cur.core).held, o.slot ≠ s.cur.slot) → fragment s f.fmt.toNat f.a.toNat → lu s f.b f.modb → plainTag (ltag s f.b) = true →
      (f.fmt = 10 → (s.tile f.d.toNat).info.tag = 0 → LaneTraps i s 4 ((s.tile f.d.toNat).info.word.toNat % 2 ^ 32)) ∧
      (f.fmt = 10 → (s.tile f.d.toNat).info.tag = 1 → (lin s (effective s f.mask) f.b f.modb 0).toNat % 128 ≠ 0 → LaneTraps i s 6 0))

/-- R55, R240, R241, R243, R244: `accz` clears a tile to its kind; `accst` issues one store of the image that the tile's kind gives and `accld` one load of an image of any kind, a wide one with its partner or the lowest free pool tile bound at once, and with no free one takes the wide-pool fault; the tile takes the image with the last of its bytes read; `accput` writes a tile from registers and `silt.get` reads a tile's silt or its metadata, with `SKIP` as cleared. Of the sidecar of an i32 image bit 0 counts (a choice of the model, log 97). -/
def Sys2Proof.Claims.accumulatorsHold : Prop :=
  (∀ (s : State) (y : Split) (f : LaneOp), s.LaneAt (.accz f) y → (Instr.accz f).wf = true →
    let d := f.d.toNat
    (f.fmt ≠ 4 → tileFree s d → Issues (.accz f) s [] [.tiles] fun t =>
      oneTile s t d ∧ (∀ i, i < 512 → elemOf (t.tile d) i = 0) ∧ written s t d (if f.fmt = 1 then 1 else 0) 0 false) ∧
    (f.fmt = 4 → tileFree s d true → Issues (.accz f) s [] [.tiles] fun t =>
      onlyTiles s t [d, d + 1] ∧ (∀ i, i < 512 → elemOf (t.tile d) i = 0 ∧ elemOf (t.tile (d + 1)) i = 0) ∧ written s t d 2 0 false ∧
      (t.tile (d + 1)).info = { tag := 2, partner := BitVec.ofNat 8 (s.here.accBase + d), thr := 0 })) ∧
  (∀ (s : State) (y : Split) (f : LaneOp) (B : List Nat), s.LaneAt (.accst f) y → (Instr.accst f).wf = true → s.team? s.here.team ≠ none →
    let d := f.d.toNat
    let kind := (s.tile d).info.tag.toNat
    imageAt s f (if kind < 2 then 2050 else 4098) .store B → tileFree s d (decide (kind = 2)) →
    Issues (.accst f) s [] (if f.ext.getLsbD 2 then [.pending] else [.pending, .teams]) fun t =>
      (f.ext.getLsbD 2 = false → t.myTeam.idem = false) ∧ imageJoins s t (f.ext.getLsbD 2) .store none B fun x => holdsImage s d kind fun k => x.data.getD k 0) ∧
  (∀ (s : State) (f : LaneOp) (B : List Nat), (Instr.accld f).wf = true →
    let d := f.d.toNat
    let kind := f.ext.toNat % 4
    let x := s.tile d
    let joins (t : State) : Prop := imageJoins s t (f.ext.getLsbD 2) .load (some (d, kind)) B fun _ => True
    imageAt s f (if kind < 2 then 2050 else 4098) .load B → tileFree s d (decide (kind = 2)) →
    (∀ y, s.LaneAt (.accld f) y → kind ≠ 3 ∨ x.info.tag = 3 → Issues (.accld f) s [] [.pending] joins) ∧
    (∀ y p, s.LaneAt (.accld f) y → kind = 3 → x.info.tag ≠ 3 → p < 256 → (s.here.freePool (s.core s.cur.core)).head? = some p → Issues (.accld f) s [] [.pending, .tiles] fun t => joins t ∧
      (if x.info.tag = 2 then onlyTiles s t [d, d + 1] ∧ t.tile (d + 1) = {} else onlyTiles s t [d]) ∧ t.tile d = { x with info := { x.info with tag := 3, partner := BitVec.ofNat 8 p } }) ∧
    (kind = 3 → x.info.tag ≠ 3 → s.here.freePool (s.core s.cur.core) = [] → LaneTraps (.accld f) s 19 d)) ∧
  (∀ (s : State) (y : Split) (a : Access) (x : LaneAcc) (d kind : Nat), s.At y → s.here.pending[s.cur.idx]? = some a → a.split = s.cur.split → a.kind = .load → a.tile = some (d, kind) → kind < 4 →
    (∀ b ∈ s.here.pending.take s.cur.idx, b.scratch = a.scratch → ∀ z ∈ a.touched, z ∉ b.touched) →
    a.size = (if kind < 2 then 2050 else 4098) → a.lanes = [x] → x.lane = 0 → x.bytes.length = a.size → x.bytes.Nodup → x.left.Nodup → x.left ≠ [] → (∀ i ∈ x.left, i < a.size) → rising 0 a.got = true → plainly s a →
    d < s.here.workTiles → ((s.tile d).info.tag = 2 ∨ kind = 2 → d % 2 = 0 ∧ d + 1 < s.here.workTiles) →
    ∃ k ∈ x.left :: x.left.map (fun i => [i]),
      let v (i : Nat) : Byte := if i ∈ k then byteAt s a.scratch (place x i) else (aget a.got i).getD 0
      let rest := x.left.filter fun i => !k.contains i
      (rest = [] → Does .accessPerformed s [] (.pending :: .tiles :: if a.scratch then [] else [.slices]) fun t =>
        t.here.pending = s.here.pending.eraseIdx s.cur.idx ∧ takesImage s t d kind v) ∧
      (rest ≠ [] → Does .accessPerformed s [] (.pending :: if a.scratch then [] else [.slices]) fun t =>
        ∃ r, t.here.pending = setAt s.here.pending s.cur.idx r ∧ r = { a with lanes := [{ x with left := rest }], got := r.got } ∧ ∀ i, i < a.size → (aget r.got i).getD 0 = v i)) ∧
  (∀ (s : State) (y : Split) (f : LaneOp), s.LaneAt (.accput f) y → (Instr.accput f).wf = true →
    let d := f.d.toNat
    let a := f.a.toNat
    let n := if f.fmt = 4 then 32 else 16
    let w (j l : Nat) : Word := (s.laneReg (a + j)).val.lane l
    owned s [a + n - 1, f.c.toNat] → (s.laneReg f.c.toNat).val.isUniform = true → (ltag s f.c = tN32 ∨ ltag s f.c = 0) → (∀ j, j < n → (s.laneReg (a + j)).tag = runTagOf f.fmt.toNat j) →
    let silt := ((s.laneReg f.c.toNat).val.lane 0).setWidth 16
    (f.fmt ≠ 4 → tileFree s d → Issues (.accput f) s [] [.tiles] fun t =>
      oneTile s t d ∧ (∀ j l, j < 16 → l < 32 → elemOf (t.tile d) (32 * j + l) = w j l) ∧ written s t d (if f.fmt = 1 then 1 else 0) silt (if f.fmt = 1 then false else (s.tile d).info.sat)) ∧
    (f.fmt = 4 → tileFree s d true → Issues (.accput f) s [] [.tiles] fun t =>
      onlyTiles s t [d, d + 1] ∧ (∀ j l, j < 16 → l < 32 → elemOf (t.tile d) (32 * j + l) = w (2 * j) l ∧ elemOf (t.tile (d + 1)) (32 * j + l) = w (2 * j + 1) l) ∧ written s t d 2 silt (s.tile d).info.sat)) ∧
  (∀ (s : State) (y : Split) (f : LaneOp), s.LaneAt (.siltGet f) y → (Instr.siltGet f).wf = true → owned s [f.d.toNat] → tileFree s f.c.toNat →
    Issues (.siltGet f) s [f.d.toNat] [] fun t => (t.regNow f.d.toNat).tag = tN32 ∧ (t.regNow f.d.toNat).val.isUniform = true ∧
      ((t.regNow f.d.toNat).val.lane 0).toNat = if f.ext = 1 then (TileMeta.word { (s.tile f.c.toNat).info with skip := false }).toNat % 2 ^ 32 else (s.tile f.c.toNat).info.silt.toNat)

namespace Sys2Proof.Claims

/-- The exact value of an element of a tile (R54, R55): its kind's number, the two parts of a wide tile summed. -/
def tileValue (s : State) (d i : Nat) : FVal :=
  let x := s.tile d
  match x.info.tag.toNat with
  | 1 => .fin (decide ((elemOf x i).toInt < 0)) (elemOf x i).toInt.natAbs 0
  | 2 => f64F.decode ((elemOf x i).toNat + (elemOf (s.tile (d + 1)) i).toNat * 2 ^ 32)
  | 3 => faddV 0 (f32F.decode (elemOf x i).toNat) (f32F.decode (elemOf ((s.core s.cur.core).tile x.info.partner.toNat) i).toNat)
  | _ => f32F.decode (elemOf x i).toNat

/-- Bits of an element of `acccvt`, and elements of a lane (R242). -/
def cvtBits (fmt : Nat) : Nat := if fmt = 6 ∨ fmt = 7 then 16 else if fmt = 8 ∨ fmt = 10 ∨ fmt = 11 then 8 else 32

end Sys2Proof.Claims

/-- R69, R242: `acccvt` rounds the elements of a tile into a run of registers, packed in order, and answers a silt in vc; a format that does not suit the tile's kind takes the tag-mismatch fault. -/
def Sys2Proof.Claims.accumulatorConversionHold : Prop :=
  ∀ (s : State) (f : LaneOp), (Instr.acccvt f).wf = true →
    let d := f.d.toNat
    let a := f.a.toNat
    let n := f.fmt.toNat
    let kind := (s.tile d).info.tag.toNat
    let b := cvtBits n
    let regs := if n = 4 then 32 else b / 2
    let suits := if kind = 1 then n ∈ [1, 10, 11, 3] else if kind = 2 then n ∈ [4, 3] else n ∈ [3, 6, 7, 8]
    owned s [a + regs - 1, f.c.toNat] → tileFree s d →
    (∀ y : Split, s.LaneAt (.acccvt f) y → suits → (f.c.toNat < a ∨ a + regs ≤ f.c.toNat) →
      Issues (.acccvt f) s (f.c.toNat :: (List.range regs).map (a + ·)) [] fun t =>
        (t.regNow f.c.toNat).tag = tN32 ∧ (t.regNow f.c.toNat).val.isUniform = true ∧ ((t.regNow f.c.toNat).val.lane 0).toNat < 2 ^ 16 ∧
        (n ≠ 4 → ∀ j, j < regs → (t.regNow (a + j)).tag = BitVec.ofNat 8 (8 * n) ∧ ∀ l k, l < 32 → k < 32 / b →
          slice b k ((t.regNow (a + j)).val.lane l) = rounded n f.rnd.toNat (tileValue s d ((32 * j + l) * (32 / b) + k))) ∧
        (n = 4 → ∀ j l, j < 16 → l < 32 → (t.regNow (a + 2 * j)).tag = 0x20 ∧ (t.regNow (a + 2 * j + 1)).tag = 0x28 ∧
          ((t.regNow (a + 2 * j)).val.lane l).toNat + ((t.regNow (a + 2 * j + 1)).val.lane l).toNat * 2 ^ 32 = roundF f64F f.rnd.toNat (tileValue s d (32 * j + l)))) ∧
    (¬suits → LaneTraps (.acccvt f) s 4 ((s.tile d).info.word.toNat % 2 ^ 32))

/-- R55, R240, R241, R243, R244: `accz` clears a tile to its kind; `accst` issues one store of the image that the tile's kind gives and `accld` one load of an image of any kind, a wide one with its partner or the lowest free pool tile bound at once, and with no free one takes the wide-pool fault; the tile takes the image with the last of its bytes read; `accput` writes a tile from registers and `silt.get` reads a tile's silt or its metadata, with `SKIP` as cleared. Of the sidecar of an i32 image bit 0 counts (a choice of the model, log 97). R69, R242: `acccvt` rounds the elements of a tile into a run of registers, packed in order, and answers a silt in vc; a format that does not suit the tile's kind takes the tag-mismatch fault. Both hold. -/
def Obligations.AccumulatorMoves : Prop := accumulatorsHold ∧ accumulatorConversionHold

/-! ### Steps of a core (R30, R41, R61, R88, R102, R138, R159, R236, R238, R350) -/

namespace Sys2Proof.Claims

/-- A wait of the split of the step ends, its control stream ready or parked: the frame of the step, up to the word that the step records as its own. -/
def WaitEnds (s : State) (parts : List Part) (post : State → Prop) (how : CtlState := .ready) : Prop :=
  ∃ t w, exec .waitConditionMet s = .next t ∧ t.me.ctl = how ∧ post t ∧ Kept [] parts { s with cur := { s.cur with insn := w } } t

end Sys2Proof.Claims

/-- R30, R41, R61, R117, R134, R159, R175, R177, R359: a blocked split whose condition holds continues behind its wait; a token is forgotten; splits that all wait at one `merge` join, the lowest surviving with every lane and behind all that they have issued; an expired or finished yield continues at its continuation, and parks there only where its command closed its window; a silt that crossed its threshold turns a `wait.batch` into the silt trap. -/
def Sys2Proof.Claims.waitsEndHold : Prop :=
  ∀ (s : State) (y : Split), s.At y →
    (∀ a n, y.ctl = .blocked (.bar a n) → behind (s.bar s.here.team a.toNat).phase n → WaitEnds s [.loops, .acqs, .l1] (inLine s)) ∧
    (∀ n, y.ctl = .blocked (.tok n) → (∀ e ∈ s.here.tokens, e.1 = n → e.2 = true) →
      WaitEnds s [.loops, .tokens] fun t => inLine s t ∧ t.here.tokens = s.here.tokens.filter (fun e => decide (e.1 ≠ n))) ∧
    (∀ n, y.ctl = .blocked (.batch n) → behind s.here.ended n → (∀ i, i < s.here.workTiles → (s.tile i).info.pend = false) → WaitEnds s [.loops] (inLine s)) ∧
    (∀ n h, y.ctl = .blocked (.batch n) → behind s.here.ended n → (∃ i, i < s.here.workTiles ∧ (s.tile i).info.pend = true) → s.here.splits = [(s.cur.split, y)] → y.inHandler = false → s.trapWaits s.cur.core s.cur.slot s.cur.split = false →
      s.handler s.cur.core s.myTeam.lrec.lbase = .ok h → WaitEnds s [.codes, .loops, .trap, .queue, .tiles, .slices, .mem, .l1, .teams] fun t =>
        (unleased s → ∀ q ∈ [Part.mem, .l1, .teams], q.same s t) ∧
        t.me.inHandler = true ∧ t.me.pc = h ∧ t.me.trap.cause.toNat % 256 = 21 ∧ t.me.trap.aux = n ∧ t.me.trap.pc = BitVec.ofNat 32 y.pc.toNat ∧
        t.me.trap.info.toNat = ((List.range s.here.workTiles).filter fun i => (s.tile i).info.pend).length % 2 ^ 32 ∧ ∀ i, i < s.here.workTiles → (t.tile i).info.pend = false) ∧
    (∀ l, s.here.splits = (s.cur.split, y) :: l → (∀ e ∈ s.here.splits, e.2.ctl = .blocked (.merge y.pc)) →
      WaitEnds s [.loops, .activeMask, .others, .pending, .fences] fun t => inLine s t ∧ t.here.join = s.here.join + 1 ∧ (∃ z, t.here.splits = [(s.cur.split, z)]) ∧
        (∀ i, i < 32 → (t.me.active.getLsbD i = true ↔ ∃ e ∈ s.here.splits, e.2.active.getLsbD i = true)) ∧
        ((s.here.splits.map Prod.fst).Nodup → (∀ e ∈ s.here.splits, e.1 < 4) →
          t.here.pending.map (·.of s.cur.split) = s.here.pending.map (fun a => s.here.splits.any fun e => a.of e.1) ∧
          t.here.fences.map (·.holds s.cur.split) = s.here.fences.map fun f => s.here.splits.any fun e => f.holds e.1)) ∧
    (∀ cont, y.ctl = .blocked (.yld cont true) → WaitEnds s [] fun t => t.me.pc = cont) ∧
    (∀ tag cont marked, y.ctl = .blocked (.engine tag cont marked) → s.jobLives tag = false → (∀ f ∈ s.here.failed, f.yields = false) →
      WaitEnds s [] (fun t => t.me.pc = cont) (if marked then .parked else .ready))

/-- R61, R63, R88, R89, R100, R102, R138, R159, R350, R357: the ends of windows, after which the control stream sees every register as it stands but those that the block of a marked `lrun` has just written, traps that waited, words that are no instruction, yields that expire, walks and recalled leases. -/
def Sys2Proof.Claims.coreStepsHold : Prop :=
  (∀ (s : State) (y : Split), s.At y → quiet s → s.cur.idx = 0 → y.ctl = .parked →
    Does .parkEnd s [] [] fun t => t.me.ctl = .ready ∧ ∀ r, t.ctlReg r = (aget y.late.vs r).getD (t.regNow r) ∧ t.laneReg r = t.regNow r) ∧
  (∀ (s : State) (y : Split), s.At y → s.here.outstanding s.cur.split = false → s.cur.idx ≠ 0 → y.laneParked = true →
    Does .parkEnd s [] [] fun t => t.me.laneParked = false ∧ ∀ r, r ∉ y.ctlLast → t.laneReg r = t.regNow r) ∧
  (∀ (s : State) (y : Split) (r : TrapRec) (h : Dword), s.At y → s.trapWaits s.cur.core s.cur.slot s.cur.split = false → y.trapDue = some r → y.inHandler = false → s.handler s.cur.core s.myTeam.lrec.lbase = .ok h →
    Does .trapEntry s [] [.codes, .loops, .trap, .queue, .slices, .mem, .l1, .teams] fun t => (unleased s → ∀ q ∈ [Part.mem, .l1, .teams], q.same s t) ∧ t.me.inHandler = true ∧ t.me.pc = h ∧ t.me.loops = [] ∧ t.me.queue = [] ∧ t.me.savedLoops = y.loops ∧
      t.me.trap = { r with depth := BitVec.ofNat 32 y.loops.length } ∧ t.me.trapDue = none) ∧
  (∀ (s : State) (y : Split) (r : TrapRec), s.At y → s.trapWaits s.cur.core s.cur.slot s.cur.split = false → y.trapDue = some r → y.inHandler = true → s.team? s.here.team ≠ none → s.myTeam.core = s.cur.core →
    ∃ t, exec .trapEntry s = .next t ∧ t.cur = s.cur ∧ SameRegs [] s t ∧ (t.team s.here.team).byFault = true ∧ t.here.splits = [] ∧ t.here.done = true ∧
      (t.core s.cur.core).flogHead = (s.core s.cur.core).flogHead + 1 ∧ ∀ q ∈ [Part.tiles, .scratch, .mem, .l1, .jobs, .devices, .slices], q.same s t) ∧
  (∀ (s : State) (y : Split) (w : BitVec 32), s.At y → Traps (.illegalEncoding (.control w)) s 1 0 y.pc.toNat) ∧
  (∀ (s : State) (w : BitVec 96), LaneTraps (.illegalEncoding (.lane w)) s 1 0) ∧
  (∀ (s : State) (y : Split) (cont : Dword) (b : Bool), s.At y → s.here.team = s.cur.team → y.ctl = .blocked (.yld cont b) → y.waitSince = s.cur.idx →
    Does .yieldExpiry s [] [] fun t => t.me.ctl = .blocked (.yld cont true)) ∧
  (∀ (s : State) (y : Split) (r : TrapRec), s.At y → s.trapWaits s.cur.core s.cur.slot s.cur.split = true → y.trapDue = some r → exec .trapEntry s = .next s) ∧
  (∀ (s : State) (core : Nat) (va : Dword),
    ((∀ e ∈ s.walked (core / 72) va.toNat, s.homeWaits (core / 72) e.2.1 = false) → Does (.tlbWalk core va) s [] [.l1, .mem, .teams, .devices, .slices] fun t =>
      (unleased s → Kept [] [.devices, .slices] s t ∧ ∀ l, s.translate core va.toNat = .fault l → t.core core = s.core core) ∧
      ∀ fa pte, s.translate core va.toNat = .ok fa pte → t.translate core va.toNat = .ok fa pte ∧ ∃ e ∈ (t.core core).tlb, e.hits (s.partOf (core / 72)) va.toNat = true) ∧
    ((∃ e ∈ s.walked (core / 72) va.toNat, s.homeWaits (core / 72) e.2.1 = true) → (∀ e ∈ (s.core core).tlb, e.hits (s.partOf (core / 72)) va.toNat = false) →
      Does (.tlbWalk core va) s [] [] fun t => t.core core = s.core core ∧ walkOf core va.toNat ∈ t.agenda)) ∧
  (∀ (s : State) (ret line c : Nat), ret < 64 → line < 2 ^ 29 →
    let fa := s.fa ret (line * 128)
    (s.lineTag fa).lessee = some c → Does (.leaseRecall ret line) s [] [.l1, .mem, .teams, .slices] fun t =>
      (t.lineTag fa).lessee = none ∧ (t.lineTag fa).grit = min 15 ((s.lineTag fa).grit + 4) ∧ (t.core c).line? (fa / 128) = none ∧
      ∀ l, (s.core c).line? (fa / 128) = some l → s.lost fa = false → ∀ i, i < 128 → l.dirty.getLsbD i = true → t.memByte (fa + i) = tget 0 l.data i)

/-- R30, R41, R61, R117, R134, R159, R175, R177, R359: a blocked split whose condition holds continues behind its wait; a token is forgotten; splits that all wait at one `merge` join, the lowest surviving with every lane and behind all that they have issued; an expired or finished yield continues at its continuation, and parks there only where its command closed its window; a silt that crossed its threshold turns a `wait.batch` into the silt trap. R61, R63, R88, R89, R100, R102, R138, R159, R350, R357: the ends of windows, after which the control stream sees every register as it stands but those that the block of a marked `lrun` has just written, traps that waited, words that are no instruction, yields that expire, walks and recalled leases. Both hold. -/
def Obligations.CoreAndWaitSteps : Prop := waitsEndHold ∧ coreStepsHold

namespace Sys2Proof.Claims

/-- Element (r, k) of an i8 fragment: 384 elements a row, 128 a register (R74). -/
def aElement (o : GangOp) (r k : Nat) : Int := ((((o.frag.getD (3 * r + k / 128) {}).val.lane (k % 128 / 4)).extractLsb' (8 * (k % 4)) 8 : BitVec 8)).toInt

/-- Element (k, c) of an i8 panel: 64 elements a row (R74). -/
def bElement (o : GangOp) (k c : Nat) : Int := (o.buffer.getD (64 * k + c) 0).toInt

/-- An i32 accumulation clamped after each block of 32 products (R77). -/
def accumulated (o : GangOp) (r c : Nat) (old : Int) : Int :=
  (List.range 12).foldl (fun v b => max (-2 ^ 31) (min (2 ^ 31 - 1) (v + ((List.range 32).map fun j => aElement o r (32 * b + j) * bElement o (32 * b + j) c).sum))) old

end Sys2Proof.Claims

/-- R74 to R77, R82, R84, R236, R238: a gang whose members have all arrived and agree queues as one operation and advances every member's sequence, and one that disagrees queues nothing; an i8 operation that runs adds its 384 products to each element of its i32 tile, block by block; one on a tile that waits for its silt trap changes no tile. -/
def Obligations.MatrixSteps : Prop :=
  (∀ (s : State) (o : GangOp) (l : List GangOp), (s.core s.cur.core).held = o :: l → s.cur.slot ∈ (o :: l).map GangOp.slot → ((o :: l).map GangOp.gid).Pairwise (· < ·) → ((o :: l).map GangOp.slot).Nodup →
    (∀ x ∈ o :: l, x.team = o.team ∧ x.gang.seq = o.gang.seq ∧ x.gang.list.Nodup ∧ (∀ m, m ∈ x.gang.list ↔ m ∈ (o :: l).map GangOp.gid) ∧ s.group? s.cur.core x.slot ≠ none) →
    let same : Prop := ∀ x ∈ l, x.gang.size = o.gang.size ∧ x.panel = o.panel ∧ x.fmt = o.fmt ∧ x.bf = o.bf ∧ x.bs = o.bs ∧ x.rnd = o.rnd ∧ x.kofsb = o.kofsb
    (same → ∃ t ops, exec .gangRendezvous s = .next t ∧ t.cur = s.cur ∧ (t.core s.cur.core).held = [] ∧ (t.core s.cur.core).mxq = (s.core s.cur.core).mxq ++ [ops] ∧
      ops.map (fun x => (x.slot, x.gid, x.tile, x.frag, x.panel)) = (o :: l).map (fun x => (x.slot, x.gid, x.tile, x.frag, x.panel)) ∧
      (∀ x ∈ o :: l, (t.group s.cur.core x.slot).gang = { (s.group s.cur.core x.slot).gang with seq := (s.group s.cur.core x.slot).gang.seq + 1 }) ∧
      SameRegs [] s t ∧ ∀ q ∈ [Part.masks, .batch, .staged, .tokens, .acqs, .fences, .pending, .tiles, .scratch, .mem, .l1, .jobs, .logs, .teams, .devices, .slices], q.same s t) ∧
    (¬same → ∃ t, exec .gangRendezvous s = .next t ∧ (t.core s.cur.core).held = [] ∧ (t.core s.cur.core).mxq = (s.core s.cur.core).mxq ∧ SameRegs [] s t ∧
      (∀ x ∈ o :: l, (t.group s.cur.core x.slot).gang = (s.group s.cur.core x.slot).gang) ∧ ∀ c i, ((t.core c).tile i).elems = ((s.core c).tile i).elems)) ∧
  (∀ (s : State) (o : GangOp) (rest : List (List GangOp)), (s.core s.cur.core).mxq = [o] :: rest → o.started = true → s.group? s.cur.core o.slot ≠ none →
    let i := (s.group s.cur.core o.slot).accBase + o.tile
    let x := (s.core s.cur.core).tile i
    let others (t : State) : Prop := ∀ c k, ¬(c = s.cur.core ∧ k = i) → ((t.core c).tile k).elems = ((s.core c).tile k).elems
    (x.info.skip = true → Does .matrixOperation s [] [.tiles, .batch, .devices, .slices] fun t => (t.core s.cur.core).mxq = rest ∧ ∀ c k, ((t.core c).tile k).elems = ((s.core c).tile k).elems) ∧
    (x.info.skip = false → x.info.tag = 1 → o.fmt = 10 → o.bf = 10 → o.scaled = false → o.buffer.length = 384 * 64 →
      Does .matrixOperation s [] [.tiles, .batch, .devices, .slices] fun t => (t.core s.cur.core).mxq = rest ∧ others t ∧
        ∀ r c, r < 8 → c < 64 → (elemOf ((t.core s.cur.core).tile i) (64 * r + c)).toInt = accumulated o r c (elemOf x (64 * r + c)).toInt))

/-! ### Engine jobs, collectives, drains and grid barriers (R182, R249 to R274) -/

namespace Sys2Proof.Claims

/-- A device or engine step completes: its effect, and its frame, whatever unit the machine names as the one of the step afterwards. -/
def Acts (i : Instr) (s : State) (parts : List Part) (post : State → Prop) : Prop :=
  ∃ t, exec i s = .next t ∧ post t ∧ Kept [] parts { s with cur := t.cur } t

/-- The step concerns this queued job of its core, which has met no error and waits for no other. -/
def jobAt (s : State) (j : Job) : Prop :=
  j ∈ (s.core s.cur.core).jobs ∧ j.id = s.cur.idx ∧ ((s.core s.cur.core).jobs.map Job.id).Nodup ∧ j.after = []

/-- The other jobs of the core, and those of other cores, are unchanged. -/
def otherJobs (s t : State) (j : Job) : Prop :=
  (∀ c, c ≠ s.cur.core → (t.core c).jobs = (s.core c).jobs) ∧ (t.core s.cur.core).jobs.filter (fun k => decide (k.id ≠ j.id)) = (s.core s.cur.core).jobs.filter fun k => decide (k.id ≠ j.id)

/-- The barrier at `b` of team `t` may be counted into: it lies in the allocation, no grid barrier collects on it and no bank change rides on it. -/
def countable (s : State) (t b : Nat) : Prop :=
  (s.team t).gbar ≠ some b ∧ ∀ e ∈ s.cores, ∀ k ∈ e.2.jobs, k.cmd ≠ 7

/-- A barrier with its phase condition checked (R180). -/
def checked (v : Bar) (groups : Nat) : Bar :=
  if v.arrived = (if v.expect = 0 then groups else v.expect) ∧ v.bal = 0 then { v with phase := v.phase + 1, arrived := 0, bal := v.balnx, balnx := 0 } else v

end Sys2Proof.Claims

/-- R246, R249, R250, R259 to R262, R264, R266, R267, R270: a remote job passes to its unit; a copy starts segments of at most 64 KiB; bytes of a started segment of a contiguous scratchpad copy are read, some of those left at each step, and wait to land at their destination; a landing writes a run of the bytes that have been read and counts them into the job's barrier, with the phase check; a job that has ended completes its token and counts as done, and one that met an error is logged and left to its group. -/
def Sys2Proof.Claims.jobStepsHold : Prop :=
  ∀ (s : State) (j : Job), jobAt s j →
    let c := s.cur.core
    (3 ≤ j.cmd → j.cmd ≤ 5 → j.error = none → j.forwarded = false → ((s.retJobs (c / 72)).filter fun e => e.2.remote && e.2.forwarded).length < 1024 →
      Acts .jobForward s [.jobs] fun t => otherJobs s t j ∧ { j with forwarded := true } ∈ (t.core c).jobs) ∧
    (∀ n, j.cmd = 0 → j.error = none → n = word j.words 4 * word j.words 5 * word j.words 8 → j.pos < n →
      (s.ret (c / 72)).inSlot = false → s.now + 2000 < (s.ret (c / 72)).slotAt → (0 < j.pos ∨ ((s.core c).jobs.filter fun k => decide (0 < k.pos)).length < 4) →
      let m := min n (j.pos + 65536)
      Acts .segmentStart s [.jobs] fun t => otherJobs s t j ∧ { j with pos := m, seg := j.seg + 1, flight := j.flight ++ [{ lo := j.pos, hi := m, num := j.seg, reads := [(j.pos, m)] }] } ∈ (t.core c).jobs) ∧
    (∀ (n src dst a b : Nat) (l : Landing), j.cmd = 0 → j.var = 3 → word j.words 4 = n → word j.words 5 = 1 → word j.words 8 = 1 → word j.words 0 = src → word j.words 2 = dst → a < b → b ≤ n →
      src + n ≤ (s.team j.team).lrec.scratch * 4096 → (s.team j.team).lrec.scratch ≤ 256 → dst + n ≤ 2 ^ 32 → (src + n ≤ dst ∨ dst + n ≤ src) → (s.team j.team).saved = none →
      j.flight = [{ l with reads := [(a, b)], pieces := [] }] →
      Acts .landing s [.jobs] fun t => otherJobs s t j ∧ ∃ o m, a ≤ o ∧ 0 < m ∧ o + m ≤ b ∧
        { j with flight := [{ l with
                              reads := [(a, o), (o + m, b)].filter fun e => decide (e.1 < e.2)
                              pieces := [(o, .scratch j.team, dst + o, (List.range m).map fun i => s.scratchByte (s.team j.team).core ((s.team j.team).scratchBase + src + o + i))] }] } ∈ (t.core c).jobs) ∧
    (∀ (p a : Nat) (bytes : List Byte) (l : Landing), j.cmd ≤ 2 → j.overlaps = false → j.flight = [{ l with reads := [], pieces := [(p, .scratch j.team, a, bytes)] }] → l.late = none → bytes ≠ [] → s.team? j.team ≠ none →
      (s.team j.team).stage = .resident → (s.team j.team).saved = none → a + bytes.length ≤ (s.team j.team).lrec.scratch * 4096 → (s.team j.team).scratchBase + (s.team j.team).lrec.scratch * 4096 ≤ 2 ^ 20 →
      let base := (s.team j.team).scratchBase
      let k := (s.team j.team).core
      let n := bytes.length
      let run (x m : Nat) : Prop := 0 < m ∧ x + m ≤ n ∧ (a + x) / 128 = (a + x + m - 1) / 128 ∧ (j.cmd = 2 → x = 0)
      let landed (t : State) (x m : Nat) : Prop := ∀ i, i < m → t.scratchByte k (base + a + x + i) = bytes.getD (x + i) 0
      let left (x m : Nat) : Job := { j with
        flight := if m = n then [] else [{ l with reads := [], pieces := [(p, .scratch j.team, a, bytes.take x), (p + x + m, .scratch j.team, a + x + m, bytes.drop (x + m))].filter fun e => !e.2.2.2.isEmpty }]
        counted := j.counted + m }
      (∀ w, j.compl = .token w → Acts .landing s [.jobs, .scratch] fun t => ∃ x m, run x m ∧ otherJobs s t j ∧ landed t x m ∧ left x m ∈ (t.core c).jobs ∧
        ∀ q z, ¬(q = k ∧ base + a + x ≤ z ∧ z < base + a + x + m) → t.scratchByte q z = s.scratchByte q z) ∧
      (∀ b, j.compl = .barrier b ((s.bar j.team b).phase.toNat % 2) → countable s j.team b → (b + 16 ≤ a ∨ a + bytes.length ≤ b) → -(2 ^ 39 : Int) ≤ (s.bar j.team b).bal - n →
        Acts .landing s [.jobs, .scratch, .teams] fun t => ∃ x m, run x m ∧ otherJobs s t j ∧ landed t x m ∧ left x m ∈ (t.core c).jobs ∧ sameTeams s t ∧
          t.bar j.team b = checked { s.bar j.team b with bal := (s.bar j.team b).bal - m } (s.team j.team).lrec.groups ∧
          ∀ q z, ¬(q = k ∧ (base + a + x ≤ z ∧ z < base + a + x + m ∨ base + b ≤ z ∧ z < base + b + 16)) → t.scratchByte q z = s.scratchByte q z)) ∧
    (∀ (w : Word) (g : Nat), j.cmd ≤ 2 → j.compl = .token w → j.issued = [] → j.cards = [] → j.tokens = [] → s.team? j.team ≠ none → (s.team j.team).stage = .resident → (s.team j.team).core = c → s.slotOf j.team j.gid = some g →
      let others (t : State) : Prop := (∀ q, q ≠ c → (t.core q).jobs = (s.core q).jobs) ∧ (t.core c).jobs.map Job.id = ((s.core c).jobs.map Job.id).filter fun i => decide (i ≠ j.id)
      let ends (t : State) : Prop := others t ∧ (t.group c g).tokens = (s.group c g).tokens.map (fun e => if e.1 = w then (e.1, true) else e) ∧
        (t.team j.team).jobs = (s.team j.team).jobs - 1 ∧ (t.team j.team).don = (s.team j.team).don + 1
      (j.error = none → j.flight = [] → j.pos = s.jobCount j → Acts .jobCompletion s [.jobs, .teams, .tokens] fun t => ends t ∧ (t.group c g).failed = (s.group c g).failed) ∧
      (∀ e, j.error = some e → Acts .jobCompletion s [.jobs, .teams, .tokens, .logs] fun t => ends t ∧ (t.core c).elogHead = (s.core c).elogHead + 1 ∧
        (t.group c g).failed = (s.group c g).failed ++ [{ entry := some ((s.core c).elogHead.toNat % 64), card := j.card, word := e.word j.seg, addr := e.addr }]))

/-- R255, R308, R340: the owner of a unit folds its contributions once all ranks' are present: rank 0 first, each addition rounded to nearest in f32. -/
def Sys2Proof.Claims.collectiveUnitsHold : Prop :=
  ∀ (s : State) (core job unit : Nat) (j : Job) (x : CollState) (k0 : Packet) (l : List Packet), s.job? core job = some j → s.coll? core job = some x → j.error = none → x.parts = k0 :: l →
    let plan := s.planOf j
    plan.ty = 0 → plan.red = 0 → plan.p = l.length + 1 →
    ((k0 :: l).mapIdx fun i k => (i, k)).all (fun e => e.2.coll.any fun g => decide (g.unit = unit) && decide (g.rank = e.1)) = true → (∀ k ∈ k0 :: l, k.payload.length = 128) →
    let v (k : Packet) (e : Nat) : Nat := natLE ((k.payload.drop (4 * e)).take 4)
    Does (.collectiveFold (core / 72) core job unit) s [] [.devices, .slices] fun t => ∃ k, t.coll? core job = some { x with parts := [], folded := x.folded ++ [k] } ∧ k.op = 6 ∧
      (∃ g, k.coll = some g ∧ g.stage = 2 ∧ g.unit = unit) ∧
      ∀ e, e < 32 → v k e = l.foldl (fun a p => roundF f32F 0 (faddV 0 (f32F.decode a) (f32F.decode (v p e)))) (v k0 e)

/-- R246, R249, R250, R259 to R262, R264, R266, R267, R270: a remote job passes to its unit; a copy starts segments of at most 64 KiB; bytes of a started segment of a contiguous scratchpad copy are read, some of those left at each step, and wait to land at their destination; a landing writes a run of the bytes that have been read and counts them into the job's barrier, with the phase check; a job that has ended completes its token and counts as done, and one that met an error is logged and left to its group. R255, R308, R340: the owner of a unit folds its contributions once all ranks' are present: rank 0 first, each addition rounded to nearest in f32. Both hold. -/
def Obligations.EngineSteps : Prop := jobStepsHold ∧ collectiveUnitsHold

/-- R181, R182, R270 to R274, R304: a drain sweep over one wafer, or over several once each has answered, that repeats its sums, sent equal to done, ends the detection with one arrival from each group; any other only records its sums, and one over several wafers asks them first. A grid barrier collects one arrival from each team but those at bypassed sites, in one of its partition's 16 entries, which an arrival waits for; for a grid whose team 0 another wafer holds it sends the arrival on from there; it releases its teams when it is full, and the release completes a phase at the team, or is held for one that is not resident. -/
def Obligations.DrainsAndGridBarriers : Prop :=
  (∀ (s : State) (d : Detect) (m : Nat) (l : List Nat), s.cur.pkt = none → s.detects[s.cur.idx]? = some d → d.members = m :: l → s.busesOk d.part (s.sweepRets d) = true →
    let far := s.sweepWafers d
    let n : Nat × Nat := ((s.sweepSums d).1 + (d.answers.map fun e => e.2.1).sum, (s.sweepSums d).2 + (d.answers.map fun e => e.2.2).sum)
    let out : List Part := if far = [] then [] else [.devices, .slices]
    let becomes (t : State) (e : Detect) : Prop := t.detects.length = s.detects.length ∧ t.detects[s.cur.idx]? = some e ∧ ∀ i, i ≠ s.cur.idx → t.detects[i]? = s.detects[i]?
    (far ≠ [] → d.asked = false → Does .drainSweep s [] out fun t => becomes t { d with asked := true, answers := [] }) ∧
    ((far ≠ [] → d.asked = true) → (d.asked = true → far.length ≤ d.answers.length) →
      (¬(d.last = some n ∧ n.1 = n.2) → Does .drainSweep s [] [] fun t => becomes t { d with away := d.away ++ d.fresh, fresh := [], last := some n, asked := false, answers := [] }) ∧
      (∀ q, d.last = some n → n.1 = n.2 → l = [] → d.fresh = [] → s.team? m ≠ none → (s.team m).drainSet = some q → (s.team m).stage = .resident → countable s m q.addr →
        (s.bar m q.addr).arrived + (s.team m).lrec.groups < 256 →
        Does .drainSweep s [] ([.scratch, .teams] ++ out) fun t => t.detects = s.detects.eraseIdx s.cur.idx ∧ (t.team m).drainSet = none ∧
          t.bar m q.addr = checked { s.bar m q.addr with arrived := (s.bar m q.addr).arrived + (s.team m).lrec.groups } (s.team m).lrec.groups ∧
          ∀ c z, ¬(c = (s.team m).core ∧ (s.team m).scratchBase + q.addr ≤ z ∧ z < (s.team m).scratchBase + q.addr + 16) → t.scratchByte c z = s.scratchByte c z))) ∧
  (∀ (s : State) (x : Team) (w c : Nat), s.cur.pkt = none → s.team? s.cur.team = some x → s.homeOf x.lrec.part 0 x.lrec = some (w, c) →
    let r := x.lrec
    let total := r.nx * r.ny * r.nz
    let step (u : Nat) : Pend := ⟨{ team := u, core := (s.team u).core, ret := (s.team u).core / 72 }, .gridBarrierRelease⟩
    (s.bypassed x.core = true → exec .gridBarrierArrival s = .next s) ∧
    (s.bypassed x.core = false → s.barRoom r.grid r.part = false → Does .gridBarrierArrival s [] [] fun t => t.gbars = s.gbars ∧ ⟨s.cur, .gridBarrierArrival⟩ ∈ t.agenda) ∧
    (w ≠ s.wafer → s.bypassed x.core = false → s.gbars = [] →
      let e : GridBar := { grid := r.grid, part := r.part, total := total, arrived := [s.cur.team], home := some (w, c / 72) }
      (s.busesOk r.part [x.core / 72] = true → Does .gridBarrierArrival s [] [.devices, .slices] fun t => t.gbars = [{ e with sent := [s.cur.team] }]) ∧
      (s.busesOk r.part [x.core / 72] = false → Does .gridBarrierArrival s [] [] fun t => t.gbars = [e])) ∧
    (w = s.wafer → s.bypassed x.core = false → s.gbars = [] → 2 ≤ total → Does .gridBarrierArrival s [] [] fun t => t.gbars = [{ grid := r.grid, part := r.part, total := total, arrived := [s.cur.team] }] ∧ t.agenda = s.agenda) ∧
    (∀ b : GridBar, w = s.wafer → s.bypassed x.core = false → s.gbars = [b] → b.grid = r.grid → b.part = r.part → b.release = [] → b.home = none →
      (b.arrived.length + b.away.length + 1 < b.total → Does .gridBarrierArrival s [] [] fun t => t.gbars = [{ b with arrived := b.arrived ++ [s.cur.team] }] ∧ t.agenda = s.agenda) ∧
      (b.arrived.length + 1 = b.total → b.away = [] → s.busesOk r.part (((b.arrived ++ [s.cur.team]).map fun u => (s.team u).core / 72).eraseDups) = true → Does .gridBarrierArrival s [] [] fun t =>
        t.gbars = [{ b with arrived := b.arrived ++ [s.cur.team], release := b.arrived ++ [s.cur.team] }] ∧ t.agenda = s.agenda ++ (b.arrived ++ [s.cur.team]).map step))) ∧
  (∀ (s : State) (x : Team) (a : Nat), s.cur.pkt = none → s.team? s.cur.team = some x → x.gbar = some a → (∀ e ∈ s.cores, ∀ k ∈ e.2.jobs, k.cmd ≠ 7) → (∀ b ∈ s.gbars, b.release.Nodup) →
    let v := s.bar s.cur.team a
    (x.stage = .resident → Does .gridBarrierRelease s [] [.scratch, .teams] fun t => (t.team s.cur.team).gbar = none ∧ (t.team s.cur.team).gbarSent = false ∧ (t.team s.cur.team).don = x.don + 1 ∧
      t.bar s.cur.team a = { v with phase := v.phase + 1, arrived := 0, bal := v.balnx, balnx := 0 } ∧ (∀ b ∈ t.gbars, s.cur.team ∉ b.release) ∧
      ∀ c z, ¬(c = x.core ∧ x.scratchBase + a ≤ z ∧ z < x.scratchBase + a + 16) → t.scratchByte c z = s.scratchByte c z) ∧
    (x.stage ≠ .resident → Does .gridBarrierRelease s [] [.teams] fun t => t.team s.cur.team = { x with don := x.don + 1, held := x.held ++ [{ bar := some (a, 0), release := true }] } ∧
      ∀ b ∈ t.gbars, s.cur.team ∉ b.release))

/-! ### Launch records, cluster schedulers, eviction and probes (R275 to R293, R364 to R372) -/

namespace Sys2Proof.Claims

/-- The instruction completes at `s` and the next state meets `post`. -/
def Steps (i : Instr) (s : State) (post : State → Prop) : Prop := ∃ t, exec i s = .next t ∧ post t

/-- What a device step changes at most among the cores (with their registers, tiles, scratchpads, groups and splits), teams and reticles; the slices of any reticle may come to hold other lines. -/
structure Only (cores teams rets : List Nat) (s t : State) : Prop where
  core : ∀ c, c ∉ cores → t.core c = s.core c
  team : ∀ u, u ∉ teams → t.team? u = s.team? u
  ret : ∀ r, r ∉ rets → (t.ret r).bare = (s.ret r).bare
  slice : ∀ r, r ∉ rets → ∀ k, (t.slice r k).bare = (s.slice r k).bare

/-- DRAM reads as before. -/
def sameMem (s t : State) : Prop := ∀ a, t.memByte a = s.memByte a

/-- `n` bytes from `a` are DRAM of this wafer that answers, and no core leases a line. -/
def plainBytes (s : State) (a n : Nat) : Prop := unleased s ∧ ∀ i, i < n → s.target (a + i) = .dram ∧ faWafer (a + i) = s.wafer ∧ s.lost (a + i) = false

/-- `n` bytes from `a` in order, and no other byte, are written. -/
def wrote (s t : State) (a : Nat) (l : List Byte) : Prop :=
  (∀ i, i < l.length → t.memByte (a + i) = l.getD i 0) ∧ ∀ z, ¬(a ≤ z ∧ z < a + l.length) → t.memByte z = s.memByte z

/-- The partition's event queue, if it has one, has no record that waits, and its next place lies in plain DRAM that can be had now. -/
def calm (s : State) (part : Nat) : Prop :=
  ∀ e, s.eventRet part = some e → (s.ret e).eqHeld = [] ∧ s.homeWaits e ((s.ret e).eq.slot 64 (s.ret e).eq.tail) = false ∧ plainBytes s ((s.ret e).eq.slot 64 (s.ret e).eq.tail) 64

/-- One event is posted (R313): a record of the type, severity, reticle, site and payload where the queue takes it, else the lost count; no other byte of DRAM changes. -/
def reports (s t : State) (part r site type sev : Nat) (payload : List Byte) : Prop :=
  match s.eventRet part with
  | none => sameMem s t
  | some e =>
    let q := (s.ret e).eq
    (t.ret e).eqSeq = (s.ret e).eqSeq + 1 ∧
    (q.on = true ∧ q.count < 2 ^ q.log2n → (t.ret e).eq = { q with tail := q.tail + 1 } ∧ wrote s t (q.slot 64 q.tail) (eventHeader type sev (s.ret e).eqSeq.toNat s.wafer r site (s.refCount r) ++ payload32 payload)) ∧
    (¬(q.on = true ∧ q.count < 2 ^ q.log2n) → (t.ret e).eq = q ∧ (t.ret e).eqLost = (s.ret e).eqLost + 1 ∧ sameMem s t)

/-- The reticle of the partition's event queue. -/
def keeper (s : State) (part : Nat) : List Nat := (s.eventRet part).toList

/-- A team that has ended. -/
def hasEnded (x : Team) : Team := { x with stage := .ended, saved := none, held := [], request := none }

/-- The storage of a team's groups on a core is free: no group stands, registers read as reset, the scratchpad allocation reads zero. -/
def vacated (s t : State) (u : Nat) : Prop :=
  let c := (s.team u).core
  (t.core c).groups = (s.core c).groups.filter (fun e => decide (e.2.team ≠ u)) ∧
  (∀ e ∈ (s.core c).groups, e.2.team = u → ∀ i, e.2.regBase ≤ i → i < e.2.regBase + e.2.regN → (t.core c).reg i = {}) ∧
  ∀ a, (s.team u).scratchBase ≤ a → a < (s.team u).scratchBase + (s.team u).lrec.scratch * 4096 → t.scratchByte c a = 0

end Sys2Proof.Claims

/-- R34, R35, R44, R276, R278, R281, R284, R364: groups and teams end, the distributor serves its records, entries reach their clusters, a candidate that fits is admitted and starts, and the holdings of a concurrent grid become reservations. Two clauses are the model's choice (log 1, DESIGN CHOICE): a team whose core is another wafer's goes out with its record (`entriesOut`), and an entry that comes from another wafer makes its team here. -/
def Obligations.LaunchesAndEnds : Prop :=
  (∀ (s : State) (x : Group), let c := s.cur.core
    s.group? c s.cur.slot = some x → x.done = true → x.finished = false → x.pending = [] → x.fences = [] → (s.core c).opsOf s.cur.slot = [] → (s.core c).held = [] →
    Steps .groupEnd s fun t => t.group? c s.cur.slot = some { x with finished := true } ∧ (∀ g, g ≠ s.cur.slot → t.group? c g = s.group? c g) ∧
      { t.core c with groups := (s.core c).groups } = s.core c ∧ Only [c] [] [] s t ∧ sameMem s t) ∧
  (∀ (s : State) (l : Launch), let u := s.cur.team
    let x := s.team u
    s.teamOver u = true → x.stage = .resident → x.held = [] → x.byFault = false → aget s.launches x.launch = some l →
    (1 < l.left → Steps .teamEnd s fun t => t.team? u = some (hasEnded x) ∧ aget t.launches x.launch = some { l with left := l.left - 1 } ∧ vacated s t u ∧ Only [x.core, x.home] [u] [] s t ∧ sameMem s t) ∧
    (l.left = 1 → calm s l.lrec.part → Steps .teamEnd s fun t => t.team? u = some (hasEnded x) ∧ aget t.launches x.launch = none ∧ vacated s t u ∧ Only [x.core, x.home] [u] (keeper s l.lrec.part) s t ∧
      reports s t l.lrec.part l.ret 0xFF 0x0001 0 (bytesLE 4 l.lrec.grid.toNat ++ bytesLE 4 l.lrec.base ++ bytesLE 4 l.lrec.count ++ bytesLE 4 l.lost ++ bytesLE 4 l.faulted ++ bytesLE 8 (s.refCount l.ret).toNat))) ∧
  (∀ (s : State), let ret := s.cur.ret
    (∀ p n, (s.ret ret).serving = none → (s.ret ret).topQueue = some p →
      let q := (s.ret ret).lq p
      let r := LaunchRec.ofNat n
      plainBytes s (q.slot 128 q.head) 128 → natLE (readN s.memByte (q.slot 128 q.head) 128) = n →
      (∀ f, badField n = some f → calm s (s.partOf ret) → Steps .launchRecordRead s fun t => (t.ret ret).lq p = { q with head := q.head + 1 } ∧ (t.ret ret).serving = none ∧ t.launches = s.launches ∧
        reports s t (s.partOf ret) ret 0xFF 0x0002 2 (bytesLE 4 r.grid.toNat ++ bytesLE 4 f ++ bytesLE 4 0xFFFFFFFF) ∧ Only [] [] (ret :: keeper s (s.partOf ret)) s t) ∧
      (∀ homes, s.checkRecord ret n = .ok homes → (∀ e ∈ homes, e.2.1 = s.wafer) → Steps .launchRecordRead s fun t =>
        aget t.launches s.nextId = some { lrec := r, ret := ret, left := homes.length } ∧ (t.ret ret).serving = some p ∧ (t.ret ret).unsent = (List.range homes.length).map (s.nextId + 1 + ·) ∧
        (∀ i e, homes[i]? = some e → t.team? (s.nextId + 1 + i) = some { lrec := r, lin := e.1, launch := s.nextId, stage := .held, home := e.2.2, core := e.2.2, arrived := s.nextId + 1 + i }) ∧
        Only [] ((List.range homes.length).map (s.nextId + 1 + ·)) [ret] s t ∧ sameMem s t)) ∧
    (∀ p u l x, (s.ret ret).serving = some p → p < 4 → (s.ret ret).unsent = u :: l → s.team? u = some x → x.stage = .held → s.entriesAt (retOf x.home) (clusterOf x.home) < 64 →
      Steps .launchRecordRead s fun t => t.team? u = some { x with stage := .entry } ∧ t.agenda = s.agenda ++ [⟨{ ret := retOf x.home, idx := clusterOf x.home, team := u }, .teamEntry (retOf x.home) (.own u)⟩] ∧
        (t.ret ret).unsent = l ∧ (t.ret ret).serving = (if l = [] then none else some p) ∧ ((t.ret ret).lq p).head = ((s.ret ret).lq p).head + (if l = [] then 1 else 0) ∧ Only [] [u] [ret] s t ∧ sameMem s t) ∧
    (∀ p u l x w h, (s.ret ret).serving = some p → p < 4 → (s.ret ret).unsent = u :: l → s.team? u = some x → x.stage = .away → s.ownerPlace x.lrec.part (x.lrec.key x.lin) = some (w, h) →
      Steps .launchRecordRead s fun t => t.entriesOut = (w, x.lin, x.lrec.bytes) :: s.entriesOut ∧ t.agenda = s.agenda ∧ (t.ret ret).unsent = l ∧ ((t.ret ret).lq p).head = ((s.ret ret).lq p).head + (if l = [] then 1 else 0) ∧ Only [] [] [ret] s t ∧ sameMem s t)) ∧
  (∀ (s : State) (ret u : Nat) (x : Team), s.team? u = some x → x.stage = .entry → retOf x.home = ret → (s.ret ret).answers = true → u ∉ (s.cluster ret (clusterOf x.home)).entries →
    (x.lrec.tooBig (s.core x.home) 1 = none → Steps (.teamEntry ret (.own u)) s fun t => (t.cluster ret (clusterOf x.home)).entries = (s.cluster ret (clusterOf x.home)).entries ++ [u] ∧
      (∀ k, k ≠ clusterOf x.home → t.cluster ret k = s.cluster ret k) ∧ Only [] [] [ret] s t ∧ sameMem s t) ∧
    (∀ f l, x.lrec.tooBig (s.core x.home) 1 = some f → x.held = [] → aget s.launches x.launch = some l → 1 < l.left → calm s x.lrec.part → Steps (.teamEntry ret (.own u)) s fun t => t.team? u = some (hasEnded x) ∧
      aget t.launches x.launch = some { l with left := l.left - 1, faulted := l.faulted + 1 } ∧ reports s t x.lrec.part ret 0xFF 0x0002 2 (bytesLE 4 x.lrec.grid.toNat ++ bytesLE 4 f ++ bytesLE 4 x.lin) ∧
      Only [] [u] (keeper s x.lrec.part) s t)) ∧
  (∀ (s : State) (ret w lin h : Nat) (rec : List Byte), let r := LaunchRec.ofNat (natLE rec)
    s.owner r.part (r.key lin) = some h → s.entriesAt (retOf h) (clusterOf h) < 64 → r.tooBig (s.core h) 1 = none → (s.ret (retOf h)).answers = true → s.nextId ∉ (s.cluster (retOf h) (clusterOf h)).entries →
    Steps (.teamEntry ret (.far w lin rec)) s fun t => (∃ x, t.team? s.nextId = some x ∧ x.lrec = r ∧ x.lin = lin ∧ x.stage = .entry ∧ x.home = h ∧ x.core = h ∧ x.origin = some w) ∧
      (t.cluster (retOf h) (clusterOf h)).entries = (s.cluster (retOf h) (clusterOf h)).entries ++ [s.nextId] ∧ (∀ k, k ≠ clusterOf h → t.cluster (retOf h) k = s.cluster (retOf h) k) ∧ Only [] [s.nextId] [retOf h] s t ∧ sameMem s t) ∧
  (∀ (s : State) (u : Nat) (x : Team) (p : Place), let c := s.cur.core
    let r := x.lrec
    s.choice c = some u → s.team? u = some x → x.stage = .entry → x.held = [] → r.cls ≠ 0 → s.place? c r = some p → (∀ e ∈ (s.core c).groups, e.2.team ≠ u) →
    Steps .admission s fun t =>
      t.team? u = some { x with stage := .resident, core := c, scratchBase := p.page * 4096, idem := r.idem, admitted := s.now, codebooks := [], request := none } ∧
      (∀ i role, r.groupRoles[i]? = some role → ∃ g, t.group? c (p.slots.getD i 0) = some g ∧ g.team = u ∧ g.gid = i ∧ g.role = role.1 ∧ g.regN = roleRegs role.2 * 16 ∧ g.accN = roleAcc role.2 ∧
        g.splits = [(0, { pc := r.entry, active := fullMask, ctlSince := s.cycleOf c, laneSince := s.cycleOf c })]) ∧
      (∀ role a, r.groupRoles = [role] → p.regs = [a] → r.args.length ≤ roleRegs role.2 * 16 →
        (∀ j w, r.args[j]? = some w → (t.core c).reg (a * 16 + j) = { val := .uniform w, tag := 8 }) ∧ ∀ j, r.args.length ≤ j → j < roleRegs role.2 * 16 → (t.core c).reg (a * 16 + j) = {}) ∧
      (∀ a, p.page * 4096 ≤ a → a < (p.page + r.scratch) * 4096 → t.scratchByte c a = 0) ∧
      (t.cluster (retOf c) (clusterOf c)).entries = (s.cluster (retOf c) (clusterOf c)).entries.filter (fun v => decide (v ≠ u)) ∧
      Only [c, x.home] [u] [retOf c] s t ∧ sameMem s t) ∧
  (∀ (s : State), let l := s.launchTeams s.cur.idx
    (∀ u ∈ l, ∀ v ∈ l, u ≠ v → (s.team u).core ≠ (s.team v).core) →
    Steps .concurrentHoldTimeout s fun t => (∀ u ∈ l, let c := (s.team u).core
      (t.core c).reserve = if (s.team u).stage = .entry ∧ s.placed u = true ∧ (s.core c).reserve = none then some { team := u, since := s.now } else (s.core c).reserve) ∧
      (∀ y, aget s.launches s.cur.idx = some y → aget t.launches s.cur.idx = some { y with timedOut := true }) ∧ (∀ c, { t.core c with reserve := (s.core c).reserve } = s.core c) ∧ Only (l.map fun u => (s.team u).core) [] [] s t ∧ sameMem s t)

namespace Sys2Proof.Claims

/-- The lowest group of a team that has not been at a blocking point for `PREEMPT_WIN` reference cycles since the request was made, and the lowest of its splits that is not at one. -/
def busyGroup (s : State) (u : Nat) (r : Request) : Option (Nat × Group) :=
  (sortBy (fun a b => decide (a.2.gid < b.2.gid)) (s.groupsOf u)).find? (s.groupOverdue (s.team u).core r)
def busySplit (s : State) (u : Nat) (e : Nat × Group) : Option (Nat × Split) :=
  e.2.splits.find? fun q => !s.splitBlocked (s.team u).core e.1 q.1 q.2

/-- A scheduler's requests for storage: unless the teams asked before make room, the first team at a blocking point that holds no request gets one, with the other resident teams of its grid where that is a concurrent one, and the scheduler asks again 256 reference cycles later. -/
def asks (i : Instr) (s : State) (c t0 prio : Nat) : Prop :=
  ∀ u l, s.askable c prio = u :: l → s.placeWithout c (s.team t0).lrec ((s.core c).teamsOn.filter fun v => (s.team v).request.isSome) = none → (s.team u).request = none → s.team? u ≠ none →
    Steps i s fun t => (t.team u).request = some { source := 1, since := s.now } ∧ (s.now + 256, ⟨s.cur, i⟩) ∈ t.timers ∧ sameMem s t ∧
      ((∀ v ∈ u :: l, (s.team v).lrec.cls ≠ 0) → Only [] (u :: l) [] s t) ∧
      ((s.team u).lrec.cls = 0 → ∀ v ∈ s.launchTeams (s.team u).launch, v ≠ u → s.isResident v = true → (s.team v).request = none → (t.team v).request = some { source := 3, since := s.now })

end Sys2Proof.Claims

/-- R42, R278 to R283, R289 to R293, R365, R366, R370, R372: reservations, requests, donation, eviction, re-admission, abandonment and the wait-cycle probe. Two readings are the model's: re-admission restores what was saved of the team, whatever the bytes of its save area hold by then (log 62, DEDUCED), and the requests of a reservation are repeated every 256 reference cycles (log 33). -/
def Obligations.SchedulingAndProbes : Prop :=
  (∀ (s : State), let c := s.cur.core
    let k := s.core c
    (s.staleReserve c = true → Steps .reservation s fun t => t.core c = { k with reserve := none } ∧ Only [c] [] [] s t ∧ sameMem s t) ∧
    (∀ u, s.staleReserve c = false → s.heldDue c = some u → (s.team u).core = c → Steps .reservation s fun t => t.core c = { k with reserve := some { team := u, since := s.now } } ∧ Only [c] [] [] s t ∧ sameMem s t) ∧
    (s.staleReserve c = false → s.heldDue c = none → s.misfitNow c = none → Steps .reservation s fun t => t.core c = { k with misfit := none } ∧ Only [c] [] [] s t ∧ sameMem s t) ∧
    (∀ u, s.staleReserve c = false → s.heldDue c = none → s.misfitNow c = some u →
      (k.misfit.map Prod.fst ≠ some u → Steps .reservation s fun t => t.core c = { k with misfit := some (u, s.now) } ∧ Only [c] [] [] s t ∧ sameMem s t) ∧
      (∀ z, k.misfit = some (u, z) → k.reserve = none → (z + 4096 ≤ s.now ∧ (s.team u).lrec.cls ≠ 2 → Steps .reservation s fun t => t.core c = { k with reserve := some { team := u, since := s.now } } ∧ Only [c] [] [] s t ∧ sameMem s t) ∧
        (¬(z + 4096 ≤ s.now ∧ (s.team u).lrec.cls ≠ 2) → Steps .reservation s fun t => t.core c = k ∧ Only [] [] [] s t ∧ sameMem s t)))) ∧
  (∀ (s : State) (r : Reserve), (s.core s.cur.core).reserve = some r → r.since + 4096 ≤ s.now → s.placed r.team = false → s.fits s.cur.core r.team = false →
    let p := (s.team r.team).lrec.prio
    (p = 0 → Steps .reservationPreemption s fun t => (s.now + 256, ⟨s.cur, .reservationPreemption⟩) ∈ t.timers ∧ Only [] [] [] s t ∧ sameMem s t) ∧
    (0 < p → asks .reservationPreemption s s.cur.core r.team (p - 1))) ∧
  (∀ (s : State), (s.team s.cur.team).stage = .evicted → s.wakes s.cur.team = true → s.fits (s.homeNow s.cur.team) s.cur.team = false →
    asks .preemptionRequestRepeat s (s.homeNow s.cur.team) s.cur.team (s.team s.cur.team).lrec.prio) ∧
  (∀ (s : State), let ret := s.cur.ret
    let k := s.cur.idx
    let x := s.cluster ret k
    let becomes (t : State) (y : Cluster) : Prop := t.cluster ret k = y ∧ (∀ j, j ≠ k → t.cluster ret j = s.cluster ret j) ∧ Only [] [] [ret] s t ∧ sameMem s t
    (s.clusterIdle ret k = false → Steps .idleCluster s fun t => becomes t { x with idleSince := none, askRound := 0 }) ∧
    (s.clusterIdle ret k = true → x.idleSince = none → Steps .idleCluster s fun t => becomes t { x with idleSince := some s.now } ∧ t.agenda = s.agenda) ∧
    (∀ z v l, s.clusterIdle ret k = true → x.idleSince = some z → z + 1024 ≤ s.now → x.asking = false → s.askOrder ret k = v :: l →
      Steps .idleCluster s fun t => becomes t { x with asking := true, askedLast := v } ∧ t.agenda = s.agenda ++ [⟨{ ret := ret, idx := v }, .stealRequest ret v k⟩]) ∧
    Steps .stealBackoff s fun t => becomes t { x with asking := false }) ∧
  (∀ (s : State) (ret victim thief : Nat), let l := s.stealable ret victim thief
    (∀ u ∈ l, s.team? u ≠ none) → Steps (.stealRequest ret victim thief) s fun t =>
      (t.cluster ret victim).entries = (s.cluster ret victim).entries.filter (fun u => !l.contains u) ∧ (∀ j, j ≠ victim → t.cluster ret j = s.cluster ret j) ∧
      (∀ u ∈ l, t.team u = { s.team u with core := ret * 72 + 2 * thief }) ∧ t.agenda = s.agenda ++ [⟨{ ret := ret, idx := thief }, .stealAnswer ret thief l⟩] ∧
      Only [ret * 72 + 2 * victim, ret * 72 + 2 * victim + 1] l [ret] s t ∧ sameMem s t) ∧
  (∀ (s : State) (ret k : Nat) (l : List Nat), let x := s.cluster ret k
    let becomes (t : State) (y : Cluster) : Prop := t.cluster ret k = y ∧ (∀ j, j ≠ k → t.cluster ret j = s.cluster ret j) ∧ Only [] [] [ret] s t ∧ sameMem s t
    ((s.ret ret).answers = false → Steps (.stealAnswer ret k l) s fun t => t = s) ∧
    ((s.ret ret).answers = true → l ≠ [] → (∀ u ∈ l, (s.team u).stage = .entry ∧ (s.team u).core = ret * 72 + 2 * k ∧ u ∉ x.entries) →
      Steps (.stealAnswer ret k l) s fun t => becomes t { x with asking := false, askRound := 0, idleSince := none, entries := x.entries ++ l }) ∧
    ((s.ret ret).answers = true → x.askRound + 1 < (s.askOrder ret k).length → Steps (.stealAnswer ret k []) s fun t => becomes t { x with asking := false, askRound := x.askRound + 1 }) ∧
    ((s.ret ret).answers = true → (s.askOrder ret k).length ≤ x.askRound + 1 → Steps (.stealAnswer ret k []) s fun t => becomes t { x with askRound := 0 } ∧ (s.now + 4096, ⟨{ ret := ret, idx := k }, .stealBackoff⟩) ∈ t.timers)) ∧
  (∀ (s : State), let u := s.cur.team
    let x := s.team u
    let img := s.saveImage x (s.context u)
    let a (k : Nat) : Nat := bitsOf (s.ret (s.saveRet u)).saveBase.toNat 55 16 * 65536 + k * 65536
    (∀ k, s.mayEvict u = true → x.lrec.cls ≠ 0 → rising 0 (s.core x.core).groups = true → (∀ e ∈ s.groupsOf u, e.2.pending = []) → (∀ e ∈ (s.core x.core).l1, e.dirty = 0) → s.saveRun (s.saveRet u) (saveUnits img) = some k → plainBytes s (a k) img.length →
      Steps .eviction s fun t => t.team? u = some { x with stage := .evicted, saved := some (s.context u), saveAt := some (a k, saveUnits img), evictedAt := s.now, request := none, core := x.home } ∧
        wrote s t (a k) img ∧ vacated s t u ∧ (k, saveUnits img) ∈ (t.ret (s.saveRet u)).saveUsed ∧ Only [x.core, x.home] [u] [s.saveRet u] s t) ∧
    (s.mayStop u = true → x.lrec.cls ≠ 0 → rising 0 (s.core x.core).groups = true → Steps .abandonment s fun t => t.team? u = some { x with abandoned := true, request := none } ∧ (∀ e ∈ s.groupsOf u, t.group? x.core e.1 = some { e.2 with splits := [], fences := [] }) ∧
      (∀ e ∈ (s.core x.core).groups, e.2.team ≠ u → e ∈ (t.core x.core).groups) ∧ Only [x.core] [u] [] s t ∧ sameMem s t) ∧
    (s.mayStop u = false → s.mayRestart u = true → x.stage = .resident → x.lrec.cls ≠ 0 → x.held = [] → Steps .abandonment s fun t => t.team? u = some { x with stage := .evicted, saved := none, held := [], evictedAt := s.now, request := none, gbar := none, gbarSent := false, drainSet := none, arrivals := [], abandoned := false, core := x.home } ∧
      vacated s t u ∧ Only [x.core, x.home] [u] [] s t ∧ sameMem s t) ∧
    (∀ r e q, s.overdue u = true → x.request = some r → busyGroup s u r = some e → busySplit s u e = some q → calm s x.lrec.part → Steps .preemptionOverdue s fun t =>
      t.team? u = some { x with request := some { r with overdue := true } } ∧ Only [] [u] (keeper s x.lrec.part) s t ∧
      reports s t x.lrec.part (retOf x.core) (siteOf x.core) 0x0004 1
        (bytesLE 4 x.lrec.grid.toNat ++ bytesLE 4 x.lin ++ bytesLE 1 e.2.gid ++ bytesLE 1 q.1 ++ bytesLE 1 r.source ++ bytesLE 1 0 ++ bytesLE 4 (s.ret (retOf x.core)).preemptWin ++ bytesLE 8 q.2.pc.toNat))) ∧
  (∀ (s : State) (u : Nat) (x : Team) (p : Place), let c := s.cur.core
    s.choice c = some u → s.team? u = some x → x.stage = .evicted → x.lrec.cls ≠ 0 → s.place? c x.lrec = some p → (∀ e ∈ (s.core c).groups, e.2.team ≠ u) → x.held = [] → s.saveLost u = none → s.saveWaits u = false → unleased s →
    (x.saved = none → Steps .reAdmission s fun t => t.team? u = some { x with stage := .resident, core := c, scratchBase := p.page * 4096, idem := x.lrec.idem, admitted := s.now, codebooks := [], request := none } ∧
      (∀ i role, x.lrec.groupRoles[i]? = some role → ∃ g, t.group? c (p.slots.getD i 0) = some g ∧ g.team = u ∧ g.gid = i ∧ g.splits = [(0, { pc := x.lrec.entry, active := fullMask, ctlSince := s.cycleOf c, laneSince := s.cycleOf c })]) ∧
      Only [c, x.home] [u] [retOf c] s t ∧ sameMem s t) ∧
    (∀ v g rs ts role a b z n, x.saved = some v → v.groups = [g] → v.regs = [rs] → v.tiles = [ts] → g.gid = 0 → g.failed = [] → x.saveAt = some (z, n) → x.lrec.groupRoles = [role] → p.regs = [a] → p.accs = [b] →
      rs.length ≤ roleRegs role.2 * 16 → v.scratch.all (fun e => decide (e.1 < x.lrec.scratch * 4096)) = true → (v.scratch.map Prod.fst).Nodup →
      Steps .reAdmission s fun t => t.team? u = some { x with stage := .resident, core := c, scratchBase := p.page * 4096, saved := none, saveAt := none, admitted := s.now } ∧
        (∃ y, t.group? c (p.slots.getD 0 0) = some y ∧ y.regBase = a * 16 ∧ y.accBase = b ∧ y.masks = g.masks ∧ y.batch = g.batch ∧ y.token = g.token ∧ y.tokens = g.tokens ∧ y.gang = g.gang ∧
          y.splits.map (fun e => (e.1, e.2.pc, e.2.active, e.2.loops)) = g.splits.map fun e => (e.1, e.2.pc, e.2.active, e.2.loops)) ∧
        (∀ j w, rs[j]? = some w → (t.core c).reg (a * 16 + j) = w) ∧ (∀ e ∈ v.scratch, t.scratchByte c (p.page * 4096 + e.1) = e.2) ∧
        Only [c, x.home] [u] [retOf c, s.saveRet u] s t ∧ sameMem s t)) ∧
  (∀ (s : State) (w : ProbeUnit), let u := s.cur.team
    s.probeDue u = true → (groupUnits u ((s.groupsOf u).map Prod.snd)).filter s.unitBlocked = [w] → (∀ r ∈ s.probes, r.id ≠ s.nextId) → s.awaited w ≠ [] →
    Steps .waitCycleProbeStart s fun t => (t.team u).probed = s.blockedSince u + 1 ∧ t.probes = s.probes ++ [{ id := s.nextId, team := u, copies := (s.awaited w).eraseDups.length, record := none }] ∧
      t.agenda = s.agenda ++ (s.awaited w).eraseDups.map (fun v => ⟨{ idx := s.nextId }, .probeMessage { run := s.nextId, dest := v, path := [w] }⟩) ∧ Only [] [u] [] s t ∧ sameMem s t) ∧
  (∀ (s : State) (m : ProbeMsg) (r : ProbeRun), s.probes = [r] → r.id = m.run →
    let x := s.team r.team
    let back : Prop := 2 ≤ m.path.length ∧ (m.path.head? = some m.dest ∨ (m.dest = .team r.team ∧ s.unitBlocked m.dest = true))
    (back → 1 < r.copies → calm s x.lrec.part → Steps (.probeMessage m) s fun t => t.probes = [{ r with found := true, copies := r.copies - 1 }] ∧
      (t.core x.home).plogHead = (s.core x.home).plogHead + 1 ∧ (∀ i v, m.path[i]? = some v → i < 16 → (t.core x.home).plog[i]? = some (s.probeEntry v)) ∧ Only [x.home] [] (keeper s x.lrec.part) s t ∧
      reports s t x.lrec.part (retOf x.home) (siteOf x.home) 0x0003 2 (bytesLE 4 x.lrec.grid.toNat ++ bytesLE 4 x.lin ++ bytesLE 1 m.path.length ++ zeros 3 ++ bytesLE 4 ((s.core x.home).plogHead + 1).toNat)) ∧
    (¬back → s.unitBlocked m.dest = false ∨ 16 ≤ m.path.length → r.record = none →
      Steps (.probeMessage m) s fun t => t.probes = (if r.copies ≤ 1 then [] else [{ r with copies := r.copies - 1 }]) ∧ t.agenda = s.agenda ∧ Only [] [] [] s t ∧ sameMem s t) ∧
    (¬back → s.unitBlocked m.dest = true → m.path.length < 16 → 1 < r.copies →
      let l := (s.awaited m.dest).eraseDups.filter fun v => decide ((m.path ++ [m.dest]).head? = some v) || !(m.path ++ [m.dest]).contains v
      Steps (.probeMessage m) s fun t => t.probes = [{ r with copies := r.copies + l.length - 1 }] ∧
        t.agenda = s.agenda ++ l.map (fun v => ⟨{ idx := m.run }, .probeMessage { run := m.run, dest := v, path := m.path ++ [m.dest] }⟩) ∧ Only [] [] [] s t ∧ sameMem s t))

/-! ### Packets (R126, R253, R254, R295, R301 to R305, R378 to R380, R385) -/

namespace Sys2Proof.Claims

/-- The acknowledgement of a packet is on its way to its sender (R126). -/
def acked (s t : State) (k : Packet) : Prop :=
  if k.srcWafer = s.wafer then ⟨{ ret := k.srcRet, idx := k.psn }, .acknowledgement k.srcRet k.psn⟩ ∈ t.agenda else (k.srcWafer, k.srcRet, k.psn) ∈ t.ackbox

/-- The reticle of the port that a packet from reticle `r` leaves by, if it leaves by one. -/
def via (s : State) (r wafer ret : Nat) : List Nat := match s.route r (s.ret r).bank wafer ret with
  | .port p => [p / 2]
  | _ => []

/-- Reticle `r` sends one packet back to the sender of `k`, under the next sequence number: of this operation, offset and payload, with the tag of `k`. -/
def replies (s t : State) (k : Packet) (op : Nat) (offset : Dword) (payload : List Byte) : Prop :=
  (t.ret k.dstRet).psn = (s.ret k.dstRet).psn + 1 ∧
  ∃ x ∈ (t.ret k.dstRet).tx, x.pkt.psn = (s.ret k.dstRet).psn ∧ x.pkt.op = op ∧ x.pkt.offset = offset ∧ x.pkt.payload = payload ∧ x.pkt.dstWafer = k.srcWafer ∧ x.pkt.dstRet = k.srcRet ∧
    x.pkt.tagRet = k.tagRet ∧ x.pkt.tagSite = k.tagSite ∧ x.pkt.tagSeq = k.tagSeq ∧ x.attempt = 1

/-- A packet that its reticle has neither applied nor refused before. -/
def unmet (s : State) (k : Packet) : Prop := s.seen k = false ∧ s.refused k = false

/-- A request that its reticle meets for the first time, whose turn has come, and that belongs to a key of it. -/
def fresh (s : State) (k : Packet) : Prop := unmet s k ∧ s.early k = false ∧ k.part = s.partOf k.dstRet ∧ (s.ret k.dstRet).answers = true ∧ keyRet k.key = k.dstRet

/-- A request that its key admits (R301). -/
def admitted (s : State) (k : Packet) (right : Nat) : Prop :=
  fresh s k ∧ (s.key k.dstRet (keyIdx k.key)).refuses k right = none ∧ (s.key k.dstRet (keyIdx k.key)).inflight < 65535

/-- The request is performed at a key of a memory region whose bytes are those of `l`, all plain DRAM. -/
def atRegion (s : State) (k : Packet) (l : List Nat) : Prop :=
  (s.key k.dstRet (keyIdx k.key)).kind = 0 ∧ (∃ m, (s.key k.dstRet (keyIdx k.key)).span k.offset.toNat k.len = some m ∧ m.map Prod.fst = l) ∧ l.Nodup ∧ ∀ a ∈ l, plainBytes s a 1 ∧ s.slotWaits a = false

/-- Each request step, with the right that it needs (R301). -/
def requests (k : Packet) : List (Instr × Nat) := [(.put k, 1), (.getRequest k, 0), (.atomic k, 2)]

/-- The job that the tag of a packet names: on its core, without error, its completion a token, under an id of its own. -/
def tagged (s : State) (k : Packet) (c : Nat) (j : Job) : Prop :=
  s.tagJob k = some (c, j) ∧ j.error = none ∧ ((s.core c).jobs.map Job.id).Nodup ∧ ∃ w, j.compl = .token w

end Sys2Proof.Claims

/-- R126, R253, R254, R295, R301 to R305, R309, R363, R378, R380, R385: what arriving packets, acknowledgements, refusals and expiring timers do. Two readings are the model's, DEDUCED: the error-log address of a failed packet stands for the target reticle's base (log 42), and a get request is acknowledged at its admission (log 50). -/
def Obligations.Packets : Prop :=
  (∀ (s : State) (k : Packet) (i : Instr), i ∈ [Instr.put k, .getRequest k, .getData k, .atomic k, .atomicResult k, .collectiveChunk k, .semanticNack k] → s.seen k = true →
    Steps i s fun t => acked s t k ∧ Only [] [] [] s t ∧ sameMem s t) ∧
  (∀ (s : State) (k : Packet) (l : List Nat), atRegion s k l →
    let r := k.dstRet
    let out := r :: via s r k.srcWafer k.srcRet
    (admitted s k 1 → k.op = 1 → k.payload.length = k.len → Steps (.put k) s fun t => acked s t k ∧ (∀ i a, l[i]? = some a → t.memByte a = k.payload.getD i 0) ∧ (∀ a, a ∉ l → t.memByte a = s.memByte a) ∧
      t.seen k = true ∧ t.key r (keyIdx k.key) = s.key r (keyIdx k.key) ∧ Only [] [] [r] s t) ∧
    (admitted s k 0 → k.op = 2 → Steps (.getRequest k) s fun t => acked s t k ∧ replies s t k 3 k.offset (l.map s.memByte) ∧ t.seen k = true ∧ t.key r (keyIdx k.key) = s.key r (keyIdx k.key) ∧ Only [] [] out s t ∧ sameMem s t) ∧
    (admitted s k 2 → k.op = 4 → k.len = 4 →
      let old := wordLE (l.map s.memByte)
      Steps (.atomic k) s fun t => acked s t k ∧ replies s t k 5 k.offset (l.map s.memByte) ∧ t.seen k = true ∧ t.key r (keyIdx k.key) = s.key r (keyIdx k.key) ∧
        (∀ i a, l[i]? = some a → t.memByte a = byteOf (atomNew k old) i) ∧ (∀ a, a ∉ l → t.memByte a = s.memByte a) ∧ Only [] [] out s t)) ∧
  (∀ (s : State) (k : Packet) (e : Instr × Nat), e ∈ requests k →
    let r := k.dstRet
    let y := s.key r (keyIdx k.key)
    let out := r :: via s r k.srcWafer k.srcRet
    (∀ reason, fresh s k → y.refuses k e.2 = some reason → Steps e.1 s fun t => replies s t k 10 (BitVec.ofNat 64 reason) [] ∧ (t.ret r).rlogHead = (s.ret r).rlogHead + 1 ∧ t.refused k = true ∧ t.key r (keyIdx k.key) = y ∧ Only [] [] out s t ∧ sameMem s t) ∧
    (s.refused k = true → s.seen k = false → Steps e.1 s fun t => t = s) ∧
    (unmet s k → s.early k = false → k.part ≠ s.partOf r → calm s (s.partOf r) → Steps e.1 s fun t => replies s t k 10 3 [] ∧ (t.ret r).rlogHead = (s.ret r).rlogHead + 1 ∧ t.refused k = true ∧
      reports s t (s.partOf r) r 0xFF 0x0011 2 (bytesLE 8 (k.srcWafer * 2 ^ 42 + k.srcRet * 2 ^ 36) ++ bytesLE 1 k.part) ∧ Only [] [] (out ++ keeper s (s.partOf r)) s t) ∧
    (∀ u x, admitted s k e.2 → y.kind = 1 → s.keyTeam y = some u → s.team? u = some x → x.stage = .evicted → Steps e.1 s fun t =>
      t.team? u = some { x with held := x.held ++ [{ tile := none, req := some k }] } ∧ (t.key r (keyIdx k.key)).inflight = y.inflight + 1 ∧ t.seen k = true ∧ Only [] [u] [r] s t ∧ sameMem s t)) ∧
  (∀ (s : State) (k : Packet) (u : Nat) (x : Team), let y := s.key k.dstRet (keyIdx k.key)
    admitted s k 1 → k.op = 1 → y.kind = 1 → s.keyTeam y = some u → s.team? u = some x → x.stage = .resident → k.bar = none → k.payload.length = k.len → k.offset.toNat + k.len ≤ x.lrec.scratch * 4096 → x.scratchBase + x.lrec.scratch * 4096 ≤ 2 ^ 20 →
    let a := x.scratchBase + k.offset.toNat
    Steps (.put k) s fun t => acked s t k ∧ (∀ i, i < k.len → t.scratchByte x.core (a + i) = k.payload.getD i 0) ∧ (∀ z, ¬(a ≤ z ∧ z < a + k.len) → t.scratchByte x.core z = s.scratchByte x.core z) ∧
      t.seen k = true ∧ t.key k.dstRet (keyIdx k.key) = y ∧ Only [x.core] [] [k.dstRet] s t ∧ sameMem s t) ∧
  (∀ (s : State) (k : Packet) (c : Nat) (j : Job) (l : Landing), unmet s k → k.part = s.partOf k.dstRet → tagged s k c j → j.flight = [l] → l.late = none → k.payload ≠ [] →
    let n := k.payload.length
    let comes (t : State) (f : List Landing) : Prop := acked s t k ∧ { j with acks := j.acks - 1, flight := f } ∈ (t.core c).jobs ∧ Only [c] [] [k.dstRet] s t ∧ sameMem s t
    let waits (o at' : Nat) : List Landing := [{ l with reads := cutFrom l.reads o n, pieces := l.pieces ++ [(o, spaceOf j.team (bitOf j.var 0), at', k.payload)] }]
    (j.cmd = 4 → let o := (k.offset - mkD (j.words.getD 2 0) (j.words.getD 1 0)).toNat
      (∃ e ∈ l.reads, e.1 ≤ o ∧ o < e.2) → Steps (.getData k) s fun t => comes t (waits o (wrapAt (spaceOf j.team (bitOf j.var 0)) ((place1 j.words 4 (bitOf j.var 0) : Int) + o)))) ∧
    (j.cmd = 5 → l.reads = [(0, 4)] → l.pieces = [] → n = 4 →
      (dword j.words 7 ≠ 2 ^ 64 - 1 → Steps (.atomicResult k) s fun t => comes t (waits 0 (wrapAt (spaceOf j.team (bitOf j.var 0)) (place1 j.words 7 (bitOf j.var 0))))) ∧
      (dword j.words 7 = 2 ^ 64 - 1 → Steps (.atomicResult k) s fun t => comes t []))) ∧
  (∀ (s : State) (k : Packet) (g : CollTag) (c : Nat) (j : Job) (x : CollState), unmet s k → k.part = s.partOf k.dstRet → (s.ret k.dstRet).answers = true → s.chunkJob k = some (c, j) → retOf c = k.dstRet → k.coll = some g → g.stage = 1 →
    j.error = none → s.job? c j.id = some j → s.coll? c j.id = some x → ((s.ret (retOf c)).colls.filter fun y => decide (y.core = c) && decide (y.job = j.id)).length = 1 →
    (x.parts.filter fun y => decide (y.coll.map CollTag.unit = some g.unit)).length + 1 = (s.planOf j).p →
    Steps (.collectiveChunk k) s fun t => acked s t k ∧ t.coll? c j.id = some { x with parts := x.parts ++ [k] } ∧ ⟨{ core := c, ret := retOf c, idx := j.id }, .collectiveFold (retOf c) c j.id g.unit⟩ ∈ t.agenda ∧ Only [] [] [k.dstRet] s t ∧ sameMem s t) ∧
  (∀ (s : State) (r psn : Nat) (x : TxPacket), s.sent? r psn = some x → x.port = none →
    let gone (t : State) : Prop := (t.ret r).tx = (s.ret r).tx.filter fun y => decide (y.pkt.psn ≠ psn)
    let fails (t : State) (c : Nat) (j : Job) (reason : Nat) : Prop := { j with error := some { reason := reason, space := 2, addr := BitVec.ofNat 64 (targetBase x.pkt.dstWafer x.pkt.dstRet) }, seg := x.segment, flight := [] } ∈ (t.core c).jobs ∧ (x.pkt.op = 4 → Only [c] [] [r] s t ∧ sameMem s t)
    let asks (j : Job) : Prop := (x.pkt.op = 2 ∧ j.cmd = 4 ∨ x.pkt.op = 4 ∧ j.cmd = 5) ∧ ∀ l ∈ j.flight, l.reads ≠ [] ∧ l.late = none
    (x.pkt.op ≠ 1 ∨ s.postedOf (pktTag x.pkt) = none → Steps (.acknowledgement r psn) s fun t => gone t ∧ Only [] [] [r] s t ∧ sameMem s t) ∧
    (∀ u gid q g y, x.pkt.op = 1 → s.postedOf (pktTag x.pkt) = some (u, gid, q) → 1 < q.left → s.slotOf u gid = some g → s.group? (s.team u).core g = some y → Steps (.acknowledgement r psn) s fun t => gone t ∧
      t.group? (s.team u).core g = some { y with posted := y.posted.map fun p => if p.job = pktTag x.pkt then { p with left := p.left - 1 } else p } ∧ Only [(s.team u).core] [] [r] s t ∧ sameMem s t) ∧
    (∀ c j k, unmet s k → k.dstRet = r → k.part = s.partOf r → k.len = psn → asks j → tagged s x.pkt c j → j.far = false →
      Steps (.semanticNack k) s fun t => acked s t k ∧ gone t ∧ fails t c j (if k.offset.toNat % 256 = 3 ∨ k.offset.toNat % 256 = 6 then 3 else 5)) ∧
    (∀ attempt, x.attempt = attempt → attempt < 8 → s.route r x.pkt.bank x.pkt.dstWafer x.pkt.dstRet = .mesh → x.pkt.ordered = false → s.heldBack x.pkt = false →
      ∀ i, i ∈ [Instr.retransmissionTimeout r psn attempt, .packetDeliveryNack r psn] → Steps i s fun t =>
        (t.ret r).tx = (s.ret r).tx.map (fun y => if y.pkt.psn = psn then { x with attempt := attempt + 1, port := none, path := some 0 } else y) ∧
        (s.now + (20000 * 2 ^ attempt + s.pauseLeft r), ⟨{ ret := r, idx := psn }, .retransmissionTimeout r psn (attempt + 1)⟩) ∈ t.timers ∧
        t.agenda = s.agenda ++ [⟨unitOf x.pkt, arrivalOf x.pkt⟩] ∧ Only [] [] [r] s t ∧ sameMem s t) ∧
    (∀ c j, x.attempt = 8 → asks j → tagged s x.pkt c j → j.far = false → Steps (.retransmissionTimeout r psn 8) s fun t => gone t ∧ fails t c j 10) ∧
    (∀ c j, x.attempt = 8 → x.pkt.op = 5 → x.pkt.dstWafer = s.wafer → tagged s x.pkt c j → j.cmd = 5 → (∀ l ∈ j.flight, l.reads ≠ [] ∧ l.late = none) → Steps (.retransmissionTimeout r psn 8) s fun t => gone t ∧
      { j with error := some { reason := 10, space := 2, addr := BitVec.ofNat 64 (targetBase x.pkt.srcWafer x.pkt.srcRet) }, seg := 0, flight := [] } ∈ (t.core c).jobs ∧ Only [c] [] [r] s t ∧ sameMem s t) ∧
    (∀ a, x.attempt = a → s.heldBack x.pkt = true → Steps (.retransmissionTimeout r psn a) s fun t => (t.ret r).tx = (s.ret r).tx ∧ t.agenda = s.agenda ∧ Only [] [] [] s t ∧ sameMem s t ∧
      ∃ z, (z, ⟨{ ret := r, idx := psn }, .retransmissionTimeout r psn a⟩) ∈ t.timers) ∧
    (x.attempt = 8 → Steps (.packetDeliveryNack r psn) s fun t => (t.ret r).tx = (s.ret r).tx ∧ t.agenda = s.agenda ∧ Only [] [] [] s t ∧ sameMem s t)) ∧
  (∀ (s : State) (k : Packet), ¬(1 ≤ k.op ∧ k.op ≤ 10) → Steps (.unassignedOperation k) s fun t =>
    t.ret k.dstRet = { s.ret k.dstRet with logged := BitVec.ofNat 64 (targetBase k.srcWafer k.srcRet) :: (s.ret k.dstRet).logged } ∧ Only [] [] [k.dstRet] s t ∧ sameMem s t) ∧
  (∀ (s : State), let r := s.cur.ret
    let e := s.key r s.cur.idx
    e.state = 2 → e.inflight = 0 → e.records = [] → calm s e.part → Steps .keyDrained s fun t => t.key r s.cur.idx = { e with state := 0, locked := [], records := [] } ∧ (∀ i, i ≠ s.cur.idx → t.key r i = s.key r i) ∧
      reports s t e.part r 0xFF 0x0010 0 (bytesLE 4 (r * 2 ^ 26 + s.cur.idx * 2 ^ 14 + e.gen)) ∧ Only [] [] (r :: keeper s e.part) s t)

/-! ### Ports and links (R298, R306, R307, R311, R326, R381 to R387) -/

namespace Sys2Proof.Claims

/-- Port `p` becomes `y`, and nothing else of the ports, cores, teams, other reticles or DRAM changes. -/
def portIs (s t : State) (p : Nat) (y : PortState) : Prop := t.port p = y ∧ (∀ q, q ≠ p → t.port q = s.port q) ∧ Only [] [] [p / 2] s t ∧ sameMem s t

/-- The same, with one event about the port (R313). -/
def portSays (s t : State) (p : Nat) (y : PortState) (type sev st : Nat) (more : List Byte) : Prop :=
  t.port p = y ∧ (∀ q, q ≠ p → t.port q = s.port q) ∧ Only [] [] (p / 2 :: keeper s (s.partOf (p / 2))) s t ∧
  reports s t (s.partOf (p / 2)) (p / 2) 0xFF type sev (bytesLE 2 p ++ bytesLE 2 st ++ more)

/-- A port that is down (R381). -/
def down (x : PortState) : PortState := { x with st := 0, lit := 0, waking := [], replays := 0, retrains := 0, sweep := none, change := none }

/-- No traffic waits at a port or for it, and it belongs to no topology change. -/
def unused (s : State) (p : Nat) : Prop :=
  (s.port p).queue = [] ∧ (s.port p).change = none ∧ (∀ r, ∀ x ∈ (s.ret r).tx, x.port ≠ some p) ∧ ∀ c, ∀ j ∈ (s.core c).jobs, j.path ≠ some (p + 1)

/-- The topology change of a port, if it belongs to one, still runs. -/
def goesOn (s : State) (p : Nat) : Prop := ∀ id, (s.port p).change = some id → aget s.changes id ≠ none

end Sys2Proof.Claims

/-- R297, R298, R306, R307, R311, R326, R381 to R387: lanes, retries, pauses and samples of the optical ports, ports that go down, the steps of a topology change, holes and lost bus wires. Readings of the model: a sample is counted in units of 4,096 bytes with the packets' headers (logs 43, 57), packets still queued count as sent in a sweep (log 53), the last port of a change brings all of them to `ST` 8 (log 55), and a boundary that fails enters the stored defects of both its reticles (log 56). -/
def Obligations.PortsAndLinks : Prop :=
  (∀ (s : State) (p : Nat), let x := s.port p
    let quietly := calm s (s.partOf (p / 2))
    (∀ l, Steps (.linkControlFlit p l) s fun t => portIs s t p { x with peerLit := l }) ∧
    Steps (.linkLevelPause p true) s (fun t => portIs s t p { x with paused := true } ∧ t.outbox = s.outbox) ∧
    (x.queue = [] → Steps (.linkLevelPause p false) s fun t => portIs s t p { x with paused := false } ∧ t.outbox = s.outbox) ∧
    (x.queue ≠ [] → (s.ret (p / 2)).pausing = false → x.lit ≠ 0 → x.st = 8 → Steps (.linkLevelPause p false) s fun t => t.outbox = x.queue.reverse ++ s.outbox ∧ (t.port p).queue = [] ∧ (t.port p).paused = false ∧
      (t.port p).psnSent = x.psnSent + x.queue.length ∧ (∀ q, q ≠ p → t.port q = s.port q) ∧ Only [] [] [p / 2] s t ∧ sameMem s t) ∧
    (x.st ≠ 0 → Steps (.llrReplay p true) s fun t => portIs s t p { x with replays := 0, retrains := 0 }) ∧
    (x.st ≠ 0 → x.replays < 2 → Steps (.llrReplay p false) s fun t => portIs s t p { x with replays := x.replays + 1 }) ∧
    (x.st ≠ 0 → 2 ≤ x.replays → x.retrains < 3 → quietly → Steps (.llrReplay p false) s fun t => portSays s t p { x with replays := 0, retrains := x.retrains + 1 } 0x0024 1 x.st []) ∧
    (x.st ≠ 0 → 2 ≤ x.replays → 3 ≤ x.retrains → quietly → unused s p → Steps (.llrReplay p false) s fun t => portSays s t p (down x) 0x0020 2 x.st (bytesLE 1 2)) ∧
    (∀ n, n < 4 → x.waking.any (fun e => decide (e.1 = n)) = true → x.queue = [] → Steps (.laneLit p n) s fun t =>
      portIs s t p { x with lit := x.lit ||| (1#4 <<< n), waking := x.waking.filter (fun e => decide (e.1 ≠ n)), lastFlit := tset 0 x.lastFlit n s.now } ∧ ∃ z, (z, ⟨laneUnit p n, .laneDarkTimeout⟩) ∈ t.timers) ∧
    let major : Prop := (s.ret (p / 2)).inSlot = true ∧ (s.ret (p / 2)).slotN % 16 = 0
    (∀ w : Word, x.st = 6 → major → Steps (.linkTraining p w) s fun t => t = s) ∧
    (∀ w : Word, x.st = 6 → ¬major → x.change = none → Steps (.linkTraining p w) s fun t => portIs s t p { x with st := 7, peer := w &&& 0x1FFFFF, failedLanes := [], replays := 0, retrains := 0 }) ∧
    (∀ w : Word, x.up = true → Steps (.linkTraining p w) s fun t => portIs s t p { x with peer := w &&& 0x1FFFFF, failedLanes := [], replays := 0, retrains := 0 }) ∧
    (∀ (w : Word) i g, x.st = 6 → ¬major → x.change = some i → aget s.changes i = some g → p ∈ g.ports →
      ((∃ q ∈ g.ports, q ≠ p ∧ (s.port q).st ≠ 7) → Steps (.linkTraining p w) s fun t => portIs s t p { x with st := 7, peer := w &&& 0x1FFFFF, failedLanes := [], replays := 0, retrains := 0 } ∧ t.changes = s.changes) ∧
      ((∀ q ∈ g.ports, q ≠ p → (s.port q).st = 7) → Steps (.linkTraining p w) s fun t => aget t.changes i = none ∧ (t.port p).peer = w &&& 0x1FFFFF ∧ (∀ q ∈ g.ports, (t.port q).st = 8 ∧ (t.port q).change = none) ∧
        ∀ r ∈ s.partRets g.part, (t.ret r).arming = none ∧ (t.ret r).armed = decide ((s.ret r).bank ≠ decide (g.bank = 1)))) ∧
    (∀ stage, x.st = stage → stage ≠ 0 → (∃ i, x.change = some i ∧ aget s.changes i = none) → (s.port p).queue = [] → (∀ r, ∀ y ∈ (s.ret r).tx, y.port ≠ some p) → (∀ c, ∀ j ∈ (s.core c).jobs, j.path ≠ some (p + 1)) → quietly →
      Steps (.topologyStepTimeout p stage) s fun t => portSays s t p (down x) 0x0020 2 stage (bytesLE 1 5)) ∧
    (∀ stage i g, x.st = stage → stage ≠ 0 → stage ≠ 8 → x.change = some i → aget s.changes i = some g → p ∈ g.ports → g.ports.Nodup → Steps (.topologyStepTimeout p stage) s fun t => aget t.changes i = none ∧ (t.port p).st = 0 ∧
      (∀ q ∈ g.ports, q ≠ p → (s.port q).change = some i → ((s.port q).st = 1 → (t.port q).st = 8 ∧ (t.port q).peer = (s.port q).oldPeer) ∧ ((s.port q).st = 7 → (t.port q).st = 0)) ∧ ∀ r ∈ s.partRets g.part, (t.ret r).arming = none)) ∧
  (∀ (s : State), let p := s.cur.idx
    let x := s.port p
    let quietly := calm s (s.partOf (p / 2))
    let bound (d : Nat) : Nat := s.now + (d + if (s.ret (p / 2)).inSlot then (s.ret (p / 2)).slotEnd - s.now else 0)
    ((s.ret (p / 2)).inSlot = false → x.up = true ∨ x.st = 1 → quietly → unused s p → Steps .linkSilenceTimeout s fun t => portSays s t p (down x) 0x0020 2 x.st (bytesLE 1 1)) ∧
    (∀ n, s.laneToWake p = some n → Steps .laneWake s fun t => portIs s t p { x with waking := x.waking ++ [(n, s.now)] } ∧ (s.now + 3000, ⟨laneUnit p n, .laneLit p n⟩) ∈ t.timers) ∧
    (x.st = 1 → x.sweep ≠ some (x.psnSent + x.queue.length, x.psnAcked) ∨ x.psnSent + x.queue.length ≠ x.psnAcked → Steps .portDrained s fun t => portIs s t p { x with sweep := some (x.psnSent + x.queue.length, x.psnAcked) } ∧ t.agenda = s.agenda) ∧
    (x.st = 1 → x.sweep = some (x.psnSent + x.queue.length, x.psnAcked) → x.psnSent + x.queue.length = x.psnAcked → goesOn s p → Steps .portDrained s fun t => portIs s t p { x with st := 2, sweep := none } ∧
      t.agenda = s.agenda ++ [⟨portUnit p, .laserOff⟩] ∧ (bound 1000, ⟨{ portUnit p with insn := 2 }, .topologyStepTimeout p 2⟩) ∈ t.timers) ∧
    (x.st = 2 → goesOn s p → quietly → Steps .laserOff s fun t => portSays s t p { x with st := 3, lit := 0, waking := [] } 0x0022 0 3 []) ∧
    (x.st = 5 → goesOn s p → Steps .laserWake s fun t => (t.port p).st = 6 ∧ (∀ n, n < 4 → (t.port p).lit.getLsbD n = (x.lit.getLsbD n || x.waking.any fun e => decide (e.1 = n))) ∧ (t.port p).queue = x.queue ∧ (t.port p).peer = x.peer ∧
      (bound 500000, ⟨{ portUnit p with insn := 6 }, .topologyStepTimeout p 6⟩) ∈ t.timers ∧ (∀ q, q ≠ p → t.port q = s.port q) ∧ Only [] [] [p / 2] s t ∧ sameMem s t)) ∧
  (∀ (s : State), let p := s.cur.idx / 4
    let n := s.cur.idx % 4
    let x := s.port p
    (x.lit.getLsbD n = false → Steps .laneDarkTimeout s fun t => t = s) ∧
    (x.lit.getLsbD n = true → x.working.head? = some n → Steps .laneDarkTimeout s fun t => portIs s t p x ∧ (s.now + 100000, ⟨s.cur, .laneDarkTimeout⟩) ∈ t.timers) ∧
    (x.lit.getLsbD n = true → x.working.head? ≠ some n → (s.ret (p / 2)).inSlot = true → Steps .laneDarkTimeout s fun t => portIs s t p x ∧ ∃ z, (z, ⟨s.cur, .laneDarkTimeout⟩) ∈ t.timers) ∧
    (x.lit.getLsbD n = true → x.working.head? ≠ some n → (s.ret (p / 2)).inSlot = false →
      (tget 0 x.lastFlit n + 100000 ≤ s.now → Steps .laneDarkTimeout s fun t => portIs s t p { x with lit := x.lit &&& ~~~(1#4 <<< n) }) ∧
      (s.now < tget 0 x.lastFlit n + 100000 → Steps .laneDarkTimeout s fun t => portIs s t p x ∧ (tget 0 x.lastFlit n + 100000, ⟨s.cur, .laneDarkTimeout⟩) ∈ t.timers)) ∧
    (x.waking.any (fun e => decide (e.1 = n)) = true → calm s (s.partOf (p / 2)) → x.lit &&& ~~~(1#4 <<< n) ≠ 0 → (∃ m, m < 4 ∧ m ≠ n ∧ x.failedLanes.contains m = false) →
      Steps .laneWakeFailure s fun t => portSays s t p { x with waking := x.waking.filter (fun e => decide (e.1 ≠ n)), failedLanes := n :: x.failedLanes, lit := x.lit &&& ~~~(1#4 <<< n) } 0x0024 1 x.st []) ∧
    (∀ z, x.waking = [(n, z)] → x.lit &&& ~~~(1#4 <<< n) = 0 → x.change = none → Steps .laneWakeFailure s fun t => (t.port p).st = 0 ∧ (t.port p).failedLanes = n :: x.failedLanes ∧ (t.port p).lit = 0)) ∧
  (∀ (s : State), let r := s.cur.ret
    let units (l : List Packet) : Nat := (l.map fun k => k.payload.length + 32).foldl (· + ·) 0 / 4096
    let one (p : Nat) : Nat × Nat := (units (s.port p).queue, laneCount (s.port p).lit)
    Steps .loadSample s fun t => t.ret r = { s.ret r with sampled := [one (2 * r), one (2 * r + 1)], sampledMesh := (List.range 4).map fun d => units (s.linkQueue r d) } ∧ (∃ z, (z, ⟨s.cur, .loadSample⟩) ∈ t.timers) ∧ Only [] [] [r] s t ∧ sameMem s t) ∧
  (∀ (s : State) (r d q : Nat), d < 4 → neighbour r d = some q →
    let both (l : List Nat) (e : Nat) : List Nat := if l.contains e then l else e :: l
    Steps (.stitchedLinkFailure r d true) s (fun t => Only [] [] [] s t ∧ sameMem s t) ∧
    Steps (.stitchedLinkFailure r d false) s (fun t => (t.ret r).holes = both (s.ret r).holes d ∧ (t.ret q).holes = both (s.ret q).holes (opposite d) ∧ (t.ret r).retired.boundaries.getLsbD d = true ∧ (t.ret q).retired.boundaries.getLsbD (opposite d) = true ∧ Only [] [] [r, q] s t ∧ sameMem s t) ∧
    (s.partOf r = s.partOf q → calm s (s.partOf r) → Steps (.broadcastBusWireFailure r d) s fun t => (t.ret r).busDown = both (s.ret r).busDown d ∧ (t.ret q).busDown = both (s.ret q).busDown (opposite d) ∧
      reports s t (s.partOf r) r 0xFF 0x0024 3 (bytesLE 2 0xFFFF ++ bytesLE 2 0) ∧ Only [] [] ([r, q] ++ keeper s (s.partOf r)) s t))

/-! ### Slots, the slices' housekeeping and soft errors (R100, R324 to R326, R374 to R377, R392) -/

namespace Sys2Proof.Claims

/-- The slot of reticle `r` is over and the next one is set for 31,200 reference cycles after its start (R324). -/
def slotOver (s t : State) (r : Nat) : Prop :=
  let x := s.ret r
  (t.ret r).inSlot = false ∧ (t.ret r).lateStep = none ∧ (t.ret r).slotN = x.slotN + 1 ∧ (t.ret r).slotAt = x.slotAt + 31200 ∧
  (s.now ≤ x.slotAt + 31200 → (x.slotAt + 31200, ⟨retUnit r, .slotStart⟩) ∈ t.timers) ∧ (s.now + 50, ⟨retUnit r, .linkPauseEnd⟩) ∈ t.timers

/-- The overrun event of R392 about a housekeeping step. -/
def overran (s t : State) (r step late past : Nat) : Prop :=
  reports s t (s.partOf r) r 0xFF 0x0031 (if late = 1 then 2 else 1)
    (bytesLE 4 (s.ret r).slotN ++ bytesLE 1 4 ++ bytesLE 1 0xFF ++ bytesLE 1 step ++ bytesLE 1 late ++ bytesLE 4 past ++ bytesLE 4 0)

/-- The grid and linear team id of the access that met an error, by the group of the step's unit: 0 and all ones where no group did (R377). -/
def whose (s : State) : Word × Nat := match s.group? s.cur.core s.cur.slot with
  | some g => ((s.team g.team).lrec.grid, (s.team g.team).lin)
  | none => (0, 0xFFFFFFFF)

/-- An entry of a slice's memory error log about a line (R377). -/
def sliceLogs (s t : State) (fa storage status bit : Nat) : Prop :=
  let x := s.slice (faRet fa) (sliceOf fa)
  (t.slice (faRet fa) (sliceOf fa)).melogHead = x.melogHead + 1 ∧
  aget (t.slice (faRet fa) (sliceOf fa)).melog (x.melogHead.toNat % 32) = some (melogEntry fa storage status bit (s.refCount (faRet fa)) (whose s).1 (whose s).2)

/-- The same of a core's. -/
def coreLogs (s t : State) (c off storage status bit : Nat) : Prop :=
  (t.core c).melogHead = (s.core c).melogHead + 1 ∧
  aget (t.core c).melog ((s.core c).melogHead.toNat % 32) = some (melogEntry off storage status bit (s.refCount (retOf c)) (whose s).1 (whose s).2)

end Sys2Proof.Claims

/-- R100, R261, R305, R321, R324 to R326, R374, R386, R392: slots start and end on the calendar, late steps extend or abandon them, link pauses, beacons, and what the slices and the stall samplers do periodically. -/
def Sys2Proof.Claims.housekeepingHold : Prop :=
  (∀ (s : State), let r := s.cur.ret
    let x := s.ret r
    let still (t : State) : Prop := Only [] [] [r] s t ∧ sameMem s t
    (x.answers = true → x.inSlot = false → x.slotAt ≤ s.now → s.now ≤ x.calEnd → Steps .slotStart s fun t =>
      (∃ l, t.ret r = { x with inSlot := true, slotEnd := x.calEnd, retry := if x.slotN % 16 = 0 then [] else x.retry, lateStep := l }) ∧ (x.calEnd, ⟨retUnit r, .slotEnd⟩) ∈ t.timers ∧
      (∀ c j f, (s.core c).jobs = [j] → retOf c = r → j.flight = [f] → (s.cores.map Prod.fst).Nodup → (t.core c).jobs = [{ j with flight := [if f.own = true ∧ f.over = false ∧ f.late = none then { f with late := some (x.slotN, s.now) } else f] }]) ∧
      Only ((s.retJobs r).map Prod.fst) [] [r] s t ∧ sameMem s t) ∧
    (x.answers = true → x.inSlot = true → x.slotEnd ≤ s.now → (x.lateStep = none → Steps .slotEnd s fun t => slotOver s t r ∧ still t) ∧
      (∀ k e, x.lateStep = some (k, e) →
        (e ≤ s.now → calm s (s.partOf r) → Steps .slotEnd s fun t => slotOver s t r ∧ overran s t r k 0 (e - x.calEnd) ∧ Only [] [] (r :: keeper s (s.partOf r)) s t) ∧
        (s.now < e → k = 2 ∨ e ≤ x.calEnd + 1600 → Steps .slotEnd s fun t => t.ret r = { x with slotEnd := e } ∧ (e, ⟨retUnit r, .slotEnd⟩) ∈ t.timers ∧ still t) ∧
        (s.now < e → ¬(k = 2 ∨ e ≤ x.calEnd + 1600) → s.now ≤ x.calEnd + 1600 → Steps .slotEnd s fun t => t.ret r = { x with slotEnd := x.calEnd + 1600 } ∧ (x.calEnd + 1600, ⟨retUnit r, .housekeepingStepAbandon⟩) ∈ t.timers ∧ still t) ∧
        (k ≠ 2 → calm s (s.partOf r) → Steps .housekeepingStepAbandon s fun t => (t.ret r).retry = k :: x.retry ∧ slotOver s t r ∧ overran s t r k 1 1600 ∧ Only [] [] (r :: keeper s (s.partOf r)) s t))) ∧
    (x.pausing = false → x.answers = true → Steps .linkPauseStart s fun t => t.ret r = { x with pausing := true } ∧ still t ∧
      (∀ p, p / 2 = r → (s.port p).up = true → let w := (s.port p).peer.toNat
        if w % 2 ^ 14 = s.wafer then ⟨{ ret := w / 2 ^ 14 % 128 / 2, idx := w / 2 ^ 14 % 128 }, .linkLevelPause (w / 2 ^ 14 % 128) true⟩ ∈ t.agenda else (p, true) ∈ t.pausesOut) ∧
      ∀ z e, (z, e) ∈ s.timers → (z + (if isResend r e then slotLength x.slotN + 100 else 0), e) ∈ t.timers) ∧
    (x.inSlot = false → x.portA.queue = [] → x.portB.queue = [] → Steps .linkPauseEnd s fun t => t.ret r = { x with pausing := false } ∧ t.outbox = s.outbox ∧ still t) ∧
    (x.inSlot = false → x.pausing = true → x.portA.queue ≠ [] → x.portA.paused = false → x.portA.lit ≠ 0 → x.portA.st = 8 → Steps .linkPauseEnd s fun t =>
      (t.ret r).pausing = false ∧ (t.port (2 * r)).queue = [] ∧ (∀ k ∈ x.portA.queue, k ∈ t.outbox) ∧ still t) ∧
    (s.root (s.partOf r) = some r → Steps .beacon s fun t => (∀ q ∈ s.partRets (s.partOf r), q ≠ r → (s.ret q).answers = true → (s.now + 8 * hops r q, ⟨retUnit q, .beaconArrival q (hops r q)⟩) ∈ t.timers) ∧ Only [] [] [] s t ∧ sameMem s t) ∧
    (x.inSlot = false → x.answers = true → Steps .scrub s fun t => (∀ k, k < 80 → t.slice r k = { s.slice r k with scrubAt := ((s.slice r k).scrubAt + 1) % sliceLines k }) ∧ still t) ∧
    (x.answers = true → Steps .gritDecay s fun t =>
      (∀ fa, faRet fa = r → t.lineTag fa = { s.lineTag fa with grit := (s.lineTag fa).grit - 1 }) ∧ (∀ k, { t.slice r k with lines := (s.slice r k).lines } = s.slice r k) ∧ still t) ∧
    (x.answers = false → ∀ i, i ∈ [Instr.gritDecay, .scrub, .stallSample] → Steps i s fun t => t.rets = s.rets ∧ still t) ∧
    (x.answers = true → Steps .stallSample s (fun t => still t ∧ ∀ k, k < 36 → s.clusterOn r k = true →
      let y := s.cluster r k
      let v := min (y.stalls * 1024 / (y.laneAt - y.sampleAt)) 1023
      let run := if 768 ≤ v then y.run + 1 else 0
      (t.cluster r k).smp = v ∧ (t.cluster r k).run = run ∧ (y.gov = false ∨ y.busy = true → t.cluster r k = { y with smp := v, run := run, stalls := 0, sampleAt := y.laneAt })))) ∧
  (∀ (s : State) (r h q : Nat), s.root (s.partOf r) = some q → (s.ret r).inSlot = false → (s.ret r).answers = true → 8 * h ≤ 1000 → Steps (.beaconArrival r h) s fun t =>
    t.ret r = { s.ret r with slotN := (s.ret q).slotN, slotAt := s.now + 1000 - 8 * h } ∧ (s.now + 1000 - 8 * h, ⟨retUnit r, .slotStart⟩) ∈ t.timers ∧ Only [] [] [r] s t ∧ sameMem s t)

/-- R374 to R377: a corrected error changes nothing and is logged; an uncorrectable one ends the team that owns the word, loses the line, or skips the record. -/
def Sys2Proof.Claims.softErrorsHold : Prop :=
  ∀ (s : State),
    (∀ c st off bit, Steps (.softErrorCorrection (.coreWord c st off) bit) s fun t => coreLogs s t c off st 1 bit ∧ { t.core c with melog := (s.core c).melog, melogHead := (s.core c).melogHead } = s.core c ∧ Only [c] [] [] s t ∧ sameMem s t) ∧
    (∀ fa bit, Steps (.softErrorCorrection (.dram fa) bit) s fun t => sliceLogs s t fa 9 1 bit ∧ t.lost fa = s.lost fa ∧ t.lineTag fa = s.lineTag fa ∧ Only [] [] [faRet fa] s t ∧ sameMem s t) ∧
    (∀ c st off, s.ownerOf c st off = none → Steps (.uncorrectableError (.coreWord c st off)) s fun t => coreLogs s t c off st 2 0xFFFF ∧ { t.core c with melog := (s.core c).melog, melogHead := (s.core c).melogHead } = s.core c ∧ Only [c] [] [] s t ∧ sameMem s t) ∧
    (∀ c st off u x g, s.ownerOf c st off = some (u, some g) → s.team? u = some x → x.stage = .resident → x.core = c → Steps (.uncorrectableError (.coreWord c st off)) s fun t =>
      coreLogs s t c off st 2 0xFFFF ∧ t.team? u = some { x with byFault := true, idem := false, request := none, abandoned := false } ∧ (t.core c).flogHead = (s.core c).flogHead + 1 ∧
      (∃ sp, sp < 4 ∧ aget (t.core c).flog ((s.core c).flogHead.toNat % 16) = some (errorRecord off ++ bytesLE 4 x.lrec.grid.toNat ++ bytesLE 4 x.lin ++ bytesLE 1 g ++ bytesLE 1 sp ++ bytesLE 1 5 ++ List.replicate 53 0)) ∧
      (t.core c).groups = (s.core c).groups.map (fun e => if e.2.team = u then (e.1, e.2.stop) else e) ∧ Only [c] [u] [] s t ∧ sameMem s t) ∧
    (∀ fa, faWafer fa = s.wafer → s.lost fa = false → (s.lineTag fa).lessee = none → (∀ e ∈ s.cores, ∀ g ∈ e.2.groups, g.2.pending = []) → Steps (.uncorrectableError (.dram fa)) s fun t => t.lost fa = true ∧ sliceLogs s t fa 9 2 0xFFFF ∧ Only [] [] [faRet fa] s t ∧ sameMem s t) ∧
    (∀ u x, s.team? u = some x → x.stage = .evicted → x.jobs ≠ 0 → Steps (.uncorrectableError (.saveArea u)) s fun t => t.team? u = some { x with ending := true, byFault := true, idem := false, request := none, abandoned := false } ∧
      sliceLogs s t ((x.saveAt.map Prod.fst).getD 0) 9 2 0xFFFF ∧ Only [] [u] [faRet ((x.saveAt.map Prod.fst).getD 0)] s t ∧ sameMem s t) ∧
    (∀ u x l, s.team? u = some x → x.stage = .evicted → x.jobs = 0 → x.held = [] → aget s.launches x.launch = some l → 1 < l.left → s.placed u = false → Steps (.uncorrectableError (.saveArea u)) s fun t =>
      (t.team u).stage = .ended ∧ (t.team u).saveAt = none ∧ aget t.launches x.launch = some { l with left := l.left - 1, faulted := l.faulted + 1 } ∧ Only [x.home] [u] (s.rets.map Prod.fst ++ [s.saveRet u, faRet ((x.saveAt.map Prod.fst).getD 0)]) s t ∧ sameMem s t) ∧
    (∀ r p, p < 4 → ((s.ret r).lq p).count ≠ 0 → Steps (.uncorrectableError (.launchRecord r p)) s fun t => ((t.ret r).lq p).head = ((s.ret r).lq p).head + 1 ∧
      sliceLogs s t (((s.ret r).lq p).slot 128 ((s.ret r).lq p).head) 9 2 0xFFFF ∧ sameMem s t)

/-- R100, R261, R305, R321, R324 to R326, R374, R386, R392: slots start and end on the calendar, late steps extend or abandon them, link pauses, beacons, and what the slices and the stall samplers do periodically. R374 to R377: a corrected error changes nothing and is logged; an uncorrectable one ends the team that owns the word, loses the line, or skips the record. Both hold. -/
def Obligations.HousekeepingAndErrors : Prop := housekeepingHold ∧ softErrorsHold

/-! ### Power (R18, R19, R315 to R323, R388 to R391) and device registers (R6, R92 to R94, R275, R296, R314, R330, R376) -/

namespace Sys2Proof.Claims

/-- Cluster `k` of reticle `r` becomes `y`; no other cluster, reticle, core or team changes, and no byte of DRAM. -/
def clusterIs (s t : State) (r k : Nat) (y : Cluster) : Prop := t.cluster r k = y ∧ (∀ j, j ≠ k → t.cluster r j = s.cluster r j) ∧ Only [] [] [r] s t ∧ sameMem s t

/-- A step waits for its time, or is due. -/
def waits (t : State) (z : Nat) (u : Cur) (i : Instr) : Prop := (z, ⟨u, i⟩) ∈ t.timers

/-- What a cluster is as a change to point `p` starts (R319, R320): the new point stands in `CUR`, the greater reserve is held, and a lowering or a change at the same voltage ramps the clock first. -/
def started (x : Cluster) (p : Nat) : Cluster :=
  let y := { x with cur := p, busy := true, byRegion := false, unitsHeld := max x.unitsHeld (pointUnits p) }
  if x.mv < pointMv p then y else { y with ramp := 8, oldKhz := x.khz }

/-- The cap event of R390 about a message. -/
def capSays (s t : State) (r : Nat) (m : CapMsg) (cause share : Nat) : Prop :=
  reports s t (s.partOf r) r 0xFF 0x0032 (if cause = 2 then 1 else if cause = 3 then 2 else 0)
    (bytesLE 4 m.seq.toNat ++ bytesLE 2 m.cap.toNat ++ bytesLE 2 share ++ bytesLE 1 cause ++ zeros 7 ++ bytesLE 8 m.lease.toNat)

/-- Units that a list of loans holds for a region. -/
def lentTo (r : Nat) (l : List (Nat × Nat)) : Nat := ((l.filter fun e => decide (e.1 = r)).map Prod.snd).foldl (· + ·) 0

/-- Free units of a region that are its own: what it has borrowed is never lent again (R317). -/
def ownFree (s : State) (r : Nat) : Int := s.freeUnits r - ((retList.map fun q => lentTo r (s.ret q).loans).foldl (· + ·) 0 : Nat)

/-- A write to one register of a reticle leaves it as `y`. -/
def retIs (s t : State) (r : Nat) (y : Reticle) : Prop := t.ret r = y ∧ Only [] [] [r] s t ∧ sameMem s t

end Sys2Proof.Claims

/-- R171, R317 to R323, R388 to R391: islands, voltage steps and clock ramps, lowering, loans, ballast and debt, caps and leases, link roles, and a regulator that fails. Readings of the model: a write of `CL_OP` whose `TGT` is slower than the cluster starts the change at once (log 58), a region lends only its own units and gets recalled ones back when the borrower's reserve fits (log 59), and what a failed regulator clears (log 70). -/
def Obligations.PowerAndCaps : Prop :=
  (∀ (s : State), let r := s.cur.ret
    let k := s.cur.idx
    let x := s.cluster r k
    let u := clusterUnit r k
    let goal := pointMv x.cur
    let v := if x.mv < goal then min goal (x.mv + 10) else max goal (x.mv - 10)
    (x.busy = true → x.ramp = 0 → x.mv ≠ goal →
      (v ≠ goal → Steps .voltageStep s fun t => clusterIs s t r k { x with mv := v } ∧ waits t (s.now + 1000) u .voltageStep) ∧
      (v = goal → x.khz = pointKhz x.cur → Steps .voltageStep s fun t => clusterIs s t r k { x with mv := v } ∧ t.agenda = s.agenda ++ [⟨u, .operatingPointChangeComplete⟩]) ∧
      (v = goal → x.khz ≠ pointKhz x.cur → Steps .voltageStep s fun t => clusterIs s t r k { x with mv := v, ramp := 8, oldKhz := x.khz } ∧ waits t (s.now + 32) u .clockRampStep)) ∧
    (x.busy = true → x.ramp ≠ 0 →
      let y := { x with ramp := x.ramp - 1, khz := ((x.oldKhz : Int) + ((pointKhz x.cur : Int) - x.oldKhz) * (8 - (x.ramp - 1) : Nat) / 8).toNat }
      (1 < x.ramp → Steps .clockRampStep s fun t => clusterIs s t r k y ∧ waits t (s.now + 32) u .clockRampStep) ∧
      (x.ramp = 1 → x.mv = goal → Steps .clockRampStep s fun t => clusterIs s t r k y ∧ t.agenda = s.agenda ++ [⟨u, .operatingPointChangeComplete⟩]) ∧
      (x.ramp = 1 → x.mv ≠ goal → Steps .clockRampStep s fun t => clusterIs s t r k y ∧ waits t (s.now + 1000) u .voltageStep)) ∧
    (x.busy = true → x.ramp = 0 → x.mv = goal → x.khz = pointKhz x.cur →
      (x.tgt ≤ x.cur → Steps .operatingPointChangeComplete s fun t => clusterIs s t r k { x with busy := false, byRegion := false, unitsHeld := pointUnits x.cur }) ∧
      (x.cur < x.tgt → Steps .operatingPointChangeComplete s fun t => clusterIs s t r k (started { x with busy := false, byRegion := false, unitsHeld := pointUnits x.cur } x.tgt))) ∧
    (∀ z w, x.ballast = some (z, w) → z = s.cur.team →
      (w ≤ 1 → Steps .ballastDecay s fun t => clusterIs s t r k { x with ballast := none }) ∧
      (1 < w → Steps .ballastDecay s fun t => clusterIs s t r k { x with ballast := some (z, w - 1) } ∧ waits t (s.now + 1250) s.cur .ballastDecay))) ∧
  (∀ (s : State), let r := s.cur.ret
    (∀ k i, s.cur.idx = 8 * k + i → i < 5 → s.mayGate r k i = true → Steps .islandGating s fun t => clusterIs s t r k { s.cluster r k with gated := i :: (s.cluster r k).gated }) ∧
    (s.mayLower r = true → let l := s.pickLower r (s.overBudget r) (s.lowerable r)
      Steps .regionLowering s fun t => (∀ k ∈ l, t.cluster r k = { started (s.cluster r k) ((s.cluster r k).cur + 1) with byRegion := true }) ∧ (∀ k, k ∉ l → t.cluster r k = s.cluster r k) ∧ Only [] [] [r] s t ∧ sameMem s t) ∧
    (s.mayClear r = true → calm s (s.partOf r) → Steps .debtCleared s fun t => (t.ret r).debtDone = false ∧ capSays s t r ((s.ret r).capMsg.getD {}) 4 (s.ret r).capsh ∧ Only [] [] (r :: keeper s (s.partOf r)) s t) ∧
    ((s.ret r).answers = false → Steps .leaseExpiry s fun t => t = s) ∧
    (∀ z m, (s.ret r).answers = true → (s.ret r).capUntil = some z → (s.ret r).capMsg = some m → z ≤ s.now → calm s (s.partOf r) →
      let n := min (4 * m.cap.toNat / s.liveRegions) (4 * s.capSafe / s.liveRegions)
      Steps .leaseExpiry s fun t => (t.ret r).capUntil = none ∧ (t.ret r).capsh = n ∧ capSays s t r m 2 n ∧ Only [] [] (r :: keeper s (s.partOf r)) s t)) ∧
  (∀ (s : State) (r q : Nat), r ≠ q →
    ((s.ret r).asks.head? = some q → (s.ret q).answers = true → 32 ≤ ownFree s q → Steps (.loanRequest r q) s fun t =>
      (t.ret q).loan = (s.ret q).loan - 16 ∧ (t.ret q).loans = (s.ret q).loans ++ [(r, 16)] ∧ (t.ret r).loan = (s.ret r).loan + 16 ∧ (t.ret r).loans = (s.ret r).loans ∧ Only [] [] [r, q] s t ∧ sameMem s t) ∧
    ((s.ret r).asks.head? = some q → (s.ret q).answers = false ∨ ownFree s q < 32 → Steps (.loanRequest r q) s fun t =>
      (t.ret q).loan = (s.ret q).loan ∧ (t.ret r).loan = (s.ret r).loan ∧ (t.ret r).asks = (s.ret r).asks.tail ∧ Only [] [] [r] s t ∧ sameMem s t) ∧
    (let n := lentTo r (s.ret q).loans
     0 < n → lentTo r (s.ret q).recalls = 0 → (n ≤ s.freeUnits r → Steps (.loanRecall q r) s fun t => (t.ret r).loan = (s.ret r).loan - n ∧ (t.ret q).loan = (s.ret q).loan + n ∧ lentTo r (t.ret q).loans = 0 ∧ lentTo r (t.ret q).recalls = 0 ∧ Only [] [] [r, q] s t ∧ sameMem s t) ∧
      (s.freeUnits r < n → Steps (.loanRecall q r) s fun t => (t.ret r).loan = (s.ret r).loan - n ∧ (t.ret q).loan = (s.ret q).loan ∧ lentTo r (t.ret q).loans = 0 ∧ lentTo r (t.ret q).recalls = n ∧
        (∃ z, waits t z { ret := q } (.loanRecall q r)) ∧ Only [] [] [r, q] s t ∧ sameMem s t))) ∧
  (∀ (s : State) (l : Nat) (m : CapMsg), Steps (.capMsg l m) s fun t => t.link l = { s.link l with capMsg := { m with rsv := 0 } } ∧ t.agenda = s.agenda ++ (retList.filter fun r => (s.ret r).answers && s.hostReaches l s.wafer r).map (fun r => ⟨{ ret := r, idx := 32 }, .capShareUpdate r m⟩) ∧ Only [] [] [] s t ∧ sameMem s t) ∧
  (∀ (s : State) (r : Nat) (m : CapMsg), let x := s.ret r
    let n := 4 * m.cap.toNat / s.liveRegions
    let good := m.rsv = 0 ∧ 1000 ≤ m.cap.toNat ∧ m.cap.toNat ≤ 36000
    let taken (t : State) : Prop := (t.ret r).capsh = n ∧ (t.ret r).capMsg = some m ∧ (t.ret r).capUntil = (if m.lease = 0 then none else some (s.now + m.lease.toNat)) ∧ (m.lease ≠ 0 → waits t (s.now + m.lease.toNat) { ret := r } .leaseExpiry)
    (x.isNew m = false → Steps (.capShareUpdate r m) s fun t => retIs s t r x) ∧
    (x.isNew m = true → ¬good → calm s (s.partOf r) → Steps (.capShareUpdate r m) s fun t => (t.ret r).capsh = x.capsh ∧ (t.ret r).capMsg = x.capMsg ∧ capSays s t r m 3 x.capsh ∧ Only [] [] (r :: keeper s (s.partOf r)) s t) ∧
    (x.isNew m = true → good → n = x.capsh → Steps (.capShareUpdate r m) s fun t => taken t ∧ Only [] [] [r] s t ∧ sameMem s t) ∧
    (x.isNew m = true → good → n ≠ x.capsh → calm s (s.partOf r) → Steps (.capShareUpdate r m) s fun t => taken t ∧ capSays s t r m 1 n ∧ Only [] [] (r :: keeper s (s.partOf r)) s t)) ∧
  (∀ (s : State) (r k : Nat) (v : Dword), k < 36 →
    let y := { s.cluster r k with tgt := if bitsOf v.toNat 11 8 ≤ 6 then bitsOf v.toNat 11 8 else (s.cluster r k).tgt, gov := v.getLsbD 0 }
    (y.busy = true ∨ y.tgt ≤ y.cur → Steps (.clOpWrite r k v) s fun t => clusterIs s t r k y) ∧ (y.busy = false → y.cur < y.tgt → Steps (.clOpWrite r k v) s fun t => clusterIs s t r k (started y y.tgt))) ∧
  (∀ (s : State), let l := s.cur.idx % 2
    let role (t : State) (mine other : Nat) : Prop := t.link l = { s.link l with role := mine } ∧ t.link (1 - l) = { s.link (1 - l) with role := other } ∧ Only [] [] [] s t ∧ sameMem s t
    Steps .linkRoleActive s (fun t => role t 0 1) ∧ Steps .linkRoleShared s (fun t => role t 2 2) ∧
    ((s.link (1 - l)).role ≠ 1 → Steps .linkRoleStandby s fun t => role t 1 (s.link (1 - l)).role) ∧
    ((s.link l).role ≠ 1 → (s.link (1 - l)).role = 1 → Steps .linkRoleStandby s fun t => role t (s.link l).role 1)) ∧
  (∀ (s : State), s.cur.idx = 1 → s.cur.ret < 64 → (s.ret s.cur.ret).regOk = true →
    let r := s.cur.ret
    let q := partnerOf r
    Steps .regulatorFailure s fun t => (t.ret r).regOk = false ∧ ((s.ret r).live = true → (t.ret r).live = false ∧ (t.ret r).bypass = BitVec.allOnes 72 ∧ ∀ c, c / 72 = r → t.enabled c = false) ∧ (t.ret q).regOk = (s.ret q).regOk ∧ (t.ret r).fabric = (if (s.ret q).regOk then 1 else 0) ∧ (t.ret q).fabric = (if (s.ret q).regOk then 1 else 0))

/-- R6, R92 to R94, R275, R296, R314, R330, R376: writes of registers, table entries and windows: read-only and reserved bits ignore them. Two points are the model's: a lost-line entry ignores a write other than 0 (log 65, DEDUCED), and a management-window write that no plane carries is not performed (log 93, DESIGN CHOICE). -/
def Obligations.RegisterWrites : Prop :=
  (∀ (s : State) (r i : Nat) (b : Bool) (v : Dword), (s.ret r).answers = true →
    let x := s.ret r
    let w : Dword := BitVec.ofNat 64 (bitsOf v.toNat 59 28 * 2 ^ 28) ||| BitVec.ofNat 64 (bitsOf v.toNat 13 0)
    (x.bank ≠ b → x.arming ≠ some (if b then 1 else 0) → i < 256 → Steps (.routeTableEntryWrite r b i v) s fun t =>
      (∀ j, tget 0 (if b then (t.ret r).route1 else (t.ret r).route0) j = if j = i then w else tget 0 (if b then x.route1 else x.route0) j) ∧ { t.ret r with route0 := x.route0, route1 := x.route1 } = x ∧ (if b then (t.ret r).route0 = x.route0 else (t.ret r).route1 = x.route1) ∧ Only [] [] [r] s t ∧ sameMem s t) ∧
    (x.bank = b ∨ x.arming = some (if b then 1 else 0) ∨ 256 ≤ i → Steps (.routeTableEntryWrite r b i v) s fun t => retIs s t r x) ∧
    (∀ k, Steps (.lostLineEntryWrite r k i 0) s fun t => aget (t.slice r k).lost i = none ∧ (∀ j, j ≠ i → aget (t.slice r k).lost j = aget (s.slice r k).lost j) ∧ { t.slice r k with lost := (s.slice r k).lost } = s.slice r k ∧ Only [] [] [r] s t ∧ sameMem s t) ∧
    (∀ k, v ≠ 0 → Steps (.lostLineEntryWrite r k i v) s fun t => retIs s t r x) ∧
    let w (off : Nat) : Instr := .registerWrite (.fabric r off) v
    Steps (w 0xF12000100) s (fun t => retIs s t r { x with saveBase := BitVec.ofNat 64 (bitsOf v.toNat 55 16 * 2 ^ 16) }) ∧ Steps (w 0xF12000108) s (fun t => retIs s t r { x with saveSize := bitsOf v.toNat 23 0 }) ∧
    Steps (w 0xF12000110) s (fun t => retIs s t r { x with preemptWin := bitsOf v.toNat 31 0 }) ∧
    Steps (w 0xF12000000) s (fun t => retIs s t r { x with lq0 := { x.lq0 with base := BitVec.ofNat 64 (bitsOf v.toNat 55 7 * 2 ^ 7) } }) ∧ Steps (w 0xF120000D8) s (fun t => retIs s t r { x with lq3 := { x.lq3 with tail := v.setWidth 32 } }) ∧
    Steps (w 0xF12000008) s (fun t => retIs s t r { x with lq0 := { x.lq0 with log2n := bitsOf v.toNat 4 1, en := v.getLsbD 0 } }) ∧ Steps (w 0xF12000010) s (fun t => retIs s t r x) ∧
    Steps (w 0xF12100000) s (fun t => retIs s t r { x with xlatRoot := BitVec.ofNat 64 (bitsOf v.toNat 55 13 * 2 ^ 13) ||| BitVec.ofNat 64 (bitsOf v.toNat 0 0) }) ∧ Steps (w 0xF12000118) s (fun t => retIs s t r x)) ∧
  (∀ (s : State) (r i : Nat) (b : Bool) (v : Dword) (k : Nat), (s.ret r).answers = false → ∀ w ∈ [Instr.routeTableEntryWrite r b i v, .lostLineEntryWrite r k i v, .registerWrite (.fabric r (8 * i)) v], Steps w s fun t => retIs s t r (s.ret r)) ∧
  (∀ (s : State) (l : Nat) (v : Dword), l < 2 →
    let w (off : Nat) : Instr := .registerWrite (.bar0 l off) v
    let becomes (t : State) (y : HostLink) : Prop := t.link l = y ∧ t.link (1 - l) = s.link (1 - l) ∧ Only [] [] [] s t ∧ sameMem s t
    ((s.link l).role ≠ 1 → Steps (w 0) s (fun t => becomes t { s.link l with sq := { (s.link l).sq with base := BitVec.ofNat 64 (bitsOf v.toNat 55 7 * 2 ^ 7) } }) ∧
      Steps (w 0x18) s (fun t => becomes t { s.link l with sq := { (s.link l).sq with tail := v.setWidth 32 } }) ∧ Steps (w 0x128) s fun t => becomes t { s.link l with aper := BitVec.ofNat 64 (bitsOf v.toNat 55 32 * 2 ^ 32) }) ∧
    ((s.link l).role = 1 → ∀ off, off ≠ 0x118 → Steps (w off) s fun t => becomes t (s.link l))) ∧
  (∀ (s : State) (c a : Nat) (l : List Byte), c < 4608 → a + l.length ≤ (16 - (s.core c).l1ways) * 65536 → (s.core c).l1ways ≤ 16 → s.wafer < 2 ^ 14 → (s.ret (c / 72)).answers = true →
    (∀ i, i < l.length → (s.lineTag (s.fa (c / 72) (0xF00000000 + c % 72 * 0x400000 + 0x100000 + a + i))).lessee = none) → Steps (.coreWindowWrite c (0x100000 + a) l) s fun t =>
      (∀ i, i < l.length → t.scratchByte c (a + i) = l.getD i 0) ∧ (∀ z, ¬(a ≤ z ∧ z < a + l.length) → t.scratchByte c z = s.scratchByte c z) ∧ { t.core c with scratch := (s.core c).scratch } = s.core c ∧ Only [c] [] [] s t ∧ sameMem s t) ∧
  (∀ (s : State) (l off : Nat) (b : List Byte), l < 2 → off < 2 ^ 32 → let a := (s.link l).aper.toNat + off
    ((s.link l).role ≠ 1 → s.hostReaches l (faWafer a) (faRet a) = true → plainBytes s a b.length → (∀ i, i < b.length → s.slotWaits (a + i) = false) → Steps (.managementWindowWrite l off b) s fun t => wrote s t a b ∧ Only [] [] [] s t) ∧
    ((s.link l).role = 1 ∨ s.hostReaches l (faWafer a) (faRet a) = false → Steps (.managementWindowWrite l off b) s fun t => Only [] [] [] s t ∧ sameMem s t))

/-! ### Commands and starts (R90, R293, R294, R300, R302, R311, R327 to R331, R367, R372, R386, R394, R396, R397) -/

namespace Sys2Proof.Claims

/-- A record of link `l` may be answered: its result field is plain DRAM. -/
def ready (s : State) (l : Nat) : Prop := l < 2 ∧ plainBytes s (s.recordAt l + 56) 8

/-- A record whose byte 3 and unlisted operand bytes are 0 (R328, R329). -/
def clean (rec : List Byte) (used : Nat → Bool) : Prop := rec.getD 3 0 = 0 ∧ badByte rec used = none

/-- The record has left its queue. -/
def dequeued (s t : State) (l : Nat) : Prop :=
  t.link l = { s.link l with sq := { (s.link l).sq with head := (s.link l).sq.head + 1 } } ∧ t.link (1 - l) = s.link (1 - l)

/-- The record is answered with status, refused field and result, no other byte of DRAM changes, and it has left its queue (R328). -/
def served (s t : State) (l status field result : Nat) : Prop :=
  dequeued s t l ∧ wrote s t (s.recordAt l + 56) (bytesLE 1 status ++ bytesLE 3 field ++ bytesLE 4 result)

/-- A rectangle that lies on the wafer and whose target reticle is its lowest (R329). -/
def rectangle (rec : List Byte) : Prop :=
  let p := descOf rec
  operand rec 2 1 = p.x0 + 8 * p.y0 ∧ operand rec 5 1 < 64 ∧ operand rec 6 1 < 64 ∧ operand rec 7 1 < 4 ∧ p.x0 + p.w ≤ 8 ∧ p.y0 + p.h ≤ 8

/-- A pre-emption record for team `u` (R367). -/
def names (s : State) (l : Nat) (rec : List Byte) (u : Nat) : Prop :=
  clean rec (fun i => decide (4 ≤ i) && decide (i ≤ 12)) ∧ operand rec 2 1 = 0xFF ∧ operand rec 12 1 ≤ 3 ∧ s.findTeam (s.partOf (linkRet l)) (BitVec.ofNat 32 (operand rec 4 4)) (operand rec 8 4) = some u

/-- The commands of the system queue. -/
def commands (l : Nat) (rec : List Byte) (f : List StartFail) : List Instr :=
  [.partitionSetUp l rec, .partitionDissolve l rec, .regionRegister l rec, .regionDeregister l rec, .tlbInvalidation l rec, .topologyChange l rec, .retargetDone l rec, .preemptionRequest l rec, .preemptionWithdraw l rec,
    .preemptionEnd l rec, .preemptionRestart l rec, .waitCycleProbe l rec, .warmStartStage l rec, .warmStart l rec f, .attestation l rec, .waferId l rec]

/-- The bytes of the wafer's DRAM after a start stand where they stood, under the wafer id now in force (R331). -/
def keptMem (s t : State) : Prop :=
  (s.waferNext = s.wafer → sameMem s t) ∧
  (rising 0 s.mem = true → (∀ e ∈ s.mem, e.1 < 2 ^ 56) → s.wafer < 2 ^ 14 → s.waferNext < 2 ^ 14 → ∀ a, a < 2 ^ 42 → t.memByte (s.waferNext * 2 ^ 42 + a) = s.memByte (s.wafer * 2 ^ 42 + a))

/-- What every start leaves (R327): no team, launch or device step but those of the start, the wafer id in force, the defect record of each reticle, the slots and ports of the live ones, and the ring of their enabled cores. -/
def startedAs (s t : State) (warm : Bool) (fails : List StartFail) : Prop :=
  t.teams = [] ∧ t.launches = [] ∧ t.agenda.all (fun e => decide (e.ins = .keyDrained)) = true ∧ t.wafer = s.waferNext ∧ t.startStep = 9 ∧ t.started = true ∧
  (∀ r, r < 64 → (t.ret r).defect = s.startRecord warm fails r ∧ (t.ret r).live = (s.startRecord warm fails r).live ∧
    ((t.ret r).live = true → (t.ret r).slotN = 0 ∧ (t.ret r).slotAt = s.now + 31200 ∧ (t.ret r).inSlot = false ∧ waits t (s.now + 31200) (retUnit r) .slotStart ∧
      ∀ i, i < 2 → (t.ret r).defect.ports.getLsbD i = false → (deadLanes fails (2 * r + i)).length < 4 → (t.port (2 * r + i)).st = 8 ∧ ∀ n, n < 4 → (t.port (2 * r + i)).lit.getLsbD n = !(deadLanes fails (2 * r + i)).contains n)) ∧
  ∀ c, (ringPos t.wafer c, t.wafer, c) ∈ t.ring ↔ c < 4608 ∧ t.enabled c = true

end Sys2Proof.Claims

/-- R90, R293, R294, R300, R302, R311, R328, R329, R331, R367, R372, R386: what each command of the system queue does, and how its record is answered. Two readings are the model's, DEDUCED: a pre-emption or a probe names its team in the partition of the link's reticle (log 74), and a set-up cancels the slot in progress while dissolving keeps the calendar (log 67). -/
def Obligations.SystemCommands : Prop :=
  ∀ (s : State) (l : Nat) (rec : List Byte), ready s l →
    let done (t : State) : Prop := served s t l 1 0 0
    (∀ f i, i ∈ commands l rec f → rec.getD 3 0 ≠ 0 → Steps i s fun t => served s t l 2 24 0 ∧ Only [] [] [] s t) ∧
    Steps (.unassignedCommand l rec) s (fun t => served s t l 2 0 0 ∧ Only [] [] [] s t) ∧
    (let p := descOf rec
     let rs := p.rets.filter (s.hostReaches l s.wafer)
     rectangle rec → (∀ r ∈ p.rets, s.partOf r = 256 ∨ s.partOf r = p.id) →
      (let n := operand rec 8 1
       clean rec (fun i => (decide (4 ≤ i) && decide (i ≤ 8)) || (decide (10 ≤ i) && decide (i ≤ 41))) → 0 < n → n ≤ 16 → (∀ i, i < 16 → operand rec (10 + 2 * i) 2 < 2 ^ 14 ∧ (n ≤ i → operand rec (10 + 2 * i) 2 = 0)) →
        ascending p.wafers = true → s.wafer ∈ p.wafers → Steps (.partitionSetUp l rec) s fun t => done t ∧ (∀ r ∈ rs, (t.ret r).part = some p ∧
          ((s.ret r).answers = true → (t.ret r).slotN = 0 ∧ (t.ret r).slotAt = s.now + 31200 ∧ (t.ret r).inSlot = false) ∧ ((s.ret r).answers = false → (t.ret r).bare = { (s.ret r).bare with part := some p })) ∧
          (∀ r, aget t.storedParts r = if r ∈ rs then some p else aget s.storedParts r) ∧ Only [] [] rs s t) ∧
      (clean rec (fun i => decide (4 ≤ i) && decide (i ≤ 41)) → s.teamsAt p.id p.rets = false → Steps (.partitionDissolve l rec) s fun t => done t ∧ (∀ r ∈ rs, (t.ret r).bare = { (s.ret r).bare with part := none }) ∧
        t.storedParts = s.storedParts.filter (fun e => !rs.contains e.1) ∧ Only [] [] rs s t)) ∧
    (let kind := operand rec 4 1
     let rights := operand rec 5 1
     let part := operand rec 6 1
     clean rec (fun i => decide (i = 4) || decide (i = 5) || decide (i = 6) || (decide (8 ≤ i) && decide (i ≤ 31))) → rights < 8 →
      (∀ r base n pages j, r = operand rec 2 1 → base = operand rec 8 8 → n = operand rec 16 8 → kind = 0 → r < 64 → (s.ret r).answers = true → s.partOf r = part → base % 128 = 0 → base < 2 ^ 57 → 0 < n → n < 2 ^ 36 →
        s.lockPages r part rights base none ((base % 65536 + n + 65535) / 65536) = some pages → s.freeKey r = some j →
        let g := ((s.key r j).gen + 1) % 2 ^ 14
        Steps (.regionRegister l rec) s fun t => t.key r j = { part := part, kind := 0, rights := BitVec.ofNat 3 rights, vbase := base, len := n, locked := pages, gen := g, state := 1 } ∧
          served s t l 1 0 (r * 2 ^ 26 + j * 2 ^ 14 + g) ∧ (∀ i, i ≠ j → t.key r i = s.key r i) ∧ Only [] [] [r] s t) ∧
      (∀ u j, kind = 1 ∨ kind = 2 → operand rec 2 1 = 0xFF → s.findTeam part (BitVec.ofNat 32 (operand rec 24 4)) (operand rec 28 4) = some u →
        let r := retOf (s.homeNow u)
        let x := s.team u
        s.freeKey r = some j →
        let g := ((s.key r j).gen + 1) % 2 ^ 14
        Steps (.regionRegister l rec) s fun t => t.key r j = { part := part, kind := kind, rights := BitVec.ofNat 3 rights, grid := x.lrec.grid, team := x.lin, len := if kind = 1 then x.lrec.scratch * 4096 else 2 ^ 23, gen := g, state := 1 } ∧
          served s t l 1 0 (r * 2 ^ 26 + j * 2 ^ 14 + g) ∧ (∀ i, i ≠ j → t.key r i = s.key r i) ∧ Only [] [] [r] s t)) ∧
    (let key := BitVec.ofNat 32 (operand rec 4 4)
     let r := keyRet key
     let e := s.key r (keyIdx key)
     clean rec (fun i => decide (4 ≤ i) && decide (i ≤ 7)) → operand rec 2 1 = r → e.state ≠ 0 → e.gen = keyGen key → Steps (.regionDeregister l rec) s fun t =>
      t.key r (keyIdx key) = { e with state := 2, records := e.records ++ [s.recordAt l] } ∧ dequeued s t l ∧ (e.inflight = 0 → ⟨{ ret := r, idx := keyIdx key }, .keyDrained⟩ ∈ t.agenda) ∧ Only [] [] [r] s t ∧ sameMem s t) ∧
    (let part := operand rec 4 1
     let all := operand rec 16 8 = 2 ^ 64 - 1
     let base := if all then 0 else operand rec 8 8
     let n := if all then 2 ^ 57 else operand rec 16 8
     clean rec (fun i => decide (i = 4) || (decide (8 ≤ i) && decide (i ≤ 23))) → s.partOf (operand rec 2 1) = part →
      (∀ r ∈ s.partRets part, ∀ e ∈ (s.ret r).keys, e.2.state ≠ 0 → ∀ q ∈ e.2.locked, ¬(q.pte.getLsbD 7 = true ∧ q.meets base n = true)) → Steps (.tlbInvalidation l rec) s fun t => done t ∧
        (∀ c, t.core c = if s.partOf (retOf c) = part then { s.core c with tlb := (s.core c).tlb.filter fun q => !(decide (q.part = part) && q.meets base n) } else s.core c) ∧ (∀ r ∈ s.partRets part, (t.ret r).bare = { (s.ret r).bare with walkCache := [] }) ∧ Only (s.cores.map Prod.fst) [] (s.partRets part) s t) ∧
    (let n := operand rec 20 1
     let bank := operand rec 21 1
     let part := operand rec 22 1
     let ports := (List.range n).map fun i => operand rec (4 + i) 1
     ∀ h q, clean rec (fun i => decide (4 ≤ i) && decide (i ≤ 22)) → (s.partRets part).head? = some h → operand rec 2 1 = h → (s.ret h).part = some q → q.route = true → 0 < n → n ≤ 16 → ports.Nodup →
      (∀ p ∈ ports, p < 128 ∧ s.partOf (p / 2) = part ∧ ((s.port p).st = 8 ∨ (s.port p).st = 7) ∧ (s.port p).change = none) → (∀ i, n ≤ i → i < 16 → operand rec (4 + i) 1 = 0xFF) → bank ≤ 1 →
      (∀ r ∈ s.partRets part, (s.ret r).bank ≠ decide (bank = 1)) → Steps (.topologyChange l rec) s fun t =>
        (∀ p ∈ ports, t.port p = { s.port p with st := 1, change := some s.nextId, oldPeer := (s.port p).peer, sweep := none }) ∧ aget t.changes s.nextId = some { ports := ports, bank := bank, part := part, record := s.recordAt l } ∧
        (∀ r ∈ s.partRets part, (t.ret r).arming = some bank ∧ (t.ret r).armed = false) ∧ dequeued s t l ∧ Only [] [] (s.partRets part) s t ∧ sameMem s t) ∧
    (let p := operand rec 4 1
     clean rec (fun i => decide (i = 4)) → operand rec 2 1 = p / 2 → p < 128 → (s.port p).st = 3 → goesOn s p → Steps (.retargetDone l rec) s fun t => t.port p = { s.port p with st := 5, waking := (s.port p).working.map fun n => (n, s.now) } ∧ done t ∧
      ⟨portUnit p, .laserWake⟩ ∈ t.agenda ∧ waits t (s.now + (3000 + if (s.ret (p / 2)).inSlot then (s.ret (p / 2)).slotEnd - s.now else 0)) { portUnit p with insn := 5 } (.topologyStepTimeout p 5) ∧ (∀ q, q ≠ p → t.port q = s.port q) ∧ Only [] [] [p / 2] s t) ∧
    (∀ u, names s l rec u →
      let x := s.team u
      (x.lrec.cls ≠ 0 → x.stage = .resident → x.request = none → Steps (.preemptionRequest l rec) s fun t => t.team? u = some { x with request := some { source := 2, since := s.now } } ∧ done t ∧ Only [] [u] [] s t) ∧
      (x.lrec.cls = 0 → x.stage = .resident → Steps (.preemptionRequest l rec) s fun t => (∀ v ∈ s.launchTeams x.launch, s.isResident v = true → (t.team v).request ≠ none) ∧ done t ∧ Only [] (s.launchTeams x.launch) [] s t) ∧
      Steps (.preemptionWithdraw l rec) s (fun t => t.team? u = some { x with request := none } ∧ done t ∧ Only [] [u] [] s t) ∧
      (x.stage = .resident → Steps (.preemptionEnd l rec) s fun t => t.team? u = some { x with byFault := true, idem := false, request := none, abandoned := false } ∧ (t.core x.core).flogHead = (s.core x.core).flogHead + 1 ∧
        (t.core x.core).groups = (s.core x.core).groups.map (fun e => if e.2.team = u then (e.1, e.2.stop) else e) ∧ done t ∧ Only [x.core] [u] [] s t) ∧
      (x.stage = .evicted → x.jobs ≠ 0 → Steps (.preemptionEnd l rec) s fun t => t.team? u = some { x with ending := true, byFault := true, idem := false, request := none, abandoned := false } ∧ (t.core x.home).flogHead = (s.core x.home).flogHead + 1 ∧ done t ∧ Only [x.home] [u] [] s t) ∧
      (x.stage = .resident ∨ x.stage = .evicted → x.idem = true → Steps (.preemptionRestart l rec) s fun t => t.team? u = some { x with abandoned := true, request := none } ∧
        (t.core x.core).groups = (s.core x.core).groups.map (fun e => if e.2.team = u then (e.1, { e.2 with splits := [], fences := [] }) else e) ∧ done t ∧ Only [x.core] [u] [] s t) ∧
      (x.stage = .resident ∨ x.stage = .evicted → x.idem = false → Steps (.preemptionRestart l rec) s fun t => served s t l 2 96 0 ∧ Only [] [] [] s t)) ∧
    (∀ u, clean rec (fun i => decide (4 ≤ i) && decide (i ≤ 11)) → operand rec 2 1 = 0xFF → s.findTeam (s.partOf (linkRet l)) (BitVec.ofNat 32 (operand rec 4 4)) (operand rec 8 4) = some u → (∀ r ∈ s.probes, r.id ≠ s.nextId) →
      let us := (groupUnits u ((s.groupsOf u).map Prod.snd)).filter s.unitBlocked
      (us = [] → Steps (.waitCycleProbe l rec) s fun t => done t ∧ t.probes = s.probes ∧ Only [] [] [] s t) ∧
      (∀ w, us = [w] → s.awaited w ≠ [] → Steps (.waitCycleProbe l rec) s fun t => t.probes = s.probes ++ [{ id := s.nextId, team := u, copies := (s.awaited w).eraseDups.length, record := some (s.recordAt l) }] ∧
        t.agenda = s.agenda ++ (s.awaited w).eraseDups.map (fun v => ⟨{ idx := s.nextId }, .probeMessage { run := s.nextId, dest := v, path := [w] }⟩) ∧ dequeued s t l ∧ Only [] [] [] s t ∧ sameMem s t)) ∧
    (∀ r m, r = operand rec 2 1 → m = BitVec.ofNat 72 (operand rec 4 9) → clean rec (fun i => decide (4 ≤ i) && decide (i ≤ 14)) → r < 64 → operand rec 13 1 < 2 → operand rec 14 1 < 2 →
      (operand rec 14 1 = 1 → s.maskOk r m = true → Steps (.warmStartStage l rec) s fun t => aget t.staged r = some m ∧ (∀ q, q ≠ r → aget t.staged q = aget s.staged q) ∧ done t ∧ Only [] [] [] s t) ∧
      (operand rec 14 1 = 0 → Steps (.warmStartStage l rec) s fun t => t.staged = s.staged ∧ done t ∧ Only [] [] [] s t) ∧
      (operand rec 14 1 = 1 → s.maskOk r m = false → Steps (.warmStartStage l rec) s fun t => t.staged = s.staged ∧ served s t l 2 32 0 ∧ Only [] [] [] s t)) ∧
    (clean rec (fun i => decide (i = 4) || decide (i = 5)) → operand rec 2 1 = linkRet l →
      (operand rec 4 2 < 2 ^ 14 → Steps (.waferId l rec) s fun t => t.waferNext = operand rec 4 2 ∧ t.wafer = s.wafer ∧ done t ∧ Only [] [] [] s t) ∧
      (2 ^ 14 ≤ operand rec 4 2 → Steps (.waferId l rec) s fun t => t.waferNext = s.waferNext ∧ served s t l 2 46 0 ∧ Only [] [] [] s t)) ∧
    (let a := operand rec 40 8
     let out := s.attestation ((List.range 32).map fun i => rec.getD (4 + i) 0)
     clean rec (fun i => (decide (4 ≤ i) && decide (i ≤ 35)) || (decide (40 ≤ i) && decide (i ≤ 47))) → operand rec 2 1 = linkRet l → a % 128 = 0 → a < 2 ^ 56 → faWafer a = s.wafer → faRet a = linkRet l → faOff a + 16384 ≤ 0xC00000000 →
      plainBytes s a 16384 → s.recordAt l + 64 ≤ a ∨ a + 16384 ≤ s.recordAt l → Steps (.attestation l rec) s fun t => dequeued s t l ∧
        (∀ i, i < 16384 → t.memByte (a + i) = out.getD i 0) ∧ (∀ i, i < 8 → t.memByte (s.recordAt l + 56 + i) = if i = 0 then 1 else 0) ∧
        (∀ z, ¬(a ≤ z ∧ z < a + 16384) → ¬(s.recordAt l + 56 ≤ z ∧ z < s.recordAt l + 64) → t.memByte z = s.memByte z) ∧ Only [] [] [] s t)

/-- R2, R24, R38, R327, R331, R394, R396, R397: what a cold and a warm start leave; a failed step of a warm start, or a firmware that measures otherwise than at the last cold start, makes it a cold one, and a failed step 6 or 7 of a cold one leaves every reticle dark. Points that are the model's: DRAM is kept under the wafer id that comes into force, and a failure that names a reticle of 64 or more does not recur in the cold start (log 71); the enabled sites of `startRecord` (logs 72, 94). -/
def Obligations.Starts : Prop :=
  (∀ (s : State) (fails : List StartFail),
    (fails.find? failsAll = none → Steps (.coldStart fails) s fun t => startedAs s t false fails ∧ t.startKind = 1 ∧ (∀ c, t.core c = {}) ∧ t.measured = some (sha256 s.firmware) ∧ keptMem s t) ∧
    (∀ f, fails.find? failsAll = some f → Steps (.coldStart fails) s fun t => t.startKind = 1 ∧ t.started = false ∧ t.grade = 3 ∧ t.startStep = (if f.reason = 8 then 6 else 7) ∧ t.teams = [] ∧
      (∀ r, r < 64 → (t.ret r).live = false) ∧ (∀ c, t.core c = {}) ∧ keptMem s t)) ∧
  (∀ (s : State) (l : Nat) (rec : List Byte) (fails : List StartFail), ready s l → clean rec (fun i => decide (4 ≤ i) && decide (i ≤ 14)) → operand rec 2 1 < 64 → operand rec 13 1 < 2 → operand rec 14 1 = 0 →
    (fails.any (s.isFailure true) = false → s.measured = some (sha256 s.firmware) → rising 0 s.cores = true → Steps (.warmStart l rec fails) s fun t => startedAs s t true fails ∧ t.startKind = 2 ∧
      ((∀ p, p < 128 → deadLanes fails p = []) → (∀ c, { t.core c with l1 := [] } = { (s.core c).warm with l1 := [] } ∧ (s.waferNext = s.wafer → t.core c = (s.core c).warm)) ∧ (s.waferNext = s.wafer → served s t l 1 0 0)) ∧
      (∀ r, r < 64 → (t.ret r).route0 = (s.ret r).route0 ∧ (t.ret r).route1 = (s.ret r).route1 ∧ (t.ret r).xlatRoot = (s.ret r).xlatRoot ∧ (t.ret r).saveBase = (s.ret r).saveBase)) ∧
    (fails.any (s.isFailure true) = true ∨ s.measured ≠ some (sha256 s.firmware) → (∀ f ∈ fails, f.ret < 64 → failsAll f = false) → Steps (.warmStart l rec fails) s fun t => startedAs s t false (fails.filter fun f => decide (f.ret < 64)) ∧ t.startKind = 1 ∧ (∀ c, t.core c = {}) ∧ t.measured = some (sha256 s.firmware) ∧ (s.waferNext = s.wafer → served s t l 1 0 0)))

/-! ### Encodings, steps and the whole machine -/

/-- R128 to R138: decoding the words of a well-formed instruction gives that instruction, with every operand at every value that its encoding admits, in the stream of its width; a control instruction takes 32 bits, a lane instruction 96. -/
def Obligations.DecodeInvertsEncode : Prop :=
  ∀ (i : Instr) (n w : Nat), i.wf = true → encode i = some (n, w) → w < 2 ^ n ∧ decodeTableWord n w = some i

/-- R130, R138: no bit of a word is ignored: a word that decodes to an instruction is the one that the encoder writes for it, and the instruction is well-formed. -/
def Obligations.NoBitIgnored : Prop :=
  (∀ (w : BitVec 32) (i : Instr), decodeControl w = .ok i → i.wf = true ∧ encode i = some (32, w.toNat)) ∧
  (∀ (w : BitVec 96) (i : Instr), decodeLane w = .ok i → i.wf = true ∧ encode i = some (96, w.toNat))

/-- Words written out from the layouts of R129 and R135 and the opcodes of R132 and R137: one for each group of the opcode table. -/
def Obligations.WordsDecode : Prop :=
  decodeTableWord 32 0xA02C282A = some (.uadd true 22 20 21 false) ∧ decodeTableWord 32 0x12000000 = some (.lrun false 0 0) ∧ decodeTableWord 32 0x96200000 = some (.exit true) ∧
  decodeTableWord 32 0x50280030 = some (.sget false 20 0x30) ∧ decodeTableWord 32 0x66412280 = some (.barrive false 2 9 20) ∧ decodeTableWord 32 0x7C06012A = some (.cpy false 48 9 1 2) ∧
  decodeTableWord 32 0x70003C3E = some (.gang false 30 31 false) ∧ decodeTableWord 32 0xC2083456 = some (.ulim true 4 0x3456) ∧
  decodeTableWord 96 0xC00100000000000000100010 = some (.addImmediate { p := true, d := 8, a := 0, mask := 0, moda := 0, modb := 0, modc := 0, rnd := 0, fmt := 1, imm := 1, ext := 0 }) ∧
  decodeTableWord 96 0x8800E1012006020002300000 = some (.fadd { p := true, d := 7, a := 8, b := 9, c := 0, mask := 3, moda := 0, modb := 64, modc := 0, rnd := 1, fmt := 3, ext := 0 }) ∧
  decodeTableWord 96 0x9000E040A000000000300000 = some (.ld { p := true, d := 7, a := 2, b := 5, c := 0, mask := 0, moda := 0, modb := 0, modc := 0, rnd := 0, fmt := 3, ext := 0 }) ∧
  decodeTableWord 32 0 = none ∧ decodeTableWord 32 0x16C00000 = none

namespace Sys2Proof.Claims

/-- A step begins: stalls that are over and blocking points are noted, the choice of a turn is counted where there are several, and time goes on as the turn takes it (log 2, log 3). -/
def begun (s : State) : State :=
  let u := s.look
  ({ u with freeCount := if u.turns.length ≤ 1 then u.freeCount else u.freeCount + 2 } : State).pass u.takes

/-- The state in which a stream of a split fetches. -/
def atSplit (s : State) (c g p : Nat) : State := { begun s with cur := (begun s).seat c g p }

/-- The state in which a control word of a split runs: the fetch has used the TLB and the home slice, and the step is named with the word. -/
def issuedCtl (s : State) (c g p : Nat) (w : BitVec 32) : State :=
  let t := (atSplit s c g p).useFetch c (atSplit s c g p).me.pc.toNat 4
  { t with cur := { t.cur with insn := w.setWidth 96 } }

/-- The state in which a lane word of a split runs: likewise, fetched in its three words. -/
def issuedLane (s : State) (c g p : Nat) (w : BitVec 96) : State :=
  let a := (atSplit s c g p).nextAddr
  let t := (((atSplit s c g p).useFetch c a 4).useFetch c (a + 4) 4).useFetch c (a + 8) 4
  { t with cur := { t.cur with insn := w } }

/-- A step of a stream is the meaning of its instruction; one that issues takes its slot of the lane cycle: its split is the last that its core picked for the stream, and its cluster is charged for the cycle (R286, R287). -/
def runsAs (lane : Bool) (i : Instr) (t : State) : Host.Outcome State Fault Refusal :=
  match exec i t with
  | .next u => .next (if issued lane t u then (if lane then u.laneSlot t else u.ctlSlot t) else u)
  | .fault f => .fault f
  | .refused r => .refused r

end Sys2Proof.Claims

/-- R31, R128, R138, R286: when the turn is a split's and the word at its control PC, or the next of its lane block, decodes to an instruction, the step is the meaning of that instruction at the state in which the word issued; a word that decodes to none is an illegal encoding; a unit's turn is its step, and where no turn is possible time goes on. Which of the possible turns is taken, and how time goes on with it and without one, are the model's choices (log 2, log 3). -/
def Obligations.StepRunsWhatDecodes : Prop :=
  (∀ (s : State) (c g p : Nat) (w : BitVec 32), s.look.turn = some (.ctl c g p) → let t := issuedCtl s c g p w
    (atSplit s c g p).fetchControl c (atSplit s c g p).me.pc.toNat = .ok w →
      (∀ i, decodeControl w = .ok i → step s = runsAs false i t) ∧ ∀ e, decodeControl w = .error e → step s = runsAs false (.illegalEncoding (.control w)) t) ∧
  (∀ (s : State) (c g p : Nat) (w : BitVec 96), s.look.turn = some (.lane c g p) → let t := issuedLane s c g p w
    (atSplit s c g p).nextLane = .ok w →
      (∀ i, decodeLane w = .ok i → step s = runsAs true i t) ∧ ∀ e, decodeLane w = .error e → step s = runsAs true (.illegalEncoding (.lane w)) t) ∧
  (∀ (s : State) (e : Pend), s.look.turn = some (.unit e) → step s = exec e.ins { begun s with cur := e.unit }) ∧
  (∀ (s : State) (k : Nat) (e : Pend), s.look.turn = some (.agenda k) → (begun s).agenda[k]? = some e → step s = exec e.ins { begun s with agenda := (begun s).agenda.eraseIdx k, cur := e.unit }) ∧
  (∀ (s : State) (z : Nat) (e : Pend) (l : List (Nat × Pend)), s.look.turn = some .timer → (begun s).timers = (z, e) :: l → step s = exec e.ins { begun s with timers := l, cur := e.unit }) ∧
  (∀ (s : State) (e : Pend) (l : List Pend), s.look.turn = some .input → (begun s).inbox = e :: l → step s = exec e.ins { begun s with inbox := l, cur := e.unit }) ∧
  (∀ (s : State), s.look.turn = none → step s = .next s.look.idle)

/-- The memory keeps its canonical form through every step, whatever the state and whatever the step runs: addresses strictly rise and no entry holds what an unlisted address reads as (the model's own form, log 5). -/
def Obligations.MemoryStaysCanonical : Prop :=
  ∀ (s t : State), Memory.wf s.mem = true → step s = .next t → Memory.wf t.mem = true

/-- What reset leaves: memory in canonical form with nothing listed, no team, group or job, link 0 active and link 1 standby (R330), `CAP_SAFE` at 24,000 W (R390), `CUR_HWM` at 0x14000 (R287), every cluster at point 2 with its governor on (R319), tiles with `THR` 0x7F80 (R54), the cold start as the one step to come (log 4); what no rule gives is the model's choice (log 6). -/
def Obligations.ResetLeaves : Prop :=
  let s := State.reset
  Memory.wf s.mem = true ∧ s.mem = [] ∧ s.teams = [] ∧ (∀ c, (s.core c).groups = [] ∧ (s.core c).jobs = []) ∧ s.link0.role = 0 ∧ s.link1.role = 1 ∧ s.capSafe = 24000 ∧
  (∀ r k, (s.cluster r k).curHwm = 0x14000 ∧ (s.cluster r k).tgt = 2 ∧ (s.cluster r k).cur = 2 ∧ (s.cluster r k).gov = true) ∧
  (∀ c i, ((s.core c).tile i).info.thr = 0x7F80 ∧ ((s.core c).tile i).info.silt = 0) ∧ s.inbox = [{ ins := .coldStart [] }] ∧ s.agenda = [] ∧ s.timers = []
end

