-- ==== Sys2Proof/Laws/Tables.lean ====
section
/-! SUPPORT. Laws of the sorted association lists: read after write, and the canonical form. -/

namespace Sys2Proof.Machine

variable {α : Type}

@[simp] theorem tget_aput (d : α) (t : List (Nat × α)) (i j : Nat) (v : α) :
    tget d (aput t i v) j = if i = j then v else tget d t j := by
  induction t with
  | nil => simp [aput, tget]
  | cons e t ih =>
    obtain ⟨k, w⟩ := e
    simp only [aput]
    split
    · simp [tget]
    · split
      · subst_vars; simp only [tget]; split <;> simp_all
      · simp only [tget, ih]; split <;> split <;> simp_all

@[simp] theorem tget_adel (d : α) (t : List (Nat × α)) (i j : Nat) :
    tget d (adel t i) j = if i = j then d else tget d t j := by
  induction t with
  | nil => simp [adel, tget]
  | cons e t ih =>
    obtain ⟨k, w⟩ := e
    simp only [adel]
    split
    · subst_vars; simp only [ih, tget]; split <;> simp_all
    · simp only [tget, ih]; split <;> split <;> simp_all

@[simp] theorem aget_aput (t : List (Nat × α)) (i j : Nat) (v : α) :
    aget (aput t i v) j = if i = j then some v else aget t j := by
  induction t with
  | nil => simp [aput, aget]
  | cons e t ih =>
    obtain ⟨k, w⟩ := e
    simp only [aput]
    split
    · simp [aget]
    · split
      · subst_vars; simp only [aget]; split <;> simp_all
      · simp only [aget, ih]; split <;> split <;> simp_all

@[simp] theorem aget_adel (t : List (Nat × α)) (i j : Nat) :
    aget (adel t i) j = if i = j then none else aget t j := by
  induction t with
  | nil => simp [adel, aget]
  | cons e t ih =>
    obtain ⟨k, w⟩ := e
    simp only [adel]
    split
    · subst_vars; simp only [ih, aget]; split <;> simp_all
    · simp only [aget, ih]; split <;> split <;> simp_all

@[simp] theorem tget_tset [DecidableEq α] (d : α) (t : List (Nat × α)) (i j : Nat) (v : α) :
    tget d (tset d t i v) j = if i = j then v else tget d t j := by
  unfold tset
  split
  · subst_vars; simp
  · simp

/-- A listed entry is the one that the array reads. -/
theorem tget_of_aget (d : α) {t : List (Nat × α)} {i : Nat} {v : α} (h : aget t i = some v) : tget d t i = v := by
  induction t with
  | nil => simp [aget] at h
  | cons e t ih =>
    obtain ⟨k, w⟩ := e
    simp only [aget, tget] at h ⊢
    split at h <;> simp_all

theorem rising_mono {t : List (Nat × α)} {lo hi : Nat} (h : rising hi t = true) (l : lo ≤ hi) : rising lo t = true := by
  cases t with
  | nil => rfl
  | cons e t => simp only [rising, Bool.and_eq_true, decide_eq_true_eq] at h ⊢; exact ⟨Nat.le_trans l h.1, h.2⟩

theorem rising_aput {t : List (Nat × α)} {lo i : Nat} (v : α) (h : rising lo t = true) (l : lo ≤ i) : rising lo (aput t i v) = true := by
  induction t generalizing lo with
  | nil => simp [aput, rising, l]
  | cons e t ih =>
    obtain ⟨k, w⟩ := e
    simp only [rising, Bool.and_eq_true, decide_eq_true_eq] at h
    simp only [aput]
    split
    · rename_i c; simp only [rising, Bool.and_eq_true, decide_eq_true_eq]; exact ⟨l, by omega, h.2⟩
    · split
      · subst_vars; simp only [rising, Bool.and_eq_true, decide_eq_true_eq]; exact h
      · simp only [rising, Bool.and_eq_true, decide_eq_true_eq]; exact ⟨h.1, ih h.2 (by omega)⟩

theorem rising_adel {t : List (Nat × α)} {lo : Nat} (i : Nat) (h : rising lo t = true) : rising lo (adel t i) = true := by
  induction t generalizing lo with
  | nil => rfl
  | cons e t ih =>
    obtain ⟨k, w⟩ := e
    simp only [rising, Bool.and_eq_true, decide_eq_true_eq] at h
    simp only [adel]
    split
    · exact ih (rising_mono h.2 (by omega))
    · simp only [rising, Bool.and_eq_true, decide_eq_true_eq]; exact ⟨h.1, ih h.2⟩

theorem mem_adel {t : List (Nat × α)} {i : Nat} {e : Nat × α} (h : e ∈ adel t i) : e ∈ t := by
  induction t with
  | nil => exact h
  | cons f t ih =>
    obtain ⟨k, w⟩ := f
    simp only [adel] at h
    split at h
    · exact List.mem_cons_of_mem _ (ih h)
    · rcases List.mem_cons.1 h with h | h
      · simp [h]
      · exact List.mem_cons_of_mem _ (ih h)

theorem mem_aput {t : List (Nat × α)} {i : Nat} {v : α} {e : Nat × α} (h : e ∈ aput t i v) : e = (i, v) ∨ e ∈ t := by
  induction t with
  | nil => exact .inl (by simpa [aput] using h)
  | cons f t ih =>
    obtain ⟨k, w⟩ := f
    simp only [aput] at h
    split at h
    · rcases List.mem_cons.1 h with h | h
      · exact .inl h
      · exact .inr h
    · split at h
      · rcases List.mem_cons.1 h with h | h
        · exact .inl h
        · exact .inr (List.mem_cons_of_mem _ h)
      · rcases List.mem_cons.1 h with h | h
        · exact .inr (by simp [h])
        · exact (ih h).imp_right (List.mem_cons_of_mem _)

/-- Writing keeps the canonical form. -/
theorem twf_tset [DecidableEq α] {d : α} {t : List (Nat × α)} (i : Nat) (v : α) (h : twf d t = true) : twf d (tset d t i v) = true := by
  simp only [twf, Bool.and_eq_true, List.all_eq_true, decide_eq_true_eq] at h ⊢
  unfold tset
  split
  · exact ⟨rising_adel _ h.1, fun e m => h.2 e (mem_adel m)⟩
  · refine ⟨rising_aput _ h.1 (Nat.zero_le _), fun e m => ?_⟩
    rcases mem_aput m with r | r
    · subst r; assumption
    · exact h.2 e r

theorem twf_nil [DecidableEq α] (d : α) : twf d ([] : List (Nat × α)) = true := rfl

end Sys2Proof.Machine
end

