-- ==== Sys2Proof/Laws/State.lean ====
section
/-! SUPPORT. What each update of the state leaves alone, one lemma per field and update. -/

namespace Sys2Proof.Machine

set_option Elab.async false

variable (s : State)


@[simp] theorem State.setMem_now (a : Nat) (b : Byte) : (s.setMem a b).now = s.now := rfl
@[simp] theorem State.setMem_cur (a : Nat) (b : Byte) : (s.setMem a b).cur = s.cur := rfl
@[simp] theorem State.setMem_cores (a : Nat) (b : Byte) : (s.setMem a b).cores = s.cores := rfl
@[simp] theorem State.setMem_rets (a : Nat) (b : Byte) : (s.setMem a b).rets = s.rets := rfl
@[simp] theorem State.setMem_teams (a : Nat) (b : Byte) : (s.setMem a b).teams = s.teams := rfl
@[simp] theorem State.setMem_launches (a : Nat) (b : Byte) : (s.setMem a b).launches = s.launches := rfl
@[simp] theorem State.setMem_nextId (a : Nat) (b : Byte) : (s.setMem a b).nextId = s.nextId := rfl
@[simp] theorem State.setMem_detects (a : Nat) (b : Byte) : (s.setMem a b).detects = s.detects := rfl
@[simp] theorem State.setMem_gbars (a : Nat) (b : Byte) : (s.setMem a b).gbars = s.gbars := rfl
@[simp] theorem State.setMem_probes (a : Nat) (b : Byte) : (s.setMem a b).probes = s.probes := rfl
@[simp] theorem State.setMem_changes (a : Nat) (b : Byte) : (s.setMem a b).changes = s.changes := rfl
@[simp] theorem State.setMem_wafer (a : Nat) (b : Byte) : (s.setMem a b).wafer = s.wafer := rfl
@[simp] theorem State.setMem_waferNext (a : Nat) (b : Byte) : (s.setMem a b).waferNext = s.waferNext := rfl
@[simp] theorem State.setMem_gradeA (a : Nat) (b : Byte) : (s.setMem a b).gradeA = s.gradeA := rfl
@[simp] theorem State.setMem_grade (a : Nat) (b : Byte) : (s.setMem a b).grade = s.grade := rfl
@[simp] theorem State.setMem_startKind (a : Nat) (b : Byte) : (s.setMem a b).startKind = s.startKind := rfl
@[simp] theorem State.setMem_startStep (a : Nat) (b : Byte) : (s.setMem a b).startStep = s.startStep := rfl
@[simp] theorem State.setMem_started (a : Nat) (b : Byte) : (s.setMem a b).started = s.started := rfl
@[simp] theorem State.setMem_link0 (a : Nat) (b : Byte) : (s.setMem a b).link0 = s.link0 := rfl
@[simp] theorem State.setMem_link1 (a : Nat) (b : Byte) : (s.setMem a b).link1 = s.link1 := rfl
@[simp] theorem State.setMem_staged (a : Nat) (b : Byte) : (s.setMem a b).staged = s.staged := rfl
@[simp] theorem State.setMem_firmware (a : Nat) (b : Byte) : (s.setMem a b).firmware = s.firmware := rfl
@[simp] theorem State.setMem_measured (a : Nat) (b : Byte) : (s.setMem a b).measured = s.measured := rfl
@[simp] theorem State.setMem_capSafe (a : Nat) (b : Byte) : (s.setMem a b).capSafe = s.capSafe := rfl
@[simp] theorem State.setMem_storedParts (a : Nat) (b : Byte) : (s.setMem a b).storedParts = s.storedParts := rfl
@[simp] theorem State.setMem_ring (a : Nat) (b : Byte) : (s.setMem a b).ring = s.ring := rfl
@[simp] theorem State.setMem_outbox (a : Nat) (b : Byte) : (s.setMem a b).outbox = s.outbox := rfl
@[simp] theorem State.setMem_ackbox (a : Nat) (b : Byte) : (s.setMem a b).ackbox = s.ackbox := rfl
@[simp] theorem State.setMem_endsOut (a : Nat) (b : Byte) : (s.setMem a b).endsOut = s.endsOut := rfl
@[simp] theorem State.setMem_pausesOut (a : Nat) (b : Byte) : (s.setMem a b).pausesOut = s.pausesOut := rfl
@[simp] theorem State.setMem_entriesOut (a : Nat) (b : Byte) : (s.setMem a b).entriesOut = s.entriesOut := rfl
@[simp] theorem State.setMem_inbox (a : Nat) (b : Byte) : (s.setMem a b).inbox = s.inbox := rfl
@[simp] theorem State.setMem_agenda (a : Nat) (b : Byte) : (s.setMem a b).agenda = s.agenda := rfl
@[simp] theorem State.setMem_timers (a : Nat) (b : Byte) : (s.setMem a b).timers = s.timers := rfl
@[simp] theorem State.setMem_freeCount (a : Nat) (b : Byte) : (s.setMem a b).freeCount = s.freeCount := rfl

@[simp] theorem State.setCore_now (c : Nat) (k : Core) : (s.setCore c k).now = s.now := rfl
@[simp] theorem State.setCore_cur (c : Nat) (k : Core) : (s.setCore c k).cur = s.cur := rfl
@[simp] theorem State.setCore_mem (c : Nat) (k : Core) : (s.setCore c k).mem = s.mem := rfl
@[simp] theorem State.setCore_rets (c : Nat) (k : Core) : (s.setCore c k).rets = s.rets := rfl
@[simp] theorem State.setCore_teams (c : Nat) (k : Core) : (s.setCore c k).teams = s.teams := rfl
@[simp] theorem State.setCore_launches (c : Nat) (k : Core) : (s.setCore c k).launches = s.launches := rfl
@[simp] theorem State.setCore_nextId (c : Nat) (k : Core) : (s.setCore c k).nextId = s.nextId := rfl
@[simp] theorem State.setCore_detects (c : Nat) (k : Core) : (s.setCore c k).detects = s.detects := rfl
@[simp] theorem State.setCore_gbars (c : Nat) (k : Core) : (s.setCore c k).gbars = s.gbars := rfl
@[simp] theorem State.setCore_probes (c : Nat) (k : Core) : (s.setCore c k).probes = s.probes := rfl
@[simp] theorem State.setCore_changes (c : Nat) (k : Core) : (s.setCore c k).changes = s.changes := rfl
@[simp] theorem State.setCore_wafer (c : Nat) (k : Core) : (s.setCore c k).wafer = s.wafer := rfl
@[simp] theorem State.setCore_waferNext (c : Nat) (k : Core) : (s.setCore c k).waferNext = s.waferNext := rfl
@[simp] theorem State.setCore_gradeA (c : Nat) (k : Core) : (s.setCore c k).gradeA = s.gradeA := rfl
@[simp] theorem State.setCore_grade (c : Nat) (k : Core) : (s.setCore c k).grade = s.grade := rfl
@[simp] theorem State.setCore_startKind (c : Nat) (k : Core) : (s.setCore c k).startKind = s.startKind := rfl
@[simp] theorem State.setCore_startStep (c : Nat) (k : Core) : (s.setCore c k).startStep = s.startStep := rfl
@[simp] theorem State.setCore_started (c : Nat) (k : Core) : (s.setCore c k).started = s.started := rfl
@[simp] theorem State.setCore_link0 (c : Nat) (k : Core) : (s.setCore c k).link0 = s.link0 := rfl
@[simp] theorem State.setCore_link1 (c : Nat) (k : Core) : (s.setCore c k).link1 = s.link1 := rfl
@[simp] theorem State.setCore_staged (c : Nat) (k : Core) : (s.setCore c k).staged = s.staged := rfl
@[simp] theorem State.setCore_firmware (c : Nat) (k : Core) : (s.setCore c k).firmware = s.firmware := rfl
@[simp] theorem State.setCore_measured (c : Nat) (k : Core) : (s.setCore c k).measured = s.measured := rfl
@[simp] theorem State.setCore_capSafe (c : Nat) (k : Core) : (s.setCore c k).capSafe = s.capSafe := rfl
@[simp] theorem State.setCore_storedParts (c : Nat) (k : Core) : (s.setCore c k).storedParts = s.storedParts := rfl
@[simp] theorem State.setCore_ring (c : Nat) (k : Core) : (s.setCore c k).ring = s.ring := rfl
@[simp] theorem State.setCore_outbox (c : Nat) (k : Core) : (s.setCore c k).outbox = s.outbox := rfl
@[simp] theorem State.setCore_ackbox (c : Nat) (k : Core) : (s.setCore c k).ackbox = s.ackbox := rfl
@[simp] theorem State.setCore_endsOut (c : Nat) (k : Core) : (s.setCore c k).endsOut = s.endsOut := rfl
@[simp] theorem State.setCore_pausesOut (c : Nat) (k : Core) : (s.setCore c k).pausesOut = s.pausesOut := rfl
@[simp] theorem State.setCore_entriesOut (c : Nat) (k : Core) : (s.setCore c k).entriesOut = s.entriesOut := rfl
@[simp] theorem State.setCore_inbox (c : Nat) (k : Core) : (s.setCore c k).inbox = s.inbox := rfl
@[simp] theorem State.setCore_agenda (c : Nat) (k : Core) : (s.setCore c k).agenda = s.agenda := rfl
@[simp] theorem State.setCore_timers (c : Nat) (k : Core) : (s.setCore c k).timers = s.timers := rfl
@[simp] theorem State.setCore_freeCount (c : Nat) (k : Core) : (s.setCore c k).freeCount = s.freeCount := rfl

@[simp] theorem State.modCore_now (c : Nat) (f : Core → Core) : (s.modCore c f).now = s.now := rfl
@[simp] theorem State.modCore_cur (c : Nat) (f : Core → Core) : (s.modCore c f).cur = s.cur := rfl
@[simp] theorem State.modCore_mem (c : Nat) (f : Core → Core) : (s.modCore c f).mem = s.mem := rfl
@[simp] theorem State.modCore_rets (c : Nat) (f : Core → Core) : (s.modCore c f).rets = s.rets := rfl
@[simp] theorem State.modCore_teams (c : Nat) (f : Core → Core) : (s.modCore c f).teams = s.teams := rfl
@[simp] theorem State.modCore_launches (c : Nat) (f : Core → Core) : (s.modCore c f).launches = s.launches := rfl
@[simp] theorem State.modCore_nextId (c : Nat) (f : Core → Core) : (s.modCore c f).nextId = s.nextId := rfl
@[simp] theorem State.modCore_detects (c : Nat) (f : Core → Core) : (s.modCore c f).detects = s.detects := rfl
@[simp] theorem State.modCore_gbars (c : Nat) (f : Core → Core) : (s.modCore c f).gbars = s.gbars := rfl
@[simp] theorem State.modCore_probes (c : Nat) (f : Core → Core) : (s.modCore c f).probes = s.probes := rfl
@[simp] theorem State.modCore_changes (c : Nat) (f : Core → Core) : (s.modCore c f).changes = s.changes := rfl
@[simp] theorem State.modCore_wafer (c : Nat) (f : Core → Core) : (s.modCore c f).wafer = s.wafer := rfl
@[simp] theorem State.modCore_waferNext (c : Nat) (f : Core → Core) : (s.modCore c f).waferNext = s.waferNext := rfl
@[simp] theorem State.modCore_gradeA (c : Nat) (f : Core → Core) : (s.modCore c f).gradeA = s.gradeA := rfl
@[simp] theorem State.modCore_grade (c : Nat) (f : Core → Core) : (s.modCore c f).grade = s.grade := rfl
@[simp] theorem State.modCore_startKind (c : Nat) (f : Core → Core) : (s.modCore c f).startKind = s.startKind := rfl
@[simp] theorem State.modCore_startStep (c : Nat) (f : Core → Core) : (s.modCore c f).startStep = s.startStep := rfl
@[simp] theorem State.modCore_started (c : Nat) (f : Core → Core) : (s.modCore c f).started = s.started := rfl
@[simp] theorem State.modCore_link0 (c : Nat) (f : Core → Core) : (s.modCore c f).link0 = s.link0 := rfl
@[simp] theorem State.modCore_link1 (c : Nat) (f : Core → Core) : (s.modCore c f).link1 = s.link1 := rfl
@[simp] theorem State.modCore_staged (c : Nat) (f : Core → Core) : (s.modCore c f).staged = s.staged := rfl
@[simp] theorem State.modCore_firmware (c : Nat) (f : Core → Core) : (s.modCore c f).firmware = s.firmware := rfl
@[simp] theorem State.modCore_measured (c : Nat) (f : Core → Core) : (s.modCore c f).measured = s.measured := rfl
@[simp] theorem State.modCore_capSafe (c : Nat) (f : Core → Core) : (s.modCore c f).capSafe = s.capSafe := rfl
@[simp] theorem State.modCore_storedParts (c : Nat) (f : Core → Core) : (s.modCore c f).storedParts = s.storedParts := rfl
@[simp] theorem State.modCore_ring (c : Nat) (f : Core → Core) : (s.modCore c f).ring = s.ring := rfl
@[simp] theorem State.modCore_outbox (c : Nat) (f : Core → Core) : (s.modCore c f).outbox = s.outbox := rfl
@[simp] theorem State.modCore_ackbox (c : Nat) (f : Core → Core) : (s.modCore c f).ackbox = s.ackbox := rfl
@[simp] theorem State.modCore_endsOut (c : Nat) (f : Core → Core) : (s.modCore c f).endsOut = s.endsOut := rfl
@[simp] theorem State.modCore_pausesOut (c : Nat) (f : Core → Core) : (s.modCore c f).pausesOut = s.pausesOut := rfl
@[simp] theorem State.modCore_entriesOut (c : Nat) (f : Core → Core) : (s.modCore c f).entriesOut = s.entriesOut := rfl
@[simp] theorem State.modCore_inbox (c : Nat) (f : Core → Core) : (s.modCore c f).inbox = s.inbox := rfl
@[simp] theorem State.modCore_agenda (c : Nat) (f : Core → Core) : (s.modCore c f).agenda = s.agenda := rfl
@[simp] theorem State.modCore_timers (c : Nat) (f : Core → Core) : (s.modCore c f).timers = s.timers := rfl
@[simp] theorem State.modCore_freeCount (c : Nat) (f : Core → Core) : (s.modCore c f).freeCount = s.freeCount := rfl

@[simp] theorem State.setRet_now (r : Nat) (x : Reticle) : (s.setRet r x).now = s.now := rfl
@[simp] theorem State.setRet_cur (r : Nat) (x : Reticle) : (s.setRet r x).cur = s.cur := rfl
@[simp] theorem State.setRet_mem (r : Nat) (x : Reticle) : (s.setRet r x).mem = s.mem := rfl
@[simp] theorem State.setRet_cores (r : Nat) (x : Reticle) : (s.setRet r x).cores = s.cores := rfl
@[simp] theorem State.setRet_teams (r : Nat) (x : Reticle) : (s.setRet r x).teams = s.teams := rfl
@[simp] theorem State.setRet_launches (r : Nat) (x : Reticle) : (s.setRet r x).launches = s.launches := rfl
@[simp] theorem State.setRet_nextId (r : Nat) (x : Reticle) : (s.setRet r x).nextId = s.nextId := rfl
@[simp] theorem State.setRet_detects (r : Nat) (x : Reticle) : (s.setRet r x).detects = s.detects := rfl
@[simp] theorem State.setRet_gbars (r : Nat) (x : Reticle) : (s.setRet r x).gbars = s.gbars := rfl
@[simp] theorem State.setRet_probes (r : Nat) (x : Reticle) : (s.setRet r x).probes = s.probes := rfl
@[simp] theorem State.setRet_changes (r : Nat) (x : Reticle) : (s.setRet r x).changes = s.changes := rfl
@[simp] theorem State.setRet_wafer (r : Nat) (x : Reticle) : (s.setRet r x).wafer = s.wafer := rfl
@[simp] theorem State.setRet_waferNext (r : Nat) (x : Reticle) : (s.setRet r x).waferNext = s.waferNext := rfl
@[simp] theorem State.setRet_gradeA (r : Nat) (x : Reticle) : (s.setRet r x).gradeA = s.gradeA := rfl
@[simp] theorem State.setRet_grade (r : Nat) (x : Reticle) : (s.setRet r x).grade = s.grade := rfl
@[simp] theorem State.setRet_startKind (r : Nat) (x : Reticle) : (s.setRet r x).startKind = s.startKind := rfl
@[simp] theorem State.setRet_startStep (r : Nat) (x : Reticle) : (s.setRet r x).startStep = s.startStep := rfl
@[simp] theorem State.setRet_started (r : Nat) (x : Reticle) : (s.setRet r x).started = s.started := rfl
@[simp] theorem State.setRet_link0 (r : Nat) (x : Reticle) : (s.setRet r x).link0 = s.link0 := rfl
@[simp] theorem State.setRet_link1 (r : Nat) (x : Reticle) : (s.setRet r x).link1 = s.link1 := rfl
@[simp] theorem State.setRet_staged (r : Nat) (x : Reticle) : (s.setRet r x).staged = s.staged := rfl
@[simp] theorem State.setRet_firmware (r : Nat) (x : Reticle) : (s.setRet r x).firmware = s.firmware := rfl
@[simp] theorem State.setRet_measured (r : Nat) (x : Reticle) : (s.setRet r x).measured = s.measured := rfl
@[simp] theorem State.setRet_capSafe (r : Nat) (x : Reticle) : (s.setRet r x).capSafe = s.capSafe := rfl
@[simp] theorem State.setRet_storedParts (r : Nat) (x : Reticle) : (s.setRet r x).storedParts = s.storedParts := rfl
@[simp] theorem State.setRet_ring (r : Nat) (x : Reticle) : (s.setRet r x).ring = s.ring := rfl
@[simp] theorem State.setRet_outbox (r : Nat) (x : Reticle) : (s.setRet r x).outbox = s.outbox := rfl
@[simp] theorem State.setRet_ackbox (r : Nat) (x : Reticle) : (s.setRet r x).ackbox = s.ackbox := rfl
@[simp] theorem State.setRet_endsOut (r : Nat) (x : Reticle) : (s.setRet r x).endsOut = s.endsOut := rfl
@[simp] theorem State.setRet_pausesOut (r : Nat) (x : Reticle) : (s.setRet r x).pausesOut = s.pausesOut := rfl
@[simp] theorem State.setRet_entriesOut (r : Nat) (x : Reticle) : (s.setRet r x).entriesOut = s.entriesOut := rfl
@[simp] theorem State.setRet_inbox (r : Nat) (x : Reticle) : (s.setRet r x).inbox = s.inbox := rfl
@[simp] theorem State.setRet_agenda (r : Nat) (x : Reticle) : (s.setRet r x).agenda = s.agenda := rfl
@[simp] theorem State.setRet_timers (r : Nat) (x : Reticle) : (s.setRet r x).timers = s.timers := rfl
@[simp] theorem State.setRet_freeCount (r : Nat) (x : Reticle) : (s.setRet r x).freeCount = s.freeCount := rfl

@[simp] theorem State.modRet_now (r : Nat) (f : Reticle → Reticle) : (s.modRet r f).now = s.now := rfl
@[simp] theorem State.modRet_cur (r : Nat) (f : Reticle → Reticle) : (s.modRet r f).cur = s.cur := rfl
@[simp] theorem State.modRet_mem (r : Nat) (f : Reticle → Reticle) : (s.modRet r f).mem = s.mem := rfl
@[simp] theorem State.modRet_cores (r : Nat) (f : Reticle → Reticle) : (s.modRet r f).cores = s.cores := rfl
@[simp] theorem State.modRet_teams (r : Nat) (f : Reticle → Reticle) : (s.modRet r f).teams = s.teams := rfl
@[simp] theorem State.modRet_launches (r : Nat) (f : Reticle → Reticle) : (s.modRet r f).launches = s.launches := rfl
@[simp] theorem State.modRet_nextId (r : Nat) (f : Reticle → Reticle) : (s.modRet r f).nextId = s.nextId := rfl
@[simp] theorem State.modRet_detects (r : Nat) (f : Reticle → Reticle) : (s.modRet r f).detects = s.detects := rfl
@[simp] theorem State.modRet_gbars (r : Nat) (f : Reticle → Reticle) : (s.modRet r f).gbars = s.gbars := rfl
@[simp] theorem State.modRet_probes (r : Nat) (f : Reticle → Reticle) : (s.modRet r f).probes = s.probes := rfl
@[simp] theorem State.modRet_changes (r : Nat) (f : Reticle → Reticle) : (s.modRet r f).changes = s.changes := rfl
@[simp] theorem State.modRet_wafer (r : Nat) (f : Reticle → Reticle) : (s.modRet r f).wafer = s.wafer := rfl
@[simp] theorem State.modRet_waferNext (r : Nat) (f : Reticle → Reticle) : (s.modRet r f).waferNext = s.waferNext := rfl
@[simp] theorem State.modRet_gradeA (r : Nat) (f : Reticle → Reticle) : (s.modRet r f).gradeA = s.gradeA := rfl
@[simp] theorem State.modRet_grade (r : Nat) (f : Reticle → Reticle) : (s.modRet r f).grade = s.grade := rfl
@[simp] theorem State.modRet_startKind (r : Nat) (f : Reticle → Reticle) : (s.modRet r f).startKind = s.startKind := rfl
@[simp] theorem State.modRet_startStep (r : Nat) (f : Reticle → Reticle) : (s.modRet r f).startStep = s.startStep := rfl
@[simp] theorem State.modRet_started (r : Nat) (f : Reticle → Reticle) : (s.modRet r f).started = s.started := rfl
@[simp] theorem State.modRet_link0 (r : Nat) (f : Reticle → Reticle) : (s.modRet r f).link0 = s.link0 := rfl
@[simp] theorem State.modRet_link1 (r : Nat) (f : Reticle → Reticle) : (s.modRet r f).link1 = s.link1 := rfl
@[simp] theorem State.modRet_staged (r : Nat) (f : Reticle → Reticle) : (s.modRet r f).staged = s.staged := rfl
@[simp] theorem State.modRet_firmware (r : Nat) (f : Reticle → Reticle) : (s.modRet r f).firmware = s.firmware := rfl
@[simp] theorem State.modRet_measured (r : Nat) (f : Reticle → Reticle) : (s.modRet r f).measured = s.measured := rfl
@[simp] theorem State.modRet_capSafe (r : Nat) (f : Reticle → Reticle) : (s.modRet r f).capSafe = s.capSafe := rfl
@[simp] theorem State.modRet_storedParts (r : Nat) (f : Reticle → Reticle) : (s.modRet r f).storedParts = s.storedParts := rfl
@[simp] theorem State.modRet_ring (r : Nat) (f : Reticle → Reticle) : (s.modRet r f).ring = s.ring := rfl
@[simp] theorem State.modRet_outbox (r : Nat) (f : Reticle → Reticle) : (s.modRet r f).outbox = s.outbox := rfl
@[simp] theorem State.modRet_ackbox (r : Nat) (f : Reticle → Reticle) : (s.modRet r f).ackbox = s.ackbox := rfl
@[simp] theorem State.modRet_endsOut (r : Nat) (f : Reticle → Reticle) : (s.modRet r f).endsOut = s.endsOut := rfl
@[simp] theorem State.modRet_pausesOut (r : Nat) (f : Reticle → Reticle) : (s.modRet r f).pausesOut = s.pausesOut := rfl
@[simp] theorem State.modRet_entriesOut (r : Nat) (f : Reticle → Reticle) : (s.modRet r f).entriesOut = s.entriesOut := rfl
@[simp] theorem State.modRet_inbox (r : Nat) (f : Reticle → Reticle) : (s.modRet r f).inbox = s.inbox := rfl
@[simp] theorem State.modRet_agenda (r : Nat) (f : Reticle → Reticle) : (s.modRet r f).agenda = s.agenda := rfl
@[simp] theorem State.modRet_timers (r : Nat) (f : Reticle → Reticle) : (s.modRet r f).timers = s.timers := rfl
@[simp] theorem State.modRet_freeCount (r : Nat) (f : Reticle → Reticle) : (s.modRet r f).freeCount = s.freeCount := rfl

@[simp] theorem State.setTeam_now (t : Nat) (x : Team) : (s.setTeam t x).now = s.now := rfl
@[simp] theorem State.setTeam_cur (t : Nat) (x : Team) : (s.setTeam t x).cur = s.cur := rfl
@[simp] theorem State.setTeam_mem (t : Nat) (x : Team) : (s.setTeam t x).mem = s.mem := rfl
@[simp] theorem State.setTeam_cores (t : Nat) (x : Team) : (s.setTeam t x).cores = s.cores := rfl
@[simp] theorem State.setTeam_rets (t : Nat) (x : Team) : (s.setTeam t x).rets = s.rets := rfl
@[simp] theorem State.setTeam_launches (t : Nat) (x : Team) : (s.setTeam t x).launches = s.launches := rfl
@[simp] theorem State.setTeam_nextId (t : Nat) (x : Team) : (s.setTeam t x).nextId = s.nextId := rfl
@[simp] theorem State.setTeam_detects (t : Nat) (x : Team) : (s.setTeam t x).detects = s.detects := rfl
@[simp] theorem State.setTeam_gbars (t : Nat) (x : Team) : (s.setTeam t x).gbars = s.gbars := rfl
@[simp] theorem State.setTeam_probes (t : Nat) (x : Team) : (s.setTeam t x).probes = s.probes := rfl
@[simp] theorem State.setTeam_changes (t : Nat) (x : Team) : (s.setTeam t x).changes = s.changes := rfl
@[simp] theorem State.setTeam_wafer (t : Nat) (x : Team) : (s.setTeam t x).wafer = s.wafer := rfl
@[simp] theorem State.setTeam_waferNext (t : Nat) (x : Team) : (s.setTeam t x).waferNext = s.waferNext := rfl
@[simp] theorem State.setTeam_gradeA (t : Nat) (x : Team) : (s.setTeam t x).gradeA = s.gradeA := rfl
@[simp] theorem State.setTeam_grade (t : Nat) (x : Team) : (s.setTeam t x).grade = s.grade := rfl
@[simp] theorem State.setTeam_startKind (t : Nat) (x : Team) : (s.setTeam t x).startKind = s.startKind := rfl
@[simp] theorem State.setTeam_startStep (t : Nat) (x : Team) : (s.setTeam t x).startStep = s.startStep := rfl
@[simp] theorem State.setTeam_started (t : Nat) (x : Team) : (s.setTeam t x).started = s.started := rfl
@[simp] theorem State.setTeam_link0 (t : Nat) (x : Team) : (s.setTeam t x).link0 = s.link0 := rfl
@[simp] theorem State.setTeam_link1 (t : Nat) (x : Team) : (s.setTeam t x).link1 = s.link1 := rfl
@[simp] theorem State.setTeam_staged (t : Nat) (x : Team) : (s.setTeam t x).staged = s.staged := rfl
@[simp] theorem State.setTeam_firmware (t : Nat) (x : Team) : (s.setTeam t x).firmware = s.firmware := rfl
@[simp] theorem State.setTeam_measured (t : Nat) (x : Team) : (s.setTeam t x).measured = s.measured := rfl
@[simp] theorem State.setTeam_capSafe (t : Nat) (x : Team) : (s.setTeam t x).capSafe = s.capSafe := rfl
@[simp] theorem State.setTeam_storedParts (t : Nat) (x : Team) : (s.setTeam t x).storedParts = s.storedParts := rfl
@[simp] theorem State.setTeam_ring (t : Nat) (x : Team) : (s.setTeam t x).ring = s.ring := rfl
@[simp] theorem State.setTeam_outbox (t : Nat) (x : Team) : (s.setTeam t x).outbox = s.outbox := rfl
@[simp] theorem State.setTeam_ackbox (t : Nat) (x : Team) : (s.setTeam t x).ackbox = s.ackbox := rfl
@[simp] theorem State.setTeam_endsOut (t : Nat) (x : Team) : (s.setTeam t x).endsOut = s.endsOut := rfl
@[simp] theorem State.setTeam_pausesOut (t : Nat) (x : Team) : (s.setTeam t x).pausesOut = s.pausesOut := rfl
@[simp] theorem State.setTeam_entriesOut (t : Nat) (x : Team) : (s.setTeam t x).entriesOut = s.entriesOut := rfl
@[simp] theorem State.setTeam_inbox (t : Nat) (x : Team) : (s.setTeam t x).inbox = s.inbox := rfl
@[simp] theorem State.setTeam_agenda (t : Nat) (x : Team) : (s.setTeam t x).agenda = s.agenda := rfl
@[simp] theorem State.setTeam_timers (t : Nat) (x : Team) : (s.setTeam t x).timers = s.timers := rfl
@[simp] theorem State.setTeam_freeCount (t : Nat) (x : Team) : (s.setTeam t x).freeCount = s.freeCount := rfl

@[simp] theorem State.modTeam_now (t : Nat) (f : Team → Team) : (s.modTeam t f).now = s.now := by unfold State.modTeam; split <;> rfl
@[simp] theorem State.modTeam_cur (t : Nat) (f : Team → Team) : (s.modTeam t f).cur = s.cur := by unfold State.modTeam; split <;> rfl
@[simp] theorem State.modTeam_mem (t : Nat) (f : Team → Team) : (s.modTeam t f).mem = s.mem := by unfold State.modTeam; split <;> rfl
@[simp] theorem State.modTeam_cores (t : Nat) (f : Team → Team) : (s.modTeam t f).cores = s.cores := by unfold State.modTeam; split <;> rfl
@[simp] theorem State.modTeam_rets (t : Nat) (f : Team → Team) : (s.modTeam t f).rets = s.rets := by unfold State.modTeam; split <;> rfl
@[simp] theorem State.modTeam_launches (t : Nat) (f : Team → Team) : (s.modTeam t f).launches = s.launches := by unfold State.modTeam; split <;> rfl
@[simp] theorem State.modTeam_nextId (t : Nat) (f : Team → Team) : (s.modTeam t f).nextId = s.nextId := by unfold State.modTeam; split <;> rfl
@[simp] theorem State.modTeam_detects (t : Nat) (f : Team → Team) : (s.modTeam t f).detects = s.detects := by unfold State.modTeam; split <;> rfl
@[simp] theorem State.modTeam_gbars (t : Nat) (f : Team → Team) : (s.modTeam t f).gbars = s.gbars := by unfold State.modTeam; split <;> rfl
@[simp] theorem State.modTeam_probes (t : Nat) (f : Team → Team) : (s.modTeam t f).probes = s.probes := by unfold State.modTeam; split <;> rfl
@[simp] theorem State.modTeam_changes (t : Nat) (f : Team → Team) : (s.modTeam t f).changes = s.changes := by unfold State.modTeam; split <;> rfl
@[simp] theorem State.modTeam_wafer (t : Nat) (f : Team → Team) : (s.modTeam t f).wafer = s.wafer := by unfold State.modTeam; split <;> rfl
@[simp] theorem State.modTeam_waferNext (t : Nat) (f : Team → Team) : (s.modTeam t f).waferNext = s.waferNext := by unfold State.modTeam; split <;> rfl
@[simp] theorem State.modTeam_gradeA (t : Nat) (f : Team → Team) : (s.modTeam t f).gradeA = s.gradeA := by unfold State.modTeam; split <;> rfl
@[simp] theorem State.modTeam_grade (t : Nat) (f : Team → Team) : (s.modTeam t f).grade = s.grade := by unfold State.modTeam; split <;> rfl
@[simp] theorem State.modTeam_startKind (t : Nat) (f : Team → Team) : (s.modTeam t f).startKind = s.startKind := by unfold State.modTeam; split <;> rfl
@[simp] theorem State.modTeam_startStep (t : Nat) (f : Team → Team) : (s.modTeam t f).startStep = s.startStep := by unfold State.modTeam; split <;> rfl
@[simp] theorem State.modTeam_started (t : Nat) (f : Team → Team) : (s.modTeam t f).started = s.started := by unfold State.modTeam; split <;> rfl
@[simp] theorem State.modTeam_link0 (t : Nat) (f : Team → Team) : (s.modTeam t f).link0 = s.link0 := by unfold State.modTeam; split <;> rfl
@[simp] theorem State.modTeam_link1 (t : Nat) (f : Team → Team) : (s.modTeam t f).link1 = s.link1 := by unfold State.modTeam; split <;> rfl
@[simp] theorem State.modTeam_staged (t : Nat) (f : Team → Team) : (s.modTeam t f).staged = s.staged := by unfold State.modTeam; split <;> rfl
@[simp] theorem State.modTeam_firmware (t : Nat) (f : Team → Team) : (s.modTeam t f).firmware = s.firmware := by unfold State.modTeam; split <;> rfl
@[simp] theorem State.modTeam_measured (t : Nat) (f : Team → Team) : (s.modTeam t f).measured = s.measured := by unfold State.modTeam; split <;> rfl
@[simp] theorem State.modTeam_capSafe (t : Nat) (f : Team → Team) : (s.modTeam t f).capSafe = s.capSafe := by unfold State.modTeam; split <;> rfl
@[simp] theorem State.modTeam_storedParts (t : Nat) (f : Team → Team) : (s.modTeam t f).storedParts = s.storedParts := by unfold State.modTeam; split <;> rfl
@[simp] theorem State.modTeam_ring (t : Nat) (f : Team → Team) : (s.modTeam t f).ring = s.ring := by unfold State.modTeam; split <;> rfl
@[simp] theorem State.modTeam_outbox (t : Nat) (f : Team → Team) : (s.modTeam t f).outbox = s.outbox := by unfold State.modTeam; split <;> rfl
@[simp] theorem State.modTeam_ackbox (t : Nat) (f : Team → Team) : (s.modTeam t f).ackbox = s.ackbox := by unfold State.modTeam; split <;> rfl
@[simp] theorem State.modTeam_endsOut (t : Nat) (f : Team → Team) : (s.modTeam t f).endsOut = s.endsOut := by unfold State.modTeam; split <;> rfl
@[simp] theorem State.modTeam_pausesOut (t : Nat) (f : Team → Team) : (s.modTeam t f).pausesOut = s.pausesOut := by unfold State.modTeam; split <;> rfl
@[simp] theorem State.modTeam_entriesOut (t : Nat) (f : Team → Team) : (s.modTeam t f).entriesOut = s.entriesOut := by unfold State.modTeam; split <;> rfl
@[simp] theorem State.modTeam_inbox (t : Nat) (f : Team → Team) : (s.modTeam t f).inbox = s.inbox := by unfold State.modTeam; split <;> rfl
@[simp] theorem State.modTeam_agenda (t : Nat) (f : Team → Team) : (s.modTeam t f).agenda = s.agenda := by unfold State.modTeam; split <;> rfl
@[simp] theorem State.modTeam_timers (t : Nat) (f : Team → Team) : (s.modTeam t f).timers = s.timers := by unfold State.modTeam; split <;> rfl
@[simp] theorem State.modTeam_freeCount (t : Nat) (f : Team → Team) : (s.modTeam t f).freeCount = s.freeCount := by unfold State.modTeam; split <;> rfl

@[simp] theorem State.modMyTeam_now (f : Team → Team) : (s.modMyTeam f).now = s.now := by simp [State.modMyTeam]
@[simp] theorem State.modMyTeam_cur (f : Team → Team) : (s.modMyTeam f).cur = s.cur := by simp [State.modMyTeam]
@[simp] theorem State.modMyTeam_mem (f : Team → Team) : (s.modMyTeam f).mem = s.mem := by simp [State.modMyTeam]
@[simp] theorem State.modMyTeam_cores (f : Team → Team) : (s.modMyTeam f).cores = s.cores := by simp [State.modMyTeam]
@[simp] theorem State.modMyTeam_rets (f : Team → Team) : (s.modMyTeam f).rets = s.rets := by simp [State.modMyTeam]
@[simp] theorem State.modMyTeam_launches (f : Team → Team) : (s.modMyTeam f).launches = s.launches := by simp [State.modMyTeam]
@[simp] theorem State.modMyTeam_nextId (f : Team → Team) : (s.modMyTeam f).nextId = s.nextId := by simp [State.modMyTeam]
@[simp] theorem State.modMyTeam_detects (f : Team → Team) : (s.modMyTeam f).detects = s.detects := by simp [State.modMyTeam]
@[simp] theorem State.modMyTeam_gbars (f : Team → Team) : (s.modMyTeam f).gbars = s.gbars := by simp [State.modMyTeam]
@[simp] theorem State.modMyTeam_probes (f : Team → Team) : (s.modMyTeam f).probes = s.probes := by simp [State.modMyTeam]
@[simp] theorem State.modMyTeam_changes (f : Team → Team) : (s.modMyTeam f).changes = s.changes := by simp [State.modMyTeam]
@[simp] theorem State.modMyTeam_wafer (f : Team → Team) : (s.modMyTeam f).wafer = s.wafer := by simp [State.modMyTeam]
@[simp] theorem State.modMyTeam_waferNext (f : Team → Team) : (s.modMyTeam f).waferNext = s.waferNext := by simp [State.modMyTeam]
@[simp] theorem State.modMyTeam_gradeA (f : Team → Team) : (s.modMyTeam f).gradeA = s.gradeA := by simp [State.modMyTeam]
@[simp] theorem State.modMyTeam_grade (f : Team → Team) : (s.modMyTeam f).grade = s.grade := by simp [State.modMyTeam]
@[simp] theorem State.modMyTeam_startKind (f : Team → Team) : (s.modMyTeam f).startKind = s.startKind := by simp [State.modMyTeam]
@[simp] theorem State.modMyTeam_startStep (f : Team → Team) : (s.modMyTeam f).startStep = s.startStep := by simp [State.modMyTeam]
@[simp] theorem State.modMyTeam_started (f : Team → Team) : (s.modMyTeam f).started = s.started := by simp [State.modMyTeam]
@[simp] theorem State.modMyTeam_link0 (f : Team → Team) : (s.modMyTeam f).link0 = s.link0 := by simp [State.modMyTeam]
@[simp] theorem State.modMyTeam_link1 (f : Team → Team) : (s.modMyTeam f).link1 = s.link1 := by simp [State.modMyTeam]
@[simp] theorem State.modMyTeam_staged (f : Team → Team) : (s.modMyTeam f).staged = s.staged := by simp [State.modMyTeam]
@[simp] theorem State.modMyTeam_firmware (f : Team → Team) : (s.modMyTeam f).firmware = s.firmware := by simp [State.modMyTeam]
@[simp] theorem State.modMyTeam_measured (f : Team → Team) : (s.modMyTeam f).measured = s.measured := by simp [State.modMyTeam]
@[simp] theorem State.modMyTeam_capSafe (f : Team → Team) : (s.modMyTeam f).capSafe = s.capSafe := by simp [State.modMyTeam]
@[simp] theorem State.modMyTeam_storedParts (f : Team → Team) : (s.modMyTeam f).storedParts = s.storedParts := by simp [State.modMyTeam]
@[simp] theorem State.modMyTeam_ring (f : Team → Team) : (s.modMyTeam f).ring = s.ring := by simp [State.modMyTeam]
@[simp] theorem State.modMyTeam_outbox (f : Team → Team) : (s.modMyTeam f).outbox = s.outbox := by simp [State.modMyTeam]
@[simp] theorem State.modMyTeam_ackbox (f : Team → Team) : (s.modMyTeam f).ackbox = s.ackbox := by simp [State.modMyTeam]
@[simp] theorem State.modMyTeam_endsOut (f : Team → Team) : (s.modMyTeam f).endsOut = s.endsOut := by simp [State.modMyTeam]
@[simp] theorem State.modMyTeam_pausesOut (f : Team → Team) : (s.modMyTeam f).pausesOut = s.pausesOut := by simp [State.modMyTeam]
@[simp] theorem State.modMyTeam_entriesOut (f : Team → Team) : (s.modMyTeam f).entriesOut = s.entriesOut := by simp [State.modMyTeam]
@[simp] theorem State.modMyTeam_inbox (f : Team → Team) : (s.modMyTeam f).inbox = s.inbox := by simp [State.modMyTeam]
@[simp] theorem State.modMyTeam_agenda (f : Team → Team) : (s.modMyTeam f).agenda = s.agenda := by simp [State.modMyTeam]
@[simp] theorem State.modMyTeam_timers (f : Team → Team) : (s.modMyTeam f).timers = s.timers := by simp [State.modMyTeam]
@[simp] theorem State.modMyTeam_freeCount (f : Team → Team) : (s.modMyTeam f).freeCount = s.freeCount := by simp [State.modMyTeam]

@[simp] theorem State.setGroup_now (c g : Nat) (x : Group) : (s.setGroup c g x).now = s.now := rfl
@[simp] theorem State.setGroup_cur (c g : Nat) (x : Group) : (s.setGroup c g x).cur = s.cur := rfl
@[simp] theorem State.setGroup_mem (c g : Nat) (x : Group) : (s.setGroup c g x).mem = s.mem := rfl
@[simp] theorem State.setGroup_rets (c g : Nat) (x : Group) : (s.setGroup c g x).rets = s.rets := rfl
@[simp] theorem State.setGroup_teams (c g : Nat) (x : Group) : (s.setGroup c g x).teams = s.teams := rfl
@[simp] theorem State.setGroup_launches (c g : Nat) (x : Group) : (s.setGroup c g x).launches = s.launches := rfl
@[simp] theorem State.setGroup_nextId (c g : Nat) (x : Group) : (s.setGroup c g x).nextId = s.nextId := rfl
@[simp] theorem State.setGroup_detects (c g : Nat) (x : Group) : (s.setGroup c g x).detects = s.detects := rfl
@[simp] theorem State.setGroup_gbars (c g : Nat) (x : Group) : (s.setGroup c g x).gbars = s.gbars := rfl
@[simp] theorem State.setGroup_probes (c g : Nat) (x : Group) : (s.setGroup c g x).probes = s.probes := rfl
@[simp] theorem State.setGroup_changes (c g : Nat) (x : Group) : (s.setGroup c g x).changes = s.changes := rfl
@[simp] theorem State.setGroup_wafer (c g : Nat) (x : Group) : (s.setGroup c g x).wafer = s.wafer := rfl
@[simp] theorem State.setGroup_waferNext (c g : Nat) (x : Group) : (s.setGroup c g x).waferNext = s.waferNext := rfl
@[simp] theorem State.setGroup_gradeA (c g : Nat) (x : Group) : (s.setGroup c g x).gradeA = s.gradeA := rfl
@[simp] theorem State.setGroup_grade (c g : Nat) (x : Group) : (s.setGroup c g x).grade = s.grade := rfl
@[simp] theorem State.setGroup_startKind (c g : Nat) (x : Group) : (s.setGroup c g x).startKind = s.startKind := rfl
@[simp] theorem State.setGroup_startStep (c g : Nat) (x : Group) : (s.setGroup c g x).startStep = s.startStep := rfl
@[simp] theorem State.setGroup_started (c g : Nat) (x : Group) : (s.setGroup c g x).started = s.started := rfl
@[simp] theorem State.setGroup_link0 (c g : Nat) (x : Group) : (s.setGroup c g x).link0 = s.link0 := rfl
@[simp] theorem State.setGroup_link1 (c g : Nat) (x : Group) : (s.setGroup c g x).link1 = s.link1 := rfl
@[simp] theorem State.setGroup_staged (c g : Nat) (x : Group) : (s.setGroup c g x).staged = s.staged := rfl
@[simp] theorem State.setGroup_firmware (c g : Nat) (x : Group) : (s.setGroup c g x).firmware = s.firmware := rfl
@[simp] theorem State.setGroup_measured (c g : Nat) (x : Group) : (s.setGroup c g x).measured = s.measured := rfl
@[simp] theorem State.setGroup_capSafe (c g : Nat) (x : Group) : (s.setGroup c g x).capSafe = s.capSafe := rfl
@[simp] theorem State.setGroup_storedParts (c g : Nat) (x : Group) : (s.setGroup c g x).storedParts = s.storedParts := rfl
@[simp] theorem State.setGroup_ring (c g : Nat) (x : Group) : (s.setGroup c g x).ring = s.ring := rfl
@[simp] theorem State.setGroup_outbox (c g : Nat) (x : Group) : (s.setGroup c g x).outbox = s.outbox := rfl
@[simp] theorem State.setGroup_ackbox (c g : Nat) (x : Group) : (s.setGroup c g x).ackbox = s.ackbox := rfl
@[simp] theorem State.setGroup_endsOut (c g : Nat) (x : Group) : (s.setGroup c g x).endsOut = s.endsOut := rfl
@[simp] theorem State.setGroup_pausesOut (c g : Nat) (x : Group) : (s.setGroup c g x).pausesOut = s.pausesOut := rfl
@[simp] theorem State.setGroup_entriesOut (c g : Nat) (x : Group) : (s.setGroup c g x).entriesOut = s.entriesOut := rfl
@[simp] theorem State.setGroup_inbox (c g : Nat) (x : Group) : (s.setGroup c g x).inbox = s.inbox := rfl
@[simp] theorem State.setGroup_agenda (c g : Nat) (x : Group) : (s.setGroup c g x).agenda = s.agenda := rfl
@[simp] theorem State.setGroup_timers (c g : Nat) (x : Group) : (s.setGroup c g x).timers = s.timers := rfl
@[simp] theorem State.setGroup_freeCount (c g : Nat) (x : Group) : (s.setGroup c g x).freeCount = s.freeCount := rfl

@[simp] theorem State.modGroup_now (c g : Nat) (f : Group → Group) : (s.modGroup c g f).now = s.now := by unfold State.modGroup; split <;> rfl
@[simp] theorem State.modGroup_cur (c g : Nat) (f : Group → Group) : (s.modGroup c g f).cur = s.cur := by unfold State.modGroup; split <;> rfl
@[simp] theorem State.modGroup_mem (c g : Nat) (f : Group → Group) : (s.modGroup c g f).mem = s.mem := by unfold State.modGroup; split <;> rfl
@[simp] theorem State.modGroup_rets (c g : Nat) (f : Group → Group) : (s.modGroup c g f).rets = s.rets := by unfold State.modGroup; split <;> rfl
@[simp] theorem State.modGroup_teams (c g : Nat) (f : Group → Group) : (s.modGroup c g f).teams = s.teams := by unfold State.modGroup; split <;> rfl
@[simp] theorem State.modGroup_launches (c g : Nat) (f : Group → Group) : (s.modGroup c g f).launches = s.launches := by unfold State.modGroup; split <;> rfl
@[simp] theorem State.modGroup_nextId (c g : Nat) (f : Group → Group) : (s.modGroup c g f).nextId = s.nextId := by unfold State.modGroup; split <;> rfl
@[simp] theorem State.modGroup_detects (c g : Nat) (f : Group → Group) : (s.modGroup c g f).detects = s.detects := by unfold State.modGroup; split <;> rfl
@[simp] theorem State.modGroup_gbars (c g : Nat) (f : Group → Group) : (s.modGroup c g f).gbars = s.gbars := by unfold State.modGroup; split <;> rfl
@[simp] theorem State.modGroup_probes (c g : Nat) (f : Group → Group) : (s.modGroup c g f).probes = s.probes := by unfold State.modGroup; split <;> rfl
@[simp] theorem State.modGroup_changes (c g : Nat) (f : Group → Group) : (s.modGroup c g f).changes = s.changes := by unfold State.modGroup; split <;> rfl
@[simp] theorem State.modGroup_wafer (c g : Nat) (f : Group → Group) : (s.modGroup c g f).wafer = s.wafer := by unfold State.modGroup; split <;> rfl
@[simp] theorem State.modGroup_waferNext (c g : Nat) (f : Group → Group) : (s.modGroup c g f).waferNext = s.waferNext := by unfold State.modGroup; split <;> rfl
@[simp] theorem State.modGroup_gradeA (c g : Nat) (f : Group → Group) : (s.modGroup c g f).gradeA = s.gradeA := by unfold State.modGroup; split <;> rfl
@[simp] theorem State.modGroup_grade (c g : Nat) (f : Group → Group) : (s.modGroup c g f).grade = s.grade := by unfold State.modGroup; split <;> rfl
@[simp] theorem State.modGroup_startKind (c g : Nat) (f : Group → Group) : (s.modGroup c g f).startKind = s.startKind := by unfold State.modGroup; split <;> rfl
@[simp] theorem State.modGroup_startStep (c g : Nat) (f : Group → Group) : (s.modGroup c g f).startStep = s.startStep := by unfold State.modGroup; split <;> rfl
@[simp] theorem State.modGroup_started (c g : Nat) (f : Group → Group) : (s.modGroup c g f).started = s.started := by unfold State.modGroup; split <;> rfl
@[simp] theorem State.modGroup_link0 (c g : Nat) (f : Group → Group) : (s.modGroup c g f).link0 = s.link0 := by unfold State.modGroup; split <;> rfl
@[simp] theorem State.modGroup_link1 (c g : Nat) (f : Group → Group) : (s.modGroup c g f).link1 = s.link1 := by unfold State.modGroup; split <;> rfl
@[simp] theorem State.modGroup_staged (c g : Nat) (f : Group → Group) : (s.modGroup c g f).staged = s.staged := by unfold State.modGroup; split <;> rfl
@[simp] theorem State.modGroup_firmware (c g : Nat) (f : Group → Group) : (s.modGroup c g f).firmware = s.firmware := by unfold State.modGroup; split <;> rfl
@[simp] theorem State.modGroup_measured (c g : Nat) (f : Group → Group) : (s.modGroup c g f).measured = s.measured := by unfold State.modGroup; split <;> rfl
@[simp] theorem State.modGroup_capSafe (c g : Nat) (f : Group → Group) : (s.modGroup c g f).capSafe = s.capSafe := by unfold State.modGroup; split <;> rfl
@[simp] theorem State.modGroup_storedParts (c g : Nat) (f : Group → Group) : (s.modGroup c g f).storedParts = s.storedParts := by unfold State.modGroup; split <;> rfl
@[simp] theorem State.modGroup_ring (c g : Nat) (f : Group → Group) : (s.modGroup c g f).ring = s.ring := by unfold State.modGroup; split <;> rfl
@[simp] theorem State.modGroup_outbox (c g : Nat) (f : Group → Group) : (s.modGroup c g f).outbox = s.outbox := by unfold State.modGroup; split <;> rfl
@[simp] theorem State.modGroup_ackbox (c g : Nat) (f : Group → Group) : (s.modGroup c g f).ackbox = s.ackbox := by unfold State.modGroup; split <;> rfl
@[simp] theorem State.modGroup_endsOut (c g : Nat) (f : Group → Group) : (s.modGroup c g f).endsOut = s.endsOut := by unfold State.modGroup; split <;> rfl
@[simp] theorem State.modGroup_pausesOut (c g : Nat) (f : Group → Group) : (s.modGroup c g f).pausesOut = s.pausesOut := by unfold State.modGroup; split <;> rfl
@[simp] theorem State.modGroup_entriesOut (c g : Nat) (f : Group → Group) : (s.modGroup c g f).entriesOut = s.entriesOut := by unfold State.modGroup; split <;> rfl
@[simp] theorem State.modGroup_inbox (c g : Nat) (f : Group → Group) : (s.modGroup c g f).inbox = s.inbox := by unfold State.modGroup; split <;> rfl
@[simp] theorem State.modGroup_agenda (c g : Nat) (f : Group → Group) : (s.modGroup c g f).agenda = s.agenda := by unfold State.modGroup; split <;> rfl
@[simp] theorem State.modGroup_timers (c g : Nat) (f : Group → Group) : (s.modGroup c g f).timers = s.timers := by unfold State.modGroup; split <;> rfl
@[simp] theorem State.modGroup_freeCount (c g : Nat) (f : Group → Group) : (s.modGroup c g f).freeCount = s.freeCount := by unfold State.modGroup; split <;> rfl

@[simp] theorem State.setSplit_now (c g p : Nat) (y : Split) : (s.setSplit c g p y).now = s.now := by simp [State.setSplit]
@[simp] theorem State.setSplit_cur (c g p : Nat) (y : Split) : (s.setSplit c g p y).cur = s.cur := by simp [State.setSplit]
@[simp] theorem State.setSplit_mem (c g p : Nat) (y : Split) : (s.setSplit c g p y).mem = s.mem := by simp [State.setSplit]
@[simp] theorem State.setSplit_rets (c g p : Nat) (y : Split) : (s.setSplit c g p y).rets = s.rets := by simp [State.setSplit]
@[simp] theorem State.setSplit_teams (c g p : Nat) (y : Split) : (s.setSplit c g p y).teams = s.teams := by simp [State.setSplit]
@[simp] theorem State.setSplit_launches (c g p : Nat) (y : Split) : (s.setSplit c g p y).launches = s.launches := by simp [State.setSplit]
@[simp] theorem State.setSplit_nextId (c g p : Nat) (y : Split) : (s.setSplit c g p y).nextId = s.nextId := by simp [State.setSplit]
@[simp] theorem State.setSplit_detects (c g p : Nat) (y : Split) : (s.setSplit c g p y).detects = s.detects := by simp [State.setSplit]
@[simp] theorem State.setSplit_gbars (c g p : Nat) (y : Split) : (s.setSplit c g p y).gbars = s.gbars := by simp [State.setSplit]
@[simp] theorem State.setSplit_probes (c g p : Nat) (y : Split) : (s.setSplit c g p y).probes = s.probes := by simp [State.setSplit]
@[simp] theorem State.setSplit_changes (c g p : Nat) (y : Split) : (s.setSplit c g p y).changes = s.changes := by simp [State.setSplit]
@[simp] theorem State.setSplit_wafer (c g p : Nat) (y : Split) : (s.setSplit c g p y).wafer = s.wafer := by simp [State.setSplit]
@[simp] theorem State.setSplit_waferNext (c g p : Nat) (y : Split) : (s.setSplit c g p y).waferNext = s.waferNext := by simp [State.setSplit]
@[simp] theorem State.setSplit_gradeA (c g p : Nat) (y : Split) : (s.setSplit c g p y).gradeA = s.gradeA := by simp [State.setSplit]
@[simp] theorem State.setSplit_grade (c g p : Nat) (y : Split) : (s.setSplit c g p y).grade = s.grade := by simp [State.setSplit]
@[simp] theorem State.setSplit_startKind (c g p : Nat) (y : Split) : (s.setSplit c g p y).startKind = s.startKind := by simp [State.setSplit]
@[simp] theorem State.setSplit_startStep (c g p : Nat) (y : Split) : (s.setSplit c g p y).startStep = s.startStep := by simp [State.setSplit]
@[simp] theorem State.setSplit_started (c g p : Nat) (y : Split) : (s.setSplit c g p y).started = s.started := by simp [State.setSplit]
@[simp] theorem State.setSplit_link0 (c g p : Nat) (y : Split) : (s.setSplit c g p y).link0 = s.link0 := by simp [State.setSplit]
@[simp] theorem State.setSplit_link1 (c g p : Nat) (y : Split) : (s.setSplit c g p y).link1 = s.link1 := by simp [State.setSplit]
@[simp] theorem State.setSplit_staged (c g p : Nat) (y : Split) : (s.setSplit c g p y).staged = s.staged := by simp [State.setSplit]
@[simp] theorem State.setSplit_firmware (c g p : Nat) (y : Split) : (s.setSplit c g p y).firmware = s.firmware := by simp [State.setSplit]
@[simp] theorem State.setSplit_measured (c g p : Nat) (y : Split) : (s.setSplit c g p y).measured = s.measured := by simp [State.setSplit]
@[simp] theorem State.setSplit_capSafe (c g p : Nat) (y : Split) : (s.setSplit c g p y).capSafe = s.capSafe := by simp [State.setSplit]
@[simp] theorem State.setSplit_storedParts (c g p : Nat) (y : Split) : (s.setSplit c g p y).storedParts = s.storedParts := by simp [State.setSplit]
@[simp] theorem State.setSplit_ring (c g p : Nat) (y : Split) : (s.setSplit c g p y).ring = s.ring := by simp [State.setSplit]
@[simp] theorem State.setSplit_outbox (c g p : Nat) (y : Split) : (s.setSplit c g p y).outbox = s.outbox := by simp [State.setSplit]
@[simp] theorem State.setSplit_ackbox (c g p : Nat) (y : Split) : (s.setSplit c g p y).ackbox = s.ackbox := by simp [State.setSplit]
@[simp] theorem State.setSplit_endsOut (c g p : Nat) (y : Split) : (s.setSplit c g p y).endsOut = s.endsOut := by simp [State.setSplit]
@[simp] theorem State.setSplit_pausesOut (c g p : Nat) (y : Split) : (s.setSplit c g p y).pausesOut = s.pausesOut := by simp [State.setSplit]
@[simp] theorem State.setSplit_entriesOut (c g p : Nat) (y : Split) : (s.setSplit c g p y).entriesOut = s.entriesOut := by simp [State.setSplit]
@[simp] theorem State.setSplit_inbox (c g p : Nat) (y : Split) : (s.setSplit c g p y).inbox = s.inbox := by simp [State.setSplit]
@[simp] theorem State.setSplit_agenda (c g p : Nat) (y : Split) : (s.setSplit c g p y).agenda = s.agenda := by simp [State.setSplit]
@[simp] theorem State.setSplit_timers (c g p : Nat) (y : Split) : (s.setSplit c g p y).timers = s.timers := by simp [State.setSplit]
@[simp] theorem State.setSplit_freeCount (c g p : Nat) (y : Split) : (s.setSplit c g p y).freeCount = s.freeCount := by simp [State.setSplit]

@[simp] theorem State.modSplit_now (c g p : Nat) (f : Split → Split) : (s.modSplit c g p f).now = s.now := by unfold State.modSplit; split <;> simp
@[simp] theorem State.modSplit_cur (c g p : Nat) (f : Split → Split) : (s.modSplit c g p f).cur = s.cur := by unfold State.modSplit; split <;> simp
@[simp] theorem State.modSplit_mem (c g p : Nat) (f : Split → Split) : (s.modSplit c g p f).mem = s.mem := by unfold State.modSplit; split <;> simp
@[simp] theorem State.modSplit_rets (c g p : Nat) (f : Split → Split) : (s.modSplit c g p f).rets = s.rets := by unfold State.modSplit; split <;> simp
@[simp] theorem State.modSplit_teams (c g p : Nat) (f : Split → Split) : (s.modSplit c g p f).teams = s.teams := by unfold State.modSplit; split <;> simp
@[simp] theorem State.modSplit_launches (c g p : Nat) (f : Split → Split) : (s.modSplit c g p f).launches = s.launches := by unfold State.modSplit; split <;> simp
@[simp] theorem State.modSplit_nextId (c g p : Nat) (f : Split → Split) : (s.modSplit c g p f).nextId = s.nextId := by unfold State.modSplit; split <;> simp
@[simp] theorem State.modSplit_detects (c g p : Nat) (f : Split → Split) : (s.modSplit c g p f).detects = s.detects := by unfold State.modSplit; split <;> simp
@[simp] theorem State.modSplit_gbars (c g p : Nat) (f : Split → Split) : (s.modSplit c g p f).gbars = s.gbars := by unfold State.modSplit; split <;> simp
@[simp] theorem State.modSplit_probes (c g p : Nat) (f : Split → Split) : (s.modSplit c g p f).probes = s.probes := by unfold State.modSplit; split <;> simp
@[simp] theorem State.modSplit_changes (c g p : Nat) (f : Split → Split) : (s.modSplit c g p f).changes = s.changes := by unfold State.modSplit; split <;> simp
@[simp] theorem State.modSplit_wafer (c g p : Nat) (f : Split → Split) : (s.modSplit c g p f).wafer = s.wafer := by unfold State.modSplit; split <;> simp
@[simp] theorem State.modSplit_waferNext (c g p : Nat) (f : Split → Split) : (s.modSplit c g p f).waferNext = s.waferNext := by unfold State.modSplit; split <;> simp
@[simp] theorem State.modSplit_gradeA (c g p : Nat) (f : Split → Split) : (s.modSplit c g p f).gradeA = s.gradeA := by unfold State.modSplit; split <;> simp
@[simp] theorem State.modSplit_grade (c g p : Nat) (f : Split → Split) : (s.modSplit c g p f).grade = s.grade := by unfold State.modSplit; split <;> simp
@[simp] theorem State.modSplit_startKind (c g p : Nat) (f : Split → Split) : (s.modSplit c g p f).startKind = s.startKind := by unfold State.modSplit; split <;> simp
@[simp] theorem State.modSplit_startStep (c g p : Nat) (f : Split → Split) : (s.modSplit c g p f).startStep = s.startStep := by unfold State.modSplit; split <;> simp
@[simp] theorem State.modSplit_started (c g p : Nat) (f : Split → Split) : (s.modSplit c g p f).started = s.started := by unfold State.modSplit; split <;> simp
@[simp] theorem State.modSplit_link0 (c g p : Nat) (f : Split → Split) : (s.modSplit c g p f).link0 = s.link0 := by unfold State.modSplit; split <;> simp
@[simp] theorem State.modSplit_link1 (c g p : Nat) (f : Split → Split) : (s.modSplit c g p f).link1 = s.link1 := by unfold State.modSplit; split <;> simp
@[simp] theorem State.modSplit_staged (c g p : Nat) (f : Split → Split) : (s.modSplit c g p f).staged = s.staged := by unfold State.modSplit; split <;> simp
@[simp] theorem State.modSplit_firmware (c g p : Nat) (f : Split → Split) : (s.modSplit c g p f).firmware = s.firmware := by unfold State.modSplit; split <;> simp
@[simp] theorem State.modSplit_measured (c g p : Nat) (f : Split → Split) : (s.modSplit c g p f).measured = s.measured := by unfold State.modSplit; split <;> simp
@[simp] theorem State.modSplit_capSafe (c g p : Nat) (f : Split → Split) : (s.modSplit c g p f).capSafe = s.capSafe := by unfold State.modSplit; split <;> simp
@[simp] theorem State.modSplit_storedParts (c g p : Nat) (f : Split → Split) : (s.modSplit c g p f).storedParts = s.storedParts := by unfold State.modSplit; split <;> simp
@[simp] theorem State.modSplit_ring (c g p : Nat) (f : Split → Split) : (s.modSplit c g p f).ring = s.ring := by unfold State.modSplit; split <;> simp
@[simp] theorem State.modSplit_outbox (c g p : Nat) (f : Split → Split) : (s.modSplit c g p f).outbox = s.outbox := by unfold State.modSplit; split <;> simp
@[simp] theorem State.modSplit_ackbox (c g p : Nat) (f : Split → Split) : (s.modSplit c g p f).ackbox = s.ackbox := by unfold State.modSplit; split <;> simp
@[simp] theorem State.modSplit_endsOut (c g p : Nat) (f : Split → Split) : (s.modSplit c g p f).endsOut = s.endsOut := by unfold State.modSplit; split <;> simp
@[simp] theorem State.modSplit_pausesOut (c g p : Nat) (f : Split → Split) : (s.modSplit c g p f).pausesOut = s.pausesOut := by unfold State.modSplit; split <;> simp
@[simp] theorem State.modSplit_entriesOut (c g p : Nat) (f : Split → Split) : (s.modSplit c g p f).entriesOut = s.entriesOut := by unfold State.modSplit; split <;> simp
@[simp] theorem State.modSplit_inbox (c g p : Nat) (f : Split → Split) : (s.modSplit c g p f).inbox = s.inbox := by unfold State.modSplit; split <;> simp
@[simp] theorem State.modSplit_agenda (c g p : Nat) (f : Split → Split) : (s.modSplit c g p f).agenda = s.agenda := by unfold State.modSplit; split <;> simp
@[simp] theorem State.modSplit_timers (c g p : Nat) (f : Split → Split) : (s.modSplit c g p f).timers = s.timers := by unfold State.modSplit; split <;> simp
@[simp] theorem State.modSplit_freeCount (c g p : Nat) (f : Split → Split) : (s.modSplit c g p f).freeCount = s.freeCount := by unfold State.modSplit; split <;> simp

@[simp] theorem State.modHere_now (f : Group → Group) : (s.modHere f).now = s.now := by simp [State.modHere]
@[simp] theorem State.modHere_cur (f : Group → Group) : (s.modHere f).cur = s.cur := by simp [State.modHere]
@[simp] theorem State.modHere_mem (f : Group → Group) : (s.modHere f).mem = s.mem := by simp [State.modHere]
@[simp] theorem State.modHere_rets (f : Group → Group) : (s.modHere f).rets = s.rets := by simp [State.modHere]
@[simp] theorem State.modHere_teams (f : Group → Group) : (s.modHere f).teams = s.teams := by simp [State.modHere]
@[simp] theorem State.modHere_launches (f : Group → Group) : (s.modHere f).launches = s.launches := by simp [State.modHere]
@[simp] theorem State.modHere_nextId (f : Group → Group) : (s.modHere f).nextId = s.nextId := by simp [State.modHere]
@[simp] theorem State.modHere_detects (f : Group → Group) : (s.modHere f).detects = s.detects := by simp [State.modHere]
@[simp] theorem State.modHere_gbars (f : Group → Group) : (s.modHere f).gbars = s.gbars := by simp [State.modHere]
@[simp] theorem State.modHere_probes (f : Group → Group) : (s.modHere f).probes = s.probes := by simp [State.modHere]
@[simp] theorem State.modHere_changes (f : Group → Group) : (s.modHere f).changes = s.changes := by simp [State.modHere]
@[simp] theorem State.modHere_wafer (f : Group → Group) : (s.modHere f).wafer = s.wafer := by simp [State.modHere]
@[simp] theorem State.modHere_waferNext (f : Group → Group) : (s.modHere f).waferNext = s.waferNext := by simp [State.modHere]
@[simp] theorem State.modHere_gradeA (f : Group → Group) : (s.modHere f).gradeA = s.gradeA := by simp [State.modHere]
@[simp] theorem State.modHere_grade (f : Group → Group) : (s.modHere f).grade = s.grade := by simp [State.modHere]
@[simp] theorem State.modHere_startKind (f : Group → Group) : (s.modHere f).startKind = s.startKind := by simp [State.modHere]
@[simp] theorem State.modHere_startStep (f : Group → Group) : (s.modHere f).startStep = s.startStep := by simp [State.modHere]
@[simp] theorem State.modHere_started (f : Group → Group) : (s.modHere f).started = s.started := by simp [State.modHere]
@[simp] theorem State.modHere_link0 (f : Group → Group) : (s.modHere f).link0 = s.link0 := by simp [State.modHere]
@[simp] theorem State.modHere_link1 (f : Group → Group) : (s.modHere f).link1 = s.link1 := by simp [State.modHere]
@[simp] theorem State.modHere_staged (f : Group → Group) : (s.modHere f).staged = s.staged := by simp [State.modHere]
@[simp] theorem State.modHere_firmware (f : Group → Group) : (s.modHere f).firmware = s.firmware := by simp [State.modHere]
@[simp] theorem State.modHere_measured (f : Group → Group) : (s.modHere f).measured = s.measured := by simp [State.modHere]
@[simp] theorem State.modHere_capSafe (f : Group → Group) : (s.modHere f).capSafe = s.capSafe := by simp [State.modHere]
@[simp] theorem State.modHere_storedParts (f : Group → Group) : (s.modHere f).storedParts = s.storedParts := by simp [State.modHere]
@[simp] theorem State.modHere_ring (f : Group → Group) : (s.modHere f).ring = s.ring := by simp [State.modHere]
@[simp] theorem State.modHere_outbox (f : Group → Group) : (s.modHere f).outbox = s.outbox := by simp [State.modHere]
@[simp] theorem State.modHere_ackbox (f : Group → Group) : (s.modHere f).ackbox = s.ackbox := by simp [State.modHere]
@[simp] theorem State.modHere_endsOut (f : Group → Group) : (s.modHere f).endsOut = s.endsOut := by simp [State.modHere]
@[simp] theorem State.modHere_pausesOut (f : Group → Group) : (s.modHere f).pausesOut = s.pausesOut := by simp [State.modHere]
@[simp] theorem State.modHere_entriesOut (f : Group → Group) : (s.modHere f).entriesOut = s.entriesOut := by simp [State.modHere]
@[simp] theorem State.modHere_inbox (f : Group → Group) : (s.modHere f).inbox = s.inbox := by simp [State.modHere]
@[simp] theorem State.modHere_agenda (f : Group → Group) : (s.modHere f).agenda = s.agenda := by simp [State.modHere]
@[simp] theorem State.modHere_timers (f : Group → Group) : (s.modHere f).timers = s.timers := by simp [State.modHere]
@[simp] theorem State.modHere_freeCount (f : Group → Group) : (s.modHere f).freeCount = s.freeCount := by simp [State.modHere]

@[simp] theorem State.modMe_now (f : Split → Split) : (s.modMe f).now = s.now := by simp [State.modMe]
@[simp] theorem State.modMe_cur (f : Split → Split) : (s.modMe f).cur = s.cur := by simp [State.modMe]
@[simp] theorem State.modMe_mem (f : Split → Split) : (s.modMe f).mem = s.mem := by simp [State.modMe]
@[simp] theorem State.modMe_rets (f : Split → Split) : (s.modMe f).rets = s.rets := by simp [State.modMe]
@[simp] theorem State.modMe_teams (f : Split → Split) : (s.modMe f).teams = s.teams := by simp [State.modMe]
@[simp] theorem State.modMe_launches (f : Split → Split) : (s.modMe f).launches = s.launches := by simp [State.modMe]
@[simp] theorem State.modMe_nextId (f : Split → Split) : (s.modMe f).nextId = s.nextId := by simp [State.modMe]
@[simp] theorem State.modMe_detects (f : Split → Split) : (s.modMe f).detects = s.detects := by simp [State.modMe]
@[simp] theorem State.modMe_gbars (f : Split → Split) : (s.modMe f).gbars = s.gbars := by simp [State.modMe]
@[simp] theorem State.modMe_probes (f : Split → Split) : (s.modMe f).probes = s.probes := by simp [State.modMe]
@[simp] theorem State.modMe_changes (f : Split → Split) : (s.modMe f).changes = s.changes := by simp [State.modMe]
@[simp] theorem State.modMe_wafer (f : Split → Split) : (s.modMe f).wafer = s.wafer := by simp [State.modMe]
@[simp] theorem State.modMe_waferNext (f : Split → Split) : (s.modMe f).waferNext = s.waferNext := by simp [State.modMe]
@[simp] theorem State.modMe_gradeA (f : Split → Split) : (s.modMe f).gradeA = s.gradeA := by simp [State.modMe]
@[simp] theorem State.modMe_grade (f : Split → Split) : (s.modMe f).grade = s.grade := by simp [State.modMe]
@[simp] theorem State.modMe_startKind (f : Split → Split) : (s.modMe f).startKind = s.startKind := by simp [State.modMe]
@[simp] theorem State.modMe_startStep (f : Split → Split) : (s.modMe f).startStep = s.startStep := by simp [State.modMe]
@[simp] theorem State.modMe_started (f : Split → Split) : (s.modMe f).started = s.started := by simp [State.modMe]
@[simp] theorem State.modMe_link0 (f : Split → Split) : (s.modMe f).link0 = s.link0 := by simp [State.modMe]
@[simp] theorem State.modMe_link1 (f : Split → Split) : (s.modMe f).link1 = s.link1 := by simp [State.modMe]
@[simp] theorem State.modMe_staged (f : Split → Split) : (s.modMe f).staged = s.staged := by simp [State.modMe]
@[simp] theorem State.modMe_firmware (f : Split → Split) : (s.modMe f).firmware = s.firmware := by simp [State.modMe]
@[simp] theorem State.modMe_measured (f : Split → Split) : (s.modMe f).measured = s.measured := by simp [State.modMe]
@[simp] theorem State.modMe_capSafe (f : Split → Split) : (s.modMe f).capSafe = s.capSafe := by simp [State.modMe]
@[simp] theorem State.modMe_storedParts (f : Split → Split) : (s.modMe f).storedParts = s.storedParts := by simp [State.modMe]
@[simp] theorem State.modMe_ring (f : Split → Split) : (s.modMe f).ring = s.ring := by simp [State.modMe]
@[simp] theorem State.modMe_outbox (f : Split → Split) : (s.modMe f).outbox = s.outbox := by simp [State.modMe]
@[simp] theorem State.modMe_ackbox (f : Split → Split) : (s.modMe f).ackbox = s.ackbox := by simp [State.modMe]
@[simp] theorem State.modMe_endsOut (f : Split → Split) : (s.modMe f).endsOut = s.endsOut := by simp [State.modMe]
@[simp] theorem State.modMe_pausesOut (f : Split → Split) : (s.modMe f).pausesOut = s.pausesOut := by simp [State.modMe]
@[simp] theorem State.modMe_entriesOut (f : Split → Split) : (s.modMe f).entriesOut = s.entriesOut := by simp [State.modMe]
@[simp] theorem State.modMe_inbox (f : Split → Split) : (s.modMe f).inbox = s.inbox := by simp [State.modMe]
@[simp] theorem State.modMe_agenda (f : Split → Split) : (s.modMe f).agenda = s.agenda := by simp [State.modMe]
@[simp] theorem State.modMe_timers (f : Split → Split) : (s.modMe f).timers = s.timers := by simp [State.modMe]
@[simp] theorem State.modMe_freeCount (f : Split → Split) : (s.modMe f).freeCount = s.freeCount := by simp [State.modMe]

@[simp] theorem State.setTile_now (t : Nat) (x : Tile) : (s.setTile t x).now = s.now := rfl
@[simp] theorem State.setTile_cur (t : Nat) (x : Tile) : (s.setTile t x).cur = s.cur := rfl
@[simp] theorem State.setTile_mem (t : Nat) (x : Tile) : (s.setTile t x).mem = s.mem := rfl
@[simp] theorem State.setTile_rets (t : Nat) (x : Tile) : (s.setTile t x).rets = s.rets := rfl
@[simp] theorem State.setTile_teams (t : Nat) (x : Tile) : (s.setTile t x).teams = s.teams := rfl
@[simp] theorem State.setTile_launches (t : Nat) (x : Tile) : (s.setTile t x).launches = s.launches := rfl
@[simp] theorem State.setTile_nextId (t : Nat) (x : Tile) : (s.setTile t x).nextId = s.nextId := rfl
@[simp] theorem State.setTile_detects (t : Nat) (x : Tile) : (s.setTile t x).detects = s.detects := rfl
@[simp] theorem State.setTile_gbars (t : Nat) (x : Tile) : (s.setTile t x).gbars = s.gbars := rfl
@[simp] theorem State.setTile_probes (t : Nat) (x : Tile) : (s.setTile t x).probes = s.probes := rfl
@[simp] theorem State.setTile_changes (t : Nat) (x : Tile) : (s.setTile t x).changes = s.changes := rfl
@[simp] theorem State.setTile_wafer (t : Nat) (x : Tile) : (s.setTile t x).wafer = s.wafer := rfl
@[simp] theorem State.setTile_waferNext (t : Nat) (x : Tile) : (s.setTile t x).waferNext = s.waferNext := rfl
@[simp] theorem State.setTile_gradeA (t : Nat) (x : Tile) : (s.setTile t x).gradeA = s.gradeA := rfl
@[simp] theorem State.setTile_grade (t : Nat) (x : Tile) : (s.setTile t x).grade = s.grade := rfl
@[simp] theorem State.setTile_startKind (t : Nat) (x : Tile) : (s.setTile t x).startKind = s.startKind := rfl
@[simp] theorem State.setTile_startStep (t : Nat) (x : Tile) : (s.setTile t x).startStep = s.startStep := rfl
@[simp] theorem State.setTile_started (t : Nat) (x : Tile) : (s.setTile t x).started = s.started := rfl
@[simp] theorem State.setTile_link0 (t : Nat) (x : Tile) : (s.setTile t x).link0 = s.link0 := rfl
@[simp] theorem State.setTile_link1 (t : Nat) (x : Tile) : (s.setTile t x).link1 = s.link1 := rfl
@[simp] theorem State.setTile_staged (t : Nat) (x : Tile) : (s.setTile t x).staged = s.staged := rfl
@[simp] theorem State.setTile_firmware (t : Nat) (x : Tile) : (s.setTile t x).firmware = s.firmware := rfl
@[simp] theorem State.setTile_measured (t : Nat) (x : Tile) : (s.setTile t x).measured = s.measured := rfl
@[simp] theorem State.setTile_capSafe (t : Nat) (x : Tile) : (s.setTile t x).capSafe = s.capSafe := rfl
@[simp] theorem State.setTile_storedParts (t : Nat) (x : Tile) : (s.setTile t x).storedParts = s.storedParts := rfl
@[simp] theorem State.setTile_ring (t : Nat) (x : Tile) : (s.setTile t x).ring = s.ring := rfl
@[simp] theorem State.setTile_outbox (t : Nat) (x : Tile) : (s.setTile t x).outbox = s.outbox := rfl
@[simp] theorem State.setTile_ackbox (t : Nat) (x : Tile) : (s.setTile t x).ackbox = s.ackbox := rfl
@[simp] theorem State.setTile_endsOut (t : Nat) (x : Tile) : (s.setTile t x).endsOut = s.endsOut := rfl
@[simp] theorem State.setTile_pausesOut (t : Nat) (x : Tile) : (s.setTile t x).pausesOut = s.pausesOut := rfl
@[simp] theorem State.setTile_entriesOut (t : Nat) (x : Tile) : (s.setTile t x).entriesOut = s.entriesOut := rfl
@[simp] theorem State.setTile_inbox (t : Nat) (x : Tile) : (s.setTile t x).inbox = s.inbox := rfl
@[simp] theorem State.setTile_agenda (t : Nat) (x : Tile) : (s.setTile t x).agenda = s.agenda := rfl
@[simp] theorem State.setTile_timers (t : Nat) (x : Tile) : (s.setTile t x).timers = s.timers := rfl
@[simp] theorem State.setTile_freeCount (t : Nat) (x : Tile) : (s.setTile t x).freeCount = s.freeCount := rfl

@[simp] theorem State.setScratch_now (c a : Nat) (b : Byte) : (s.setScratch c a b).now = s.now := rfl
@[simp] theorem State.setScratch_cur (c a : Nat) (b : Byte) : (s.setScratch c a b).cur = s.cur := rfl
@[simp] theorem State.setScratch_mem (c a : Nat) (b : Byte) : (s.setScratch c a b).mem = s.mem := rfl
@[simp] theorem State.setScratch_rets (c a : Nat) (b : Byte) : (s.setScratch c a b).rets = s.rets := rfl
@[simp] theorem State.setScratch_teams (c a : Nat) (b : Byte) : (s.setScratch c a b).teams = s.teams := rfl
@[simp] theorem State.setScratch_launches (c a : Nat) (b : Byte) : (s.setScratch c a b).launches = s.launches := rfl
@[simp] theorem State.setScratch_nextId (c a : Nat) (b : Byte) : (s.setScratch c a b).nextId = s.nextId := rfl
@[simp] theorem State.setScratch_detects (c a : Nat) (b : Byte) : (s.setScratch c a b).detects = s.detects := rfl
@[simp] theorem State.setScratch_gbars (c a : Nat) (b : Byte) : (s.setScratch c a b).gbars = s.gbars := rfl
@[simp] theorem State.setScratch_probes (c a : Nat) (b : Byte) : (s.setScratch c a b).probes = s.probes := rfl
@[simp] theorem State.setScratch_changes (c a : Nat) (b : Byte) : (s.setScratch c a b).changes = s.changes := rfl
@[simp] theorem State.setScratch_wafer (c a : Nat) (b : Byte) : (s.setScratch c a b).wafer = s.wafer := rfl
@[simp] theorem State.setScratch_waferNext (c a : Nat) (b : Byte) : (s.setScratch c a b).waferNext = s.waferNext := rfl
@[simp] theorem State.setScratch_gradeA (c a : Nat) (b : Byte) : (s.setScratch c a b).gradeA = s.gradeA := rfl
@[simp] theorem State.setScratch_grade (c a : Nat) (b : Byte) : (s.setScratch c a b).grade = s.grade := rfl
@[simp] theorem State.setScratch_startKind (c a : Nat) (b : Byte) : (s.setScratch c a b).startKind = s.startKind := rfl
@[simp] theorem State.setScratch_startStep (c a : Nat) (b : Byte) : (s.setScratch c a b).startStep = s.startStep := rfl
@[simp] theorem State.setScratch_started (c a : Nat) (b : Byte) : (s.setScratch c a b).started = s.started := rfl
@[simp] theorem State.setScratch_link0 (c a : Nat) (b : Byte) : (s.setScratch c a b).link0 = s.link0 := rfl
@[simp] theorem State.setScratch_link1 (c a : Nat) (b : Byte) : (s.setScratch c a b).link1 = s.link1 := rfl
@[simp] theorem State.setScratch_staged (c a : Nat) (b : Byte) : (s.setScratch c a b).staged = s.staged := rfl
@[simp] theorem State.setScratch_firmware (c a : Nat) (b : Byte) : (s.setScratch c a b).firmware = s.firmware := rfl
@[simp] theorem State.setScratch_measured (c a : Nat) (b : Byte) : (s.setScratch c a b).measured = s.measured := rfl
@[simp] theorem State.setScratch_capSafe (c a : Nat) (b : Byte) : (s.setScratch c a b).capSafe = s.capSafe := rfl
@[simp] theorem State.setScratch_storedParts (c a : Nat) (b : Byte) : (s.setScratch c a b).storedParts = s.storedParts := rfl
@[simp] theorem State.setScratch_ring (c a : Nat) (b : Byte) : (s.setScratch c a b).ring = s.ring := rfl
@[simp] theorem State.setScratch_outbox (c a : Nat) (b : Byte) : (s.setScratch c a b).outbox = s.outbox := rfl
@[simp] theorem State.setScratch_ackbox (c a : Nat) (b : Byte) : (s.setScratch c a b).ackbox = s.ackbox := rfl
@[simp] theorem State.setScratch_endsOut (c a : Nat) (b : Byte) : (s.setScratch c a b).endsOut = s.endsOut := rfl
@[simp] theorem State.setScratch_pausesOut (c a : Nat) (b : Byte) : (s.setScratch c a b).pausesOut = s.pausesOut := rfl
@[simp] theorem State.setScratch_entriesOut (c a : Nat) (b : Byte) : (s.setScratch c a b).entriesOut = s.entriesOut := rfl
@[simp] theorem State.setScratch_inbox (c a : Nat) (b : Byte) : (s.setScratch c a b).inbox = s.inbox := rfl
@[simp] theorem State.setScratch_agenda (c a : Nat) (b : Byte) : (s.setScratch c a b).agenda = s.agenda := rfl
@[simp] theorem State.setScratch_timers (c a : Nat) (b : Byte) : (s.setScratch c a b).timers = s.timers := rfl
@[simp] theorem State.setScratch_freeCount (c a : Nat) (b : Byte) : (s.setScratch c a b).freeCount = s.freeCount := rfl

@[simp] theorem State.post_now (u : Cur) (i : Instr) : (s.post u i).now = s.now := rfl
@[simp] theorem State.post_cur (u : Cur) (i : Instr) : (s.post u i).cur = s.cur := rfl
@[simp] theorem State.post_mem (u : Cur) (i : Instr) : (s.post u i).mem = s.mem := rfl
@[simp] theorem State.post_cores (u : Cur) (i : Instr) : (s.post u i).cores = s.cores := rfl
@[simp] theorem State.post_rets (u : Cur) (i : Instr) : (s.post u i).rets = s.rets := rfl
@[simp] theorem State.post_teams (u : Cur) (i : Instr) : (s.post u i).teams = s.teams := rfl
@[simp] theorem State.post_launches (u : Cur) (i : Instr) : (s.post u i).launches = s.launches := rfl
@[simp] theorem State.post_nextId (u : Cur) (i : Instr) : (s.post u i).nextId = s.nextId := rfl
@[simp] theorem State.post_detects (u : Cur) (i : Instr) : (s.post u i).detects = s.detects := rfl
@[simp] theorem State.post_gbars (u : Cur) (i : Instr) : (s.post u i).gbars = s.gbars := rfl
@[simp] theorem State.post_probes (u : Cur) (i : Instr) : (s.post u i).probes = s.probes := rfl
@[simp] theorem State.post_changes (u : Cur) (i : Instr) : (s.post u i).changes = s.changes := rfl
@[simp] theorem State.post_wafer (u : Cur) (i : Instr) : (s.post u i).wafer = s.wafer := rfl
@[simp] theorem State.post_waferNext (u : Cur) (i : Instr) : (s.post u i).waferNext = s.waferNext := rfl
@[simp] theorem State.post_gradeA (u : Cur) (i : Instr) : (s.post u i).gradeA = s.gradeA := rfl
@[simp] theorem State.post_grade (u : Cur) (i : Instr) : (s.post u i).grade = s.grade := rfl
@[simp] theorem State.post_startKind (u : Cur) (i : Instr) : (s.post u i).startKind = s.startKind := rfl
@[simp] theorem State.post_startStep (u : Cur) (i : Instr) : (s.post u i).startStep = s.startStep := rfl
@[simp] theorem State.post_started (u : Cur) (i : Instr) : (s.post u i).started = s.started := rfl
@[simp] theorem State.post_link0 (u : Cur) (i : Instr) : (s.post u i).link0 = s.link0 := rfl
@[simp] theorem State.post_link1 (u : Cur) (i : Instr) : (s.post u i).link1 = s.link1 := rfl
@[simp] theorem State.post_staged (u : Cur) (i : Instr) : (s.post u i).staged = s.staged := rfl
@[simp] theorem State.post_firmware (u : Cur) (i : Instr) : (s.post u i).firmware = s.firmware := rfl
@[simp] theorem State.post_measured (u : Cur) (i : Instr) : (s.post u i).measured = s.measured := rfl
@[simp] theorem State.post_capSafe (u : Cur) (i : Instr) : (s.post u i).capSafe = s.capSafe := rfl
@[simp] theorem State.post_storedParts (u : Cur) (i : Instr) : (s.post u i).storedParts = s.storedParts := rfl
@[simp] theorem State.post_ring (u : Cur) (i : Instr) : (s.post u i).ring = s.ring := rfl
@[simp] theorem State.post_outbox (u : Cur) (i : Instr) : (s.post u i).outbox = s.outbox := rfl
@[simp] theorem State.post_ackbox (u : Cur) (i : Instr) : (s.post u i).ackbox = s.ackbox := rfl
@[simp] theorem State.post_endsOut (u : Cur) (i : Instr) : (s.post u i).endsOut = s.endsOut := rfl
@[simp] theorem State.post_pausesOut (u : Cur) (i : Instr) : (s.post u i).pausesOut = s.pausesOut := rfl
@[simp] theorem State.post_entriesOut (u : Cur) (i : Instr) : (s.post u i).entriesOut = s.entriesOut := rfl
@[simp] theorem State.post_inbox (u : Cur) (i : Instr) : (s.post u i).inbox = s.inbox := rfl
@[simp] theorem State.post_timers (u : Cur) (i : Instr) : (s.post u i).timers = s.timers := rfl
@[simp] theorem State.post_freeCount (u : Cur) (i : Instr) : (s.post u i).freeCount = s.freeCount := rfl

@[simp] theorem State.postIn_now (d : Nat) (u : Cur) (i : Instr) : (s.postIn d u i).now = s.now := rfl
@[simp] theorem State.postIn_cur (d : Nat) (u : Cur) (i : Instr) : (s.postIn d u i).cur = s.cur := rfl
@[simp] theorem State.postIn_mem (d : Nat) (u : Cur) (i : Instr) : (s.postIn d u i).mem = s.mem := rfl
@[simp] theorem State.postIn_cores (d : Nat) (u : Cur) (i : Instr) : (s.postIn d u i).cores = s.cores := rfl
@[simp] theorem State.postIn_rets (d : Nat) (u : Cur) (i : Instr) : (s.postIn d u i).rets = s.rets := rfl
@[simp] theorem State.postIn_teams (d : Nat) (u : Cur) (i : Instr) : (s.postIn d u i).teams = s.teams := rfl
@[simp] theorem State.postIn_launches (d : Nat) (u : Cur) (i : Instr) : (s.postIn d u i).launches = s.launches := rfl
@[simp] theorem State.postIn_nextId (d : Nat) (u : Cur) (i : Instr) : (s.postIn d u i).nextId = s.nextId := rfl
@[simp] theorem State.postIn_detects (d : Nat) (u : Cur) (i : Instr) : (s.postIn d u i).detects = s.detects := rfl
@[simp] theorem State.postIn_gbars (d : Nat) (u : Cur) (i : Instr) : (s.postIn d u i).gbars = s.gbars := rfl
@[simp] theorem State.postIn_probes (d : Nat) (u : Cur) (i : Instr) : (s.postIn d u i).probes = s.probes := rfl
@[simp] theorem State.postIn_changes (d : Nat) (u : Cur) (i : Instr) : (s.postIn d u i).changes = s.changes := rfl
@[simp] theorem State.postIn_wafer (d : Nat) (u : Cur) (i : Instr) : (s.postIn d u i).wafer = s.wafer := rfl
@[simp] theorem State.postIn_waferNext (d : Nat) (u : Cur) (i : Instr) : (s.postIn d u i).waferNext = s.waferNext := rfl
@[simp] theorem State.postIn_gradeA (d : Nat) (u : Cur) (i : Instr) : (s.postIn d u i).gradeA = s.gradeA := rfl
@[simp] theorem State.postIn_grade (d : Nat) (u : Cur) (i : Instr) : (s.postIn d u i).grade = s.grade := rfl
@[simp] theorem State.postIn_startKind (d : Nat) (u : Cur) (i : Instr) : (s.postIn d u i).startKind = s.startKind := rfl
@[simp] theorem State.postIn_startStep (d : Nat) (u : Cur) (i : Instr) : (s.postIn d u i).startStep = s.startStep := rfl
@[simp] theorem State.postIn_started (d : Nat) (u : Cur) (i : Instr) : (s.postIn d u i).started = s.started := rfl
@[simp] theorem State.postIn_link0 (d : Nat) (u : Cur) (i : Instr) : (s.postIn d u i).link0 = s.link0 := rfl
@[simp] theorem State.postIn_link1 (d : Nat) (u : Cur) (i : Instr) : (s.postIn d u i).link1 = s.link1 := rfl
@[simp] theorem State.postIn_staged (d : Nat) (u : Cur) (i : Instr) : (s.postIn d u i).staged = s.staged := rfl
@[simp] theorem State.postIn_firmware (d : Nat) (u : Cur) (i : Instr) : (s.postIn d u i).firmware = s.firmware := rfl
@[simp] theorem State.postIn_measured (d : Nat) (u : Cur) (i : Instr) : (s.postIn d u i).measured = s.measured := rfl
@[simp] theorem State.postIn_capSafe (d : Nat) (u : Cur) (i : Instr) : (s.postIn d u i).capSafe = s.capSafe := rfl
@[simp] theorem State.postIn_storedParts (d : Nat) (u : Cur) (i : Instr) : (s.postIn d u i).storedParts = s.storedParts := rfl
@[simp] theorem State.postIn_ring (d : Nat) (u : Cur) (i : Instr) : (s.postIn d u i).ring = s.ring := rfl
@[simp] theorem State.postIn_outbox (d : Nat) (u : Cur) (i : Instr) : (s.postIn d u i).outbox = s.outbox := rfl
@[simp] theorem State.postIn_ackbox (d : Nat) (u : Cur) (i : Instr) : (s.postIn d u i).ackbox = s.ackbox := rfl
@[simp] theorem State.postIn_endsOut (d : Nat) (u : Cur) (i : Instr) : (s.postIn d u i).endsOut = s.endsOut := rfl
@[simp] theorem State.postIn_pausesOut (d : Nat) (u : Cur) (i : Instr) : (s.postIn d u i).pausesOut = s.pausesOut := rfl
@[simp] theorem State.postIn_entriesOut (d : Nat) (u : Cur) (i : Instr) : (s.postIn d u i).entriesOut = s.entriesOut := rfl
@[simp] theorem State.postIn_inbox (d : Nat) (u : Cur) (i : Instr) : (s.postIn d u i).inbox = s.inbox := rfl
@[simp] theorem State.postIn_agenda (d : Nat) (u : Cur) (i : Instr) : (s.postIn d u i).agenda = s.agenda := rfl
@[simp] theorem State.postIn_freeCount (d : Nat) (u : Cur) (i : Instr) : (s.postIn d u i).freeCount = s.freeCount := rfl

end Sys2Proof.Machine
end

