-- ==== Sys2Proof/Laws/Access.lean ====
section
/-! SUPPORT. Read after write through the accessors of the state: cores, reticles, teams, groups, splits, and the split of the step. -/

namespace Sys2Proof.Machine

set_option Elab.async false

variable (s : State)

/-! ### Cores, reticles, teams -/

@[simp] theorem core_setCore (c c' : Nat) (k : Core) : (s.setCore c k).core c' = if c = c' then k else s.core c' := by
  simp [State.setCore, State.core]

@[simp] theorem core_modCore (c c' : Nat) (f : Core → Core) :
    (s.modCore c f).core c' = if c = c' then f (s.core c') else s.core c' := by
  unfold State.modCore; rw [core_setCore]; split <;> simp_all

@[simp] theorem ret_setRet (r r' : Nat) (x : Reticle) : (s.setRet r x).ret r' = if r = r' then x else s.ret r' := by
  simp [State.setRet, State.ret]

@[simp] theorem ret_modRet (r r' : Nat) (f : Reticle → Reticle) :
    (s.modRet r f).ret r' = if r = r' then f (s.ret r') else s.ret r' := by
  unfold State.modRet; rw [ret_setRet]; split <;> simp_all

@[simp] theorem core_modRet (r c : Nat) (f : Reticle → Reticle) : (s.modRet r f).core c = s.core c := rfl
@[simp] theorem ret_modCore (c r : Nat) (f : Core → Core) : (s.modCore c f).ret r = s.ret r := rfl
@[simp] theorem core_modTeam (t c : Nat) (f : Team → Team) : (s.modTeam t f).core c = s.core c := by simp [State.core]
@[simp] theorem core_modMyTeam (c : Nat) (f : Team → Team) : (s.modMyTeam f).core c = s.core c := by simp [State.core]
@[simp] theorem core_setMem (a : Nat) (b : Byte) (c : Nat) : (s.setMem a b).core c = s.core c := rfl

theorem team_of_team? {t : Nat} {x : Team} (h : s.team? t = some x) : s.team t = x := tget_of_aget _ h

@[simp] theorem team?_setTeam (t t' : Nat) (x : Team) : (s.setTeam t x).team? t' = if t = t' then some x else s.team? t' := by
  simp [State.setTeam, State.team?]

@[simp] theorem team_modCore (c t : Nat) (f : Core → Core) : (s.modCore c f).team t = s.team t := rfl

/-- A change to a team that exists. -/
theorem team_modTeam {t : Nat} {x : Team} (h : s.team? t = some x) (f : Team → Team) (t' : Nat) :
    (s.modTeam t f).team t' = if t = t' then f x else s.team t' := by
  simp [State.modTeam, h, State.setTeam, State.team]

/-! ### Groups and splits -/

theorem group_of_group? {c g : Nat} {x : Group} (h : s.group? c g = some x) : s.group c g = x := tget_of_aget _ h

@[simp] theorem group?_setGroup (c g c' g' : Nat) (x : Group) :
    (s.setGroup c g x).group? c' g' = if c = c' ∧ g = g' then some x else s.group? c' g' := by
  simp only [State.setGroup, State.group?, core_modCore]
  split <;> split <;> simp_all

theorem group?_modGroup (c g c' g' : Nat) (f : Group → Group) :
    (s.modGroup c g f).group? c' g' = if c = c' ∧ g = g' then (s.group? c' g').map f else s.group? c' g' := by
  unfold State.modGroup
  split
  · rw [group?_setGroup]; split <;> simp_all
  · split <;> simp_all

@[simp] theorem group?_modSplit (c g p c' g' : Nat) (f : Split → Split) :
    (s.modSplit c g p f).group? c' g' =
      if c = c' ∧ g = g' then (s.group? c' g').map fun x => (match aget x.splits p with | some y => x.setSplit p (f y) | none => x)
      else s.group? c' g' := by
  unfold State.modSplit State.setSplit State.split?
  rcases h : s.group? c g with _ | x
  · simp only
    split
    · rename_i e; rw [← e.1, ← e.2, h]; rfl
    · rfl
  · rcases h2 : aget x.splits p with _ | y
    · simp only [h2]
      split
      · rename_i e; rw [← e.1, ← e.2, h]; simp [h2]
      · rfl
    · simp only [h2]
      rw [group?_modGroup]
      split
      · rename_i e; rw [← e.1, ← e.2, h]; simp [h2]
      · rfl

theorem split?_modGroup (c g p c' g' : Nat) (f : Group → Group) (hf : ∀ x, (f x).splits = x.splits) :
    (s.modGroup c g f).split? c' g' p = s.split? c' g' p := by
  unfold State.split?
  rw [group?_modGroup]
  by_cases e : c = c' ∧ g = g'
  · rw [if_pos e]; cases s.group? c' g' <;> simp [hf]
  · rw [if_neg e]

theorem split?_modSplit (c g p c' g' p' : Nat) (f : Split → Split) :
    (s.modSplit c g p f).split? c' g' p' =
      if c = c' ∧ g = g' ∧ p = p' then (s.split? c' g' p').map f else s.split? c' g' p' := by
  unfold State.split?
  rw [group?_modSplit]
  by_cases h : c = c' ∧ g = g'
  · rw [if_pos h]
    rcases s.group? c' g' with _ | x
    · simp
    · simp only [Option.map_some]
      rcases h2 : aget x.splits p with _ | y
      · by_cases e : p = p'
        · subst e; simp [h2, h]
        · simp [e]
      · simp only [Group.setSplit, aget_aput]
        by_cases e : p = p'
        · subst e; simp [h2, h]
        · simp [e]
  · rw [if_neg h, if_neg (fun e => h ⟨e.1, e.2.1⟩)]

/-! ### The split of the step -/

/-- The split of the step lives in its group. -/
theorem group?_of_me {y : Split} (h : s.me? = some y) :
    ∃ x, s.group? s.cur.core s.cur.slot = some x ∧ aget x.splits s.cur.split = some y ∧ s.here = x := by
  unfold State.me? State.split? at h
  rcases e : s.group? s.cur.core s.cur.slot with _ | x
  · simp [e] at h
  · rw [e] at h; exact ⟨x, rfl, h, group_of_group? s e⟩

theorem me_of_me? {y : Split} (h : s.me? = some y) : s.me = y := by simp [State.me, h]

@[simp] theorem me?_modMe (f : Split → Split) : (s.modMe f).me? = s.me?.map f := by
  unfold State.modMe State.me?
  simp [split?_modSplit]

theorem me_modMe (f : Split → Split) {y : Split} (h : s.me? = some y) : (s.modMe f).me = f y := by simp [State.me, h]

theorem me?_modHere (f : Group → Group) (hf : ∀ x, (f x).splits = x.splits) : (s.modHere f).me? = s.me? := by
  unfold State.modHere State.me?
  simp [split?_modGroup _ _ _ _ _ _ _ hf]

/-- The group of the step after a change to its split. -/
theorem here_modMe (f : Split → Split) {y : Split} (h : s.me? = some y) :
    (s.modMe f).here = s.here.setSplit s.cur.split (f y) := by
  obtain ⟨x, h1, h2, h3⟩ := group?_of_me s h
  have : (s.modMe f).group? s.cur.core s.cur.slot = some (x.setSplit s.cur.split (f y)) := by
    simp [State.modMe, h1, h2]
  unfold State.here
  rw [State.modMe_cur, group_of_group? _ this, group_of_group? _ h1]

/-- The group of the step after a change to itself. -/
theorem here_modHere (f : Group → Group) {x : Group} (h : s.group? s.cur.core s.cur.slot = some x) :
    (s.modHere f).here = f x := by
  have : (s.modHere f).group? s.cur.core s.cur.slot = some (f x) := by
    simp [State.modHere, group?_modGroup, h]
  unfold State.here
  rw [State.modHere_cur]
  exact group_of_group? _ this

/-- What a change to a group leaves of its core. -/
theorem core_modGroup (c g c' : Nat) (f : Group → Group) :
    ∃ l, (s.modGroup c g f).core c' = { s.core c' with groups := l } := by
  unfold State.modGroup State.setGroup
  split
  · rw [core_modCore]; split <;> exact ⟨_, rfl⟩
  · exact ⟨_, rfl⟩

theorem core_modSplit (c g p c' : Nat) (f : Split → Split) :
    ∃ l, (s.modSplit c g p f).core c' = { s.core c' with groups := l } := by
  unfold State.modSplit State.setSplit
  split
  · exact core_modGroup ..
  · exact ⟨_, rfl⟩

theorem core_modMe (c' : Nat) (f : Split → Split) : ∃ l, (s.modMe f).core c' = { s.core c' with groups := l } := core_modSplit ..
theorem core_modHere (c' : Nat) (f : Group → Group) : ∃ l, (s.modHere f).core c' = { s.core c' with groups := l } := core_modGroup ..

@[simp] theorem reg_modMe (c i : Nat) (f : Split → Split) : ((s.modMe f).core c).reg i = (s.core c).reg i := by
  obtain ⟨l, h⟩ := core_modMe s c f; rw [h]; rfl
@[simp] theorem reg_modHere (c i : Nat) (f : Group → Group) : ((s.modHere f).core c).reg i = (s.core c).reg i := by
  obtain ⟨l, h⟩ := core_modHere s c f; rw [h]; rfl
@[simp] theorem tile_modMe (c i : Nat) (f : Split → Split) : ((s.modMe f).core c).tile i = (s.core c).tile i := by
  obtain ⟨l, h⟩ := core_modMe s c f; rw [h]; rfl
@[simp] theorem tile_modHere (c i : Nat) (f : Group → Group) : ((s.modHere f).core c).tile i = (s.core c).tile i := by
  obtain ⟨l, h⟩ := core_modHere s c f; rw [h]; rfl
@[simp] theorem scratchByte_modMe (c a : Nat) (f : Split → Split) : (s.modMe f).scratchByte c a = s.scratchByte c a := by
  unfold State.scratchByte; obtain ⟨l, h⟩ := core_modMe s c f; rw [h]
@[simp] theorem scratchByte_modHere (c a : Nat) (f : Group → Group) : (s.modHere f).scratchByte c a = s.scratchByte c a := by
  unfold State.scratchByte; obtain ⟨l, h⟩ := core_modHere s c f; rw [h]
@[simp] theorem memByte_modMe (a : Nat) (f : Split → Split) : (s.modMe f).memByte a = s.memByte a := by simp [State.memByte]
@[simp] theorem memByte_modHere (a : Nat) (f : Group → Group) : (s.modHere f).memByte a = s.memByte a := by simp [State.memByte]
@[simp] theorem memByte_modCore (a c : Nat) (f : Core → Core) : (s.modCore c f).memByte a = s.memByte a := rfl
@[simp] theorem memByte_modRet (a r : Nat) (f : Reticle → Reticle) : (s.modRet r f).memByte a = s.memByte a := rfl

/-! ### Memory -/

@[simp] theorem memByte_setMem (a a' : Nat) (b : Byte) : (s.setMem a b).memByte a' = if a = a' then b else s.memByte a' := by
  simp [State.setMem, State.memByte]

@[simp] theorem scratchByte_setScratch (c a c' a' : Nat) (b : Byte) :
    (s.setScratch c a b).scratchByte c' a' = if c = c' ∧ a = a' then b else s.scratchByte c' a' := by
  simp only [State.setScratch, State.scratchByte, core_modCore]
  by_cases h : c = c' <;> simp [h]

/-- A write of DRAM keeps the canonical form. -/
theorem wf_setMem (a : Nat) (b : Byte) (h : Memory.wf s.mem = true) : Memory.wf (s.setMem a b).mem = true := twf_tset a b h

@[simp] theorem reg_setReg (k : Core) (i j : Nat) (g : GReg) : (k.setReg i g).reg j = if i = j then g else k.reg j := by
  simp [Core.setReg, Core.reg]

@[simp] theorem tile_setTile (k : Core) (i j : Nat) (t : Tile) : (k.setTile i t).tile j = if i = j then t else k.tile j := by
  simp [Core.setTile, Core.tile]

end Sys2Proof.Machine
end

