-- ==== Sys2Proof/Laws/Control.lean ====
section
/-! SUPPORT. What the shared course of control instructions does: the checks that pass, the write of a register, completion, and their frames. -/

namespace Sys2Proof.Machine

set_option Elab.async false

variable {s t u : State} {y : Split}

/-! ### Frames -/

theorem Part.same_refl (p : Part) (s : State) : p.same s s := by cases p <;> simp [Part.same]

theorem Part.same_trans {p : Part} (hc : t.cur = s.cur) (h : p.same s t) (k : p.same t u) : p.same s u := by
  cases p <;> simp only [Part.same] at h k ⊢ <;>
    first
      | exact k.trans h
      | exact ⟨k.1.trans h.1, k.2.trans h.2⟩
      | exact ⟨k.1.trans h.1, k.2.1.trans h.2.1, k.2.2.1.trans h.2.2.1, k.2.2.2.1.trans h.2.2.2.1, k.2.2.2.2.trans h.2.2.2.2⟩
      | exact fun c g p n => (k c g p (by rw [hc]; exact n)).trans (h c g p n)
      | exact fun c => ⟨(k c).1.trans (h c).1, (k c).2.1.trans (h c).2.1, (k c).2.2.trans (h c).2.2⟩
      | exact fun c i => (k c i).trans (h c i)
      | exact fun c => (k c).trans (h c)

theorem Kept.refl (s : State) : Kept [] [] s s := ⟨rfl, rfl, fun _ _ _ => rfl, fun p _ => p.same_refl s⟩

theorem Kept.trans {r r' : List Nat} {l l' : List Part} (h : Kept r l s t) (k : Kept r' l' t u) : Kept (r ++ r') (l ++ l') s u where
  cur := k.cur.trans h.cur
  base := k.base.trans h.base
  regs := fun c i n => by
    rw [k.regs c i, h.regs c i]
    · exact fun e r m => n e r (List.mem_append_left _ m)
    · intro e r m; rw [h.base]; exact n (by rw [e, h.cur]) r (List.mem_append_right _ m)
  rest := fun p n => Part.same_trans h.cur
    (h.rest p fun m => n (List.mem_append_left _ m)) (k.rest p fun m => n (List.mem_append_right _ m))

theorem Kept.mono {r r' : List Nat} {l l' : List Part} (h : Kept r l s t) (hr : ∀ x ∈ r, x ∈ r') (hl : ∀ x ∈ l, x ∈ l') : Kept r' l' s t where
  cur := h.cur
  base := h.base
  regs := fun c i n => h.regs c i fun e x m => n e x (hr x m)
  rest := fun p n => h.rest p fun m => n (hl p m)

/-- A change to the split of the step keeps everything but what it changes in the split. -/
theorem Kept.modMe (f : Split → Split) (hy : s.me? = some y) (l : List Part)
    (h1 : .codes ∈ l ∨ (f y).cmpA = y.cmpA ∧ (f y).cmpB = y.cmpB) (h2 : .activeMask ∈ l ∨ (f y).active = y.active)
    (h3 : .loops ∈ l ∨ (f y).loops = y.loops) (h4 : .queue ∈ l ∨ (f y).queue = y.queue)
    (h5 : .trap ∈ l ∨ (f y).trap = y.trap ∧ (f y).inHandler = y.inHandler ∧ (f y).savedLoops = y.savedLoops ∧ (f y).savedCmpA = y.savedCmpA ∧ (f y).savedCmpB = y.savedCmpB)
    (h6 : .refHi ∈ l ∨ (f y).refHi = y.refHi) : Kept [] l s (s.modMe f) where
  cur := by simp
  base := by rw [here_modMe s f hy]; rfl
  regs := fun c i _ => by simp
  rest := fun p n => by
    have e := me_modMe s f hy
    have e' := me_of_me? s hy
    have eh := here_modMe s f hy
    obtain ⟨k, hk⟩ : ∃ k : Nat → List (Nat × Group), ∀ c, (s.modMe f).core c = { s.core c with groups := k c } :=
      ⟨fun c => (core_modMe s c f).choose, fun c => (core_modMe s c f).choose_spec⟩
    cases p <;> simp only [Part.same, e, e', eh, Group.setSplit, hk, scratchByte_modMe, memByte_modMe, State.modMe_teams, State.modMe_rets, State.ret, State.slice, implies_true, and_self]
    · exact h1.resolve_left n
    · exact h2.resolve_left n
    · exact h3.resolve_left n
    · exact h4.resolve_left n
    · exact h5.resolve_left n
    · exact h6.resolve_left n
    · intro c g p hn
      unfold State.modMe
      rw [split?_modSplit, if_neg]
      rintro ⟨rfl, rfl, rfl⟩; exact hn ⟨rfl, rfl, rfl⟩
    · intro c i; rfl

/-- A change to the group of the step that leaves its splits and place alone. -/
theorem Kept.modHere (f : Group → Group) {x : Group} (hx : s.group? s.cur.core s.cur.slot = some x) (hs : ∀ x, (f x).splits = x.splits)
    (hb : (f x).regBase = x.regBase) (l : List Part)
    (h1 : .masks ∈ l ∨ (f x).masks = x.masks) (h2 : .batch ∈ l ∨ (f x).batch = x.batch ∧ (f x).ended = x.ended)
    (h3 : .gang ∈ l ∨ (f x).gang = x.gang) (h4 : .staged ∈ l ∨ (f x).staged = x.staged)
    (h5 : .tokens ∈ l ∨ (f x).token = x.token ∧ (f x).tokens = x.tokens) (h6 : .acqs ∈ l ∨ (f x).acqs = x.acqs)
    (h7 : .fences ∈ l ∨ (f x).fences = x.fences ∧ (f x).posted = x.posted) (h8 : .pending ∈ l ∨ (f x).pending = x.pending) : Kept [] l s (s.modHere f) where
  cur := by simp
  base := by rw [here_modHere s f hx, hb]; unfold State.here; rw [group_of_group? s hx]
  regs := fun c i _ => by simp
  rest := fun p n => by
    have e : (s.modHere f).me = s.me := by unfold State.me; rw [me?_modHere s f hs]
    have eh := here_modHere s f hx
    have ex : s.here = x := group_of_group? s hx
    obtain ⟨k, hk⟩ : ∃ k : Nat → List (Nat × Group), ∀ c, (s.modHere f).core c = { s.core c with groups := k c } :=
      ⟨fun c => (core_modHere s c f).choose, fun c => (core_modHere s c f).choose_spec⟩
    cases p <;> simp only [Part.same, e, eh, ex, hk, scratchByte_modHere, memByte_modHere, State.modHere_teams, State.modHere_rets, State.ret, State.slice, implies_true, and_self]
    · exact h1.resolve_left n
    · exact h2.resolve_left n
    · exact h3.resolve_left n
    · exact h4.resolve_left n
    · exact h5.resolve_left n
    · exact h6.resolve_left n
    · exact h7.resolve_left n
    · exact h8.resolve_left n
    · intro c g p _; unfold State.modHere; rw [split?_modGroup _ _ _ _ _ _ _ hs]
    · intro c i; rfl

/-! ### Registers -/

theorem group?_of_at (hy : s.me? = some y) : ∃ x, s.group? s.cur.core s.cur.slot = some x ∧ s.here = x := by
  obtain ⟨x, h, _, e⟩ := group?_of_me s hy; exact ⟨x, h, e⟩

/-- A change to one core's register file alone. -/
theorem Kept.setReg (hb : r = s.here.regBase + d) (g : GReg) : Kept [d] [] s (s.modCore s.cur.core fun k => k.setReg r g) := by
  have e : ∀ c g', (s.modCore s.cur.core fun k => k.setReg r g).group? c g' = s.group? c g' := by
    intro c g'; unfold State.group?; rw [core_modCore]; split <;> simp_all [Core.setReg]
  have e3 : (s.modCore s.cur.core fun k => k.setReg r g).here = s.here := by
    unfold State.here State.group
    rw [State.modCore_cur, core_modCore]; simp [Core.setReg]
  have e2 : ∀ c g' p, (s.modCore s.cur.core fun k => k.setReg r g).split? c g' p = s.split? c g' p := by
    intro c g' p; unfold State.split?; rw [e]
  have e4 : (s.modCore s.cur.core fun k => k.setReg r g).me = s.me := by
    unfold State.me State.me?; rw [e2]; rfl
  refine ⟨rfl, by rw [e3], ?_, ?_⟩
  · intro c i n
    rw [core_modCore]
    split
    · rename_i h
      rw [reg_setReg, if_neg]
      rintro rfl
      exact n h.symm d (by simp) hb
    · rfl
  · intro p _
    cases p <;> simp only [Part.same, e4, e3, e2, implies_true, and_self, memByte_modCore, State.modCore_teams, State.modCore_rets, State.ret, State.slice]
    · intro c i; rw [core_modCore]; split <;> rfl
    · intro c a; unfold State.scratchByte; rw [core_modCore]; split <;> rfl
    · intro c; rw [core_modCore]; split <;> rfl
    · intro c; rw [core_modCore]; split <;> rfl
    · intro c; rw [core_modCore]; split <;> exact ⟨rfl, rfl, rfl⟩

/-- Where a latched fragment notes a change, nothing that the frame speaks of does. -/
theorem Kept.latch (hy : s.me? = some y) (f : Option Latch → Option Latch) : Kept [] [] s (s.modHere fun x => { x with latch := f x.latch }) := by
  obtain ⟨x, hx, _⟩ := group?_of_at hy
  exact .modHere (fun x => { x with latch := f x.latch }) hx (fun _ => rfl) rfl [] (.inr rfl) (.inr ⟨rfl, rfl⟩) (.inr rfl) (.inr rfl) (.inr ⟨rfl, rfl⟩) (.inr rfl) (.inr ⟨rfl, rfl⟩) (.inr rfl)

theorem putReg_eq (s : State) (r : Nat) (g : GReg) :
    s.putReg r g = let s' := s.modHere fun x => { x with latch := latchWrite r x.latch }
      s'.modCore s'.cur.core fun k => k.setReg (s'.here.regBase + r) g := rfl

theorem Kept.putReg (hy : s.me? = some y) (r : Nat) (g : GReg) : Kept [r] [] s (s.putReg r g) := by
  rw [putReg_eq]
  exact (Kept.latch hy _).trans (Kept.setReg rfl g)

theorem me?_putReg (s : State) (r : Nat) (g : GReg) : (s.putReg r g).me? = s.me? := by
  rw [putReg_eq]
  rw [← me?_modHere s (fun x => { x with latch := latchWrite r x.latch }) (fun _ => rfl)]
  unfold State.me? State.split? State.group?
  simp [core_modCore, Core.setReg]

theorem regNow_putReg (hy : s.me? = some y) (r r' : Nat) (g : GReg) : (s.putReg r g).regNow r' = if r = r' then g else s.regNow r' := by
  have k := Kept.putReg hy r g
  unfold State.regNow
  rw [k.base, k.cur]
  by_cases h : r = r'
  · subst h
    rw [putReg_eq, if_pos rfl]
    have b := (Kept.latch hy (latchWrite r)).base
    simp [b]
  · rw [if_neg h]
    exact k.regs _ _ fun _ x m e => by simp at m; omega

theorem Kept.ctlWrite (hy : s.me? = some y) (r : Nat) (g : GReg) : Kept [r] [] s (s.ctlWrite r g) := by
  unfold State.ctlWrite
  refine (Kept.modMe _ hy [] (.inr ⟨rfl, rfl⟩) (.inr rfl) (.inr rfl) (.inr rfl) (.inr ⟨rfl, rfl, rfl, rfl, rfl⟩) (.inr rfl)).trans (Kept.putReg (y := ?_) ?_ r g)
  · exact { y with cWin := { y.cWin with vs := keepFirst y.cWin.vs r (s.regNow r) }, ctlLast := r :: y.ctlLast.erase r }
  · simp [hy]

/-- The split after a register write of the control stream. -/
theorem me?_ctlWrite (hy : s.me? = some y) (r : Nat) (g : GReg) :
    (s.ctlWrite r g).me? = some { y with cWin := { y.cWin with vs := keepFirst y.cWin.vs r (s.regNow r) }, ctlLast := r :: y.ctlLast.erase r } := by
  unfold State.ctlWrite; simp [me?_putReg, hy]

theorem regNow_ctlWrite (hy : s.me? = some y) (r r' : Nat) (g : GReg) : (s.ctlWrite r g).regNow r' = if r = r' then g else s.regNow r' := by
  unfold State.ctlWrite
  rw [regNow_putReg (y := { y with cWin := { y.cWin with vs := keepFirst y.cWin.vs r (s.regNow r) }, ctlLast := r :: y.ctlLast.erase r }) (by simp [hy])]
  split
  · rfl
  · unfold State.regNow
    rw [here_modMe s _ hy]
    simp [Group.setSplit]

/-! ### Completion -/

theorem Kept.retire (hy : s.me? = some y) (p : Bool) (n : Nat) : Kept [] [.loops] s (s.modMe fun x => x.retire p n) := by
  refine Kept.modMe _ hy _ (.inr ?_) (.inr ?_) (.inl (by simp)) (.inr ?_) (.inr ?_) (.inr ?_) <;> simp [Split.retire, Split.issued]

theorem Kept.issued (hy : s.me? = some y) (p : Bool) (n : Nat) (a : Dword) : Kept [] [] s (s.modMe fun x => { x.issued p n with pc := a }) := by
  refine Kept.modMe _ hy _ (.inr ?_) (.inr ?_) (.inr ?_) (.inr ?_) (.inr ?_) (.inr ?_) <;> simp [Split.issued]

theorem regNow_modMe (hy : s.me? = some y) (f : Split → Split) (r : Nat) : (s.modMe f).regNow r = s.regNow r := by
  unfold State.regNow; rw [here_modMe s f hy]; simp [Group.setSplit]

theorem retire_pc (x : Split) (p : Bool) (n : Nat) : (x.retire p n).pc = (loopEnd x.pc x.loops).1 := rfl
theorem retire_loops (x : Split) (p : Bool) (n : Nat) : (x.retire p n).loops = (loopEnd x.pc x.loops).2 := rfl

/-- A control instruction that completes in line. -/
theorem control_done {m : Bool} {b : State → Act} (hy : s.me? = some y) (h : b s = .done t) :
    s.control m b = .next (t.modMe fun x => x.retire m t.cycle) := by simp [State.control, hy, h]

/-- One that goes to another address. -/
theorem control_jump {m : Bool} {b : State → Act} {a : Dword} (hy : s.me? = some y) (h : b s = .jump t a) :
    s.control m b = .next (t.modMe fun x => { x.issued m t.cycle with pc := a }) := by simp [State.control, hy, h]

theorem control_gone {m : Bool} {b : State → Act} (hy : s.me? = some y) (h : b s = .gone t) : s.control m b = .next t := by
  simp [State.control, hy, h]

theorem control_block {m : Bool} {b : State → Act} {w : Wait} (hy : s.me? = some y) (h : b s = .block t w) :
    s.control m b = .next (t.modMe fun x => { x with ctl := .blocked w, ctlSince := t.cycle, waitSince := t.now, cWin := { x.cWin with n := x.cWin.n + 1 } }) := by simp [State.control, hy, h]

/-! ### Checks that pass -/

@[simp] theorem needFree_ok {ds : List Nat} (h : s.Unnamed ds) : s.needFree ds = .ok () := by
  unfold State.needFree
  have : ds.find? (fun r => (s.queuedNames laneNames).contains r || s.awaits [r]) = none := by
    rw [List.find?_eq_none]
    intro r m
    obtain ⟨h1, h2⟩ := h r m
    simp [h1, h2]
  simp only [this]

@[simp] theorem failIf_false (f : Flt) : failIf s false f = .ok () := rfl
@[simp] theorem failIf_true (f : Flt) : failIf s true f = fail s f := rfl
@[simp] theorem holdIf_false (w : Stall) : holdIf false w = .ok () := rfl

theorem inBudget_ok {f r n : Nat} (h : r + n ≤ s.budget) : s.inBudget f r n = .ok () := by
  unfold State.inBudget; rw [decide_eq_false (by omega)]; rfl

@[simp] theorem rangesOk_nil : s.rangesOk [] = .ok () := rfl

theorem rangesOk_cons {f r n : Nat} {l : List (Nat × Nat × Nat)} (h : r + n ≤ s.budget) : s.rangesOk ((f, r, n) :: l) = s.rangesOk l := by
  simp [State.rangesOk, inBudget_ok h]

@[simp] theorem shapesOk_nil : s.shapesOk [] = .ok () := rfl

theorem shapesOk_cons {o : Opd} {l : List Opd} (h : (o.g.val.isUniform || (o.affine && o.g.val.isAffine)) = true) : s.shapesOk (o :: l) = s.shapesOk l := by
  simp [State.shapesOk, State.shapeOk, h]

@[simp] theorem tagsOk_nil (t : Tag) : s.tagsOk t [] = .ok () := rfl

theorem tagsOk_cons {t : Tag} {o : Opd} {l : List Opd} (h : o.anyTag = false) (p : plainTag o.g.tag = true) (a : Agree t o.g.tag) :
    s.tagsOk t (o :: l) = s.tagsOk (if o.g.tag = tBits then t else o.g.tag) l := by
  rw [State.tagsOk]
  have q : plainTag tBits = true := by decide
  rcases a with a | a | a <;> simp_all

end Sys2Proof.Machine
end

