-- ==== Sys2Proof/Laws/Encoding.lean ====
section
/-! SUPPORT. The fields of an encoded word, layout by layout (R129, R135, R136), and what they give: the decoder's shape of every encoded word. -/

namespace Sys2Proof.Laws

set_option Elab.async false

/-- Bits of a concatenation that lie in its low part. -/
theorem extract_low {m n : Nat} (x : BitVec m) (y : BitVec n) (lo k : Nat) (h : lo + k ≤ n) :
    (x ++ y).extractLsb' lo k = y.extractLsb' lo k := by
  apply BitVec.eq_of_getLsbD_eq
  intro i hi
  simp only [BitVec.getLsbD_extractLsb', BitVec.getLsbD_append]
  have : lo + i < n := by omega
  simp [this]

/-- Bits of a concatenation that lie in its high part. -/
theorem extract_high {m n : Nat} (x : BitVec m) (y : BitVec n) (lo k : Nat) (h : n ≤ lo) :
    (x ++ y).extractLsb' lo k = x.extractLsb' (lo - n) k := by
  apply BitVec.eq_of_getLsbD_eq
  intro i hi
  simp only [BitVec.getLsbD_extractLsb', BitVec.getLsbD_append]
  have h1 : ¬ lo + i < n := by omega
  have h2 : lo + i - n = lo - n + i := by omega
  simp [h1, h2]

/-- All the bits of a word. -/
theorem extract_all {n : Nat} (x : BitVec n) : x.extractLsb' 0 n = x := by
  apply BitVec.eq_of_getLsbD_eq
  intro i hi
  simp [hi]

/-- Two neighbouring runs of bits of one word are one run. -/
theorem extract_join {n : Nat} (x : BitVec n) (lo mid k : Nat) :
    x.extractLsb' (lo + mid) k ++ x.extractLsb' lo mid = x.extractLsb' lo (k + mid) := by
  apply BitVec.eq_of_getLsbD_eq
  intro i hi
  simp only [BitVec.getLsbD_append, BitVec.getLsbD_extractLsb']
  by_cases h : i < mid
  · have : i < k + mid := by omega
    simp [h, this]
  · have h1 : i - mid < k := by omega
    have h2 : lo + mid + (i - mid) = lo + i := by omega
    simp [h, h1, hi, h2]

/-- One bit of a concatenation. -/
theorem bit_low {m n : Nat} (x : BitVec m) (y : BitVec n) (i : Nat) (h : i < n) : (x ++ y).getLsbD i = y.getLsbD i := by
  simp [BitVec.getLsbD_append, h]

theorem bit_high {m n : Nat} (x : BitVec m) (y : BitVec n) (i : Nat) (h : n ≤ i) : (x ++ y).getLsbD i = x.getLsbD (i - n) := by
  have : ¬ i < n := by omega
  simp [BitVec.getLsbD_append, this]

/-! ### Fields of encoded words -/

/-- The one bit of a flag. -/
theorem ofBool_bit (b : Bool) : (BitVec.ofBool b).getLsbD 0 = b := by cases b <;> rfl

/-- A field that widens an operand holds it in its low bits and 0 above. -/
theorem widened_low {n m : Nat} (x : BitVec n) (h : n ≤ m) : (x.setWidth m).extractLsb' 0 n = x := by
  apply BitVec.eq_of_getLsbD_eq
  intro i hi
  simp only [BitVec.getLsbD_extractLsb', BitVec.getLsbD_setWidth]
  have h1 : i < m := by omega
  simp [hi, h1]

theorem widened_high {n m : Nat} (x : BitVec n) (k : Nat) : (x.setWidth m).extractLsb' n k = 0 := by
  apply BitVec.eq_of_getLsbD_eq
  intro i hi
  simp [BitVec.getLsbD_extractLsb', BitVec.getLsbD_setWidth, BitVec.getLsbD_of_ge]

/-- A completion and a variant in the last field of an engine command (R134). -/
theorem pair_high (c : BitVec 2) (v : BitVec 3) : (c ++ v : BitVec 5).extractLsb' 3 2 = c :=
  (extract_high _ _ _ _ (by decide)).trans (extract_all _)

theorem pair_low (c : BitVec 2) (v : BitVec 3) : (c ++ v : BitVec 5).extractLsb' 0 3 = v :=
  (extract_low _ _ _ _ (by decide)).trans (extract_all _)

@[simp] theorem cr_p (p op d a b x) : (encCR p op d a b x).getLsbD 31 = p := (bit_high _ _ _ (by decide)).trans ((bit_high _ _ _ (by decide)).trans ((bit_high _ _ _ (by decide)).trans ((bit_high _ _ _ (by decide)).trans ((bit_high _ _ _ (by decide)).trans (ofBool_bit _)))))
@[simp] theorem cr_op (p op d a b x) : cfield (encCR p op d a b x) 25 6 = op := (extract_high _ _ _ _ (by decide)).trans ((extract_high _ _ _ _ (by decide)).trans ((extract_high _ _ _ _ (by decide)).trans ((extract_high _ _ _ _ (by decide)).trans ((extract_low _ _ _ _ (by decide)).trans (extract_all _)))))
@[simp] theorem cr_d (p op d a b x) : cfield (encCR p op d a b x) 17 8 = d := (extract_high _ _ _ _ (by decide)).trans ((extract_high _ _ _ _ (by decide)).trans ((extract_high _ _ _ _ (by decide)).trans ((extract_low _ _ _ _ (by decide)).trans (extract_all _))))
@[simp] theorem cr_a (p op d a b x) : cfield (encCR p op d a b x) 9 8 = a := (extract_high _ _ _ _ (by decide)).trans ((extract_high _ _ _ _ (by decide)).trans ((extract_low _ _ _ _ (by decide)).trans (extract_all _)))
@[simp] theorem cr_b (p op d a b x) : cfield (encCR p op d a b x) 1 8 = b := (extract_high _ _ _ _ (by decide)).trans ((extract_low _ _ _ _ (by decide)).trans (extract_all _))
@[simp] theorem cr_x (p op d a b x) : (encCR p op d a b x).getLsbD 0 = x := (bit_low _ _ _ (by decide)).trans (ofBool_bit _)
@[simp] theorem ci_p (p op d a imm) : (encCI p op d a imm).getLsbD 31 = p := (bit_high _ _ _ (by decide)).trans ((bit_high _ _ _ (by decide)).trans ((bit_high _ _ _ (by decide)).trans ((bit_high _ _ _ (by decide)).trans (ofBool_bit _))))
@[simp] theorem ci_op (p op d a imm) : cfield (encCI p op d a imm) 25 6 = op := (extract_high _ _ _ _ (by decide)).trans ((extract_high _ _ _ _ (by decide)).trans ((extract_high _ _ _ _ (by decide)).trans ((extract_low _ _ _ _ (by decide)).trans (extract_all _))))
@[simp] theorem ci_d (p op d a imm) : cfield (encCI p op d a imm) 17 8 = d := (extract_high _ _ _ _ (by decide)).trans ((extract_high _ _ _ _ (by decide)).trans ((extract_low _ _ _ _ (by decide)).trans (extract_all _)))
@[simp] theorem ci_a (p op d a imm) : cfield (encCI p op d a imm) 9 8 = a := (extract_high _ _ _ _ (by decide)).trans ((extract_low _ _ _ _ (by decide)).trans (extract_all _))
@[simp] theorem ci_imm (p op d a imm) : cfield (encCI p op d a imm) 0 9 = imm := (extract_low _ _ _ _ (by decide)).trans (extract_all _)
@[simp] theorem cw_p (p op d imm) : (encCW p op d imm).getLsbD 31 = p := (bit_high _ _ _ (by decide)).trans ((bit_high _ _ _ (by decide)).trans ((bit_high _ _ _ (by decide)).trans (ofBool_bit _)))
@[simp] theorem cw_op (p op d imm) : cfield (encCW p op d imm) 25 6 = op := (extract_high _ _ _ _ (by decide)).trans ((extract_high _ _ _ _ (by decide)).trans ((extract_low _ _ _ _ (by decide)).trans (extract_all _)))
@[simp] theorem cw_d (p op d imm) : cfield (encCW p op d imm) 17 8 = d := (extract_high _ _ _ _ (by decide)).trans ((extract_low _ _ _ _ (by decide)).trans (extract_all _))
@[simp] theorem cw_imm (p op d imm) : cfield (encCW p op d imm) 0 17 = imm := (extract_low _ _ _ _ (by decide)).trans (extract_all _)
@[simp] theorem cj_p (p op cond off) : (encCJ p op cond off).getLsbD 31 = p := (bit_high _ _ _ (by decide)).trans ((bit_high _ _ _ (by decide)).trans ((bit_high _ _ _ (by decide)).trans (ofBool_bit _)))
@[simp] theorem cj_op (p op cond off) : cfield (encCJ p op cond off) 25 6 = op := (extract_high _ _ _ _ (by decide)).trans ((extract_high _ _ _ _ (by decide)).trans ((extract_low _ _ _ _ (by decide)).trans (extract_all _)))
@[simp] theorem cj_cond (p op cond off) : cfield (encCJ p op cond off) 21 4 = cond := (extract_high _ _ _ _ (by decide)).trans ((extract_low _ _ _ _ (by decide)).trans (extract_all _))
@[simp] theorem cj_off (p op cond off) : cfield (encCJ p op cond off) 0 21 = off := (extract_low _ _ _ _ (by decide)).trans (extract_all _)
@[simp] theorem cm_p (p op sub a b x5) : (encCM p op sub a b x5).getLsbD 31 = p := (bit_high _ _ _ (by decide)).trans ((bit_high _ _ _ (by decide)).trans ((bit_high _ _ _ (by decide)).trans ((bit_high _ _ _ (by decide)).trans ((bit_high _ _ _ (by decide)).trans (ofBool_bit _)))))
@[simp] theorem cm_op (p op sub a b x5) : cfield (encCM p op sub a b x5) 25 6 = op := (extract_high _ _ _ _ (by decide)).trans ((extract_high _ _ _ _ (by decide)).trans ((extract_high _ _ _ _ (by decide)).trans ((extract_high _ _ _ _ (by decide)).trans ((extract_low _ _ _ _ (by decide)).trans (extract_all _)))))
@[simp] theorem cm_sub (p op sub a b x5) : cfield (encCM p op sub a b x5) 21 4 = sub := (extract_high _ _ _ _ (by decide)).trans ((extract_high _ _ _ _ (by decide)).trans ((extract_high _ _ _ _ (by decide)).trans ((extract_low _ _ _ _ (by decide)).trans (extract_all _))))
@[simp] theorem cm_a (p op sub a b x5) : cfield (encCM p op sub a b x5) 13 8 = a := (extract_high _ _ _ _ (by decide)).trans ((extract_high _ _ _ _ (by decide)).trans ((extract_low _ _ _ _ (by decide)).trans (extract_all _)))
@[simp] theorem cm_b (p op sub a b x5) : cfield (encCM p op sub a b x5) 5 8 = b := (extract_high _ _ _ _ (by decide)).trans ((extract_low _ _ _ _ (by decide)).trans (extract_all _))
@[simp] theorem cm_x5 (p op sub a b x5) : cfield (encCM p op sub a b x5) 0 5 = x5 := (extract_low _ _ _ _ (by decide)).trans (extract_all _)
@[simp] theorem cg_p (p op r0 r1 r2 r3 present) : (encCG p op r0 r1 r2 r3 present).getLsbD 31 = p := (bit_high _ _ _ (by decide)).trans ((bit_high _ _ _ (by decide)).trans ((bit_high _ _ _ (by decide)).trans ((bit_high _ _ _ (by decide)).trans ((bit_high _ _ _ (by decide)).trans ((bit_high _ _ _ (by decide)).trans ((bit_high _ _ _ (by decide)).trans (ofBool_bit _)))))))
@[simp] theorem cg_op (p op r0 r1 r2 r3 present) : cfield (encCG p op r0 r1 r2 r3 present) 25 6 = op := (extract_high _ _ _ _ (by decide)).trans ((extract_high _ _ _ _ (by decide)).trans ((extract_high _ _ _ _ (by decide)).trans ((extract_high _ _ _ _ (by decide)).trans ((extract_high _ _ _ _ (by decide)).trans ((extract_high _ _ _ _ (by decide)).trans ((extract_low _ _ _ _ (by decide)).trans (extract_all _)))))))
@[simp] theorem cg_r0 (p op r0 r1 r2 r3 present) : cfield (encCG p op r0 r1 r2 r3 present) 20 5 = r0 := (extract_high _ _ _ _ (by decide)).trans ((extract_high _ _ _ _ (by decide)).trans ((extract_high _ _ _ _ (by decide)).trans ((extract_high _ _ _ _ (by decide)).trans ((extract_high _ _ _ _ (by decide)).trans ((extract_low _ _ _ _ (by decide)).trans (extract_all _))))))
@[simp] theorem cg_r1 (p op r0 r1 r2 r3 present) : cfield (encCG p op r0 r1 r2 r3 present) 15 5 = r1 := (extract_high _ _ _ _ (by decide)).trans ((extract_high _ _ _ _ (by decide)).trans ((extract_high _ _ _ _ (by decide)).trans ((extract_high _ _ _ _ (by decide)).trans ((extract_low _ _ _ _ (by decide)).trans (extract_all _)))))
@[simp] theorem cg_r2 (p op r0 r1 r2 r3 present) : cfield (encCG p op r0 r1 r2 r3 present) 10 5 = r2 := (extract_high _ _ _ _ (by decide)).trans ((extract_high _ _ _ _ (by decide)).trans ((extract_high _ _ _ _ (by decide)).trans ((extract_low _ _ _ _ (by decide)).trans (extract_all _))))
@[simp] theorem cg_r3 (p op r0 r1 r2 r3 present) : cfield (encCG p op r0 r1 r2 r3 present) 5 5 = r3 := (extract_high _ _ _ _ (by decide)).trans ((extract_high _ _ _ _ (by decide)).trans ((extract_low _ _ _ _ (by decide)).trans (extract_all _)))
@[simp] theorem cg_present (p op r0 r1 r2 r3 present) : cfield (encCG p op r0 r1 r2 r3 present) 1 4 = present := (extract_high _ _ _ _ (by decide)).trans ((extract_low _ _ _ _ (by decide)).trans (extract_all _))
@[simp] theorem l_p (op) (f : LaneOp) : (encL op f).getLsbD 95 = f.p := (bit_high _ _ _ (by decide)).trans ((bit_high _ _ _ (by decide)).trans ((bit_high _ _ _ (by decide)).trans ((bit_high _ _ _ (by decide)).trans ((bit_high _ _ _ (by decide)).trans ((bit_high _ _ _ (by decide)).trans ((bit_high _ _ _ (by decide)).trans ((bit_high _ _ _ (by decide)).trans ((bit_high _ _ _ (by decide)).trans ((bit_high _ _ _ (by decide)).trans ((bit_high _ _ _ (by decide)).trans ((bit_high _ _ _ (by decide)).trans (ofBool_bit _))))))))))))
@[simp] theorem l_op (op) (f : LaneOp) : lfield (encL op f) 85 10 = op := (extract_high _ _ _ _ (by decide)).trans ((extract_high _ _ _ _ (by decide)).trans ((extract_high _ _ _ _ (by decide)).trans ((extract_high _ _ _ _ (by decide)).trans ((extract_high _ _ _ _ (by decide)).trans ((extract_high _ _ _ _ (by decide)).trans ((extract_high _ _ _ _ (by decide)).trans ((extract_high _ _ _ _ (by decide)).trans ((extract_high _ _ _ _ (by decide)).trans ((extract_high _ _ _ _ (by decide)).trans ((extract_high _ _ _ _ (by decide)).trans ((extract_low _ _ _ _ (by decide)).trans (extract_all _))))))))))))
@[simp] theorem l_d (op) (f : LaneOp) : lfield (encL op f) 77 8 = f.d := (extract_high _ _ _ _ (by decide)).trans ((extract_high _ _ _ _ (by decide)).trans ((extract_high _ _ _ _ (by decide)).trans ((extract_high _ _ _ _ (by decide)).trans ((extract_high _ _ _ _ (by decide)).trans ((extract_high _ _ _ _ (by decide)).trans ((extract_high _ _ _ _ (by decide)).trans ((extract_high _ _ _ _ (by decide)).trans ((extract_high _ _ _ _ (by decide)).trans ((extract_high _ _ _ _ (by decide)).trans ((extract_low _ _ _ _ (by decide)).trans (extract_all _)))))))))))
@[simp] theorem l_a (op) (f : LaneOp) : lfield (encL op f) 69 8 = f.a := (extract_high _ _ _ _ (by decide)).trans ((extract_high _ _ _ _ (by decide)).trans ((extract_high _ _ _ _ (by decide)).trans ((extract_high _ _ _ _ (by decide)).trans ((extract_high _ _ _ _ (by decide)).trans ((extract_high _ _ _ _ (by decide)).trans ((extract_high _ _ _ _ (by decide)).trans ((extract_high _ _ _ _ (by decide)).trans ((extract_high _ _ _ _ (by decide)).trans ((extract_low _ _ _ _ (by decide)).trans (extract_all _))))))))))
@[simp] theorem l_b (op) (f : LaneOp) : lfield (encL op f) 61 8 = f.b := (extract_high _ _ _ _ (by decide)).trans ((extract_high _ _ _ _ (by decide)).trans ((extract_high _ _ _ _ (by decide)).trans ((extract_high _ _ _ _ (by decide)).trans ((extract_high _ _ _ _ (by decide)).trans ((extract_high _ _ _ _ (by decide)).trans ((extract_high _ _ _ _ (by decide)).trans ((extract_high _ _ _ _ (by decide)).trans ((extract_low _ _ _ _ (by decide)).trans (extract_all _)))))))))
@[simp] theorem l_c (op) (f : LaneOp) : lfield (encL op f) 53 8 = f.c := (extract_high _ _ _ _ (by decide)).trans ((extract_high _ _ _ _ (by decide)).trans ((extract_high _ _ _ _ (by decide)).trans ((extract_high _ _ _ _ (by decide)).trans ((extract_high _ _ _ _ (by decide)).trans ((extract_high _ _ _ _ (by decide)).trans ((extract_high _ _ _ _ (by decide)).trans ((extract_low _ _ _ _ (by decide)).trans (extract_all _))))))))
@[simp] theorem l_mask (op) (f : LaneOp) : lfield (encL op f) 49 4 = f.mask := (extract_high _ _ _ _ (by decide)).trans ((extract_high _ _ _ _ (by decide)).trans ((extract_high _ _ _ _ (by decide)).trans ((extract_high _ _ _ _ (by decide)).trans ((extract_high _ _ _ _ (by decide)).trans ((extract_high _ _ _ _ (by decide)).trans ((extract_low _ _ _ _ (by decide)).trans (extract_all _)))))))
@[simp] theorem l_moda (op) (f : LaneOp) : lfield (encL op f) 42 7 = f.moda := (extract_high _ _ _ _ (by decide)).trans ((extract_high _ _ _ _ (by decide)).trans ((extract_high _ _ _ _ (by decide)).trans ((extract_high _ _ _ _ (by decide)).trans ((extract_high _ _ _ _ (by decide)).trans ((extract_low _ _ _ _ (by decide)).trans (extract_all _))))))
@[simp] theorem l_modb (op) (f : LaneOp) : lfield (encL op f) 35 7 = f.modb := (extract_high _ _ _ _ (by decide)).trans ((extract_high _ _ _ _ (by decide)).trans ((extract_high _ _ _ _ (by decide)).trans ((extract_high _ _ _ _ (by decide)).trans ((extract_low _ _ _ _ (by decide)).trans (extract_all _)))))
@[simp] theorem l_modc (op) (f : LaneOp) : lfield (encL op f) 28 7 = f.modc := (extract_high _ _ _ _ (by decide)).trans ((extract_high _ _ _ _ (by decide)).trans ((extract_high _ _ _ _ (by decide)).trans ((extract_low _ _ _ _ (by decide)).trans (extract_all _))))
@[simp] theorem l_rnd (op) (f : LaneOp) : lfield (encL op f) 25 3 = f.rnd := (extract_high _ _ _ _ (by decide)).trans ((extract_high _ _ _ _ (by decide)).trans ((extract_low _ _ _ _ (by decide)).trans (extract_all _)))
@[simp] theorem l_fmt (op) (f : LaneOp) : lfield (encL op f) 20 5 = f.fmt := (extract_high _ _ _ _ (by decide)).trans ((extract_low _ _ _ _ (by decide)).trans (extract_all _))
@[simp] theorem l_ext (op) (f : LaneOp) : lfield (encL op f) 0 20 = f.ext := (extract_low _ _ _ _ (by decide)).trans (extract_all _)
@[simp] theorem li_p (op) (f : LaneImm) : (encLI op f).getLsbD 95 = f.p := (bit_high _ _ _ (by decide)).trans ((bit_high _ _ _ (by decide)).trans ((bit_high _ _ _ (by decide)).trans ((bit_high _ _ _ (by decide)).trans ((bit_high _ _ _ (by decide)).trans ((bit_high _ _ _ (by decide)).trans ((bit_high _ _ _ (by decide)).trans ((bit_high _ _ _ (by decide)).trans ((bit_high _ _ _ (by decide)).trans ((bit_high _ _ _ (by decide)).trans ((bit_high _ _ _ (by decide)).trans ((bit_high _ _ _ (by decide)).trans (ofBool_bit _))))))))))))
@[simp] theorem li_op (op) (f : LaneImm) : lfield (encLI op f) 85 10 = op := (extract_high _ _ _ _ (by decide)).trans ((extract_high _ _ _ _ (by decide)).trans ((extract_high _ _ _ _ (by decide)).trans ((extract_high _ _ _ _ (by decide)).trans ((extract_high _ _ _ _ (by decide)).trans ((extract_high _ _ _ _ (by decide)).trans ((extract_high _ _ _ _ (by decide)).trans ((extract_high _ _ _ _ (by decide)).trans ((extract_high _ _ _ _ (by decide)).trans ((extract_high _ _ _ _ (by decide)).trans ((extract_high _ _ _ _ (by decide)).trans ((extract_low _ _ _ _ (by decide)).trans (extract_all _))))))))))))
@[simp] theorem li_d (op) (f : LaneImm) : lfield (encLI op f) 77 8 = f.d := (extract_high _ _ _ _ (by decide)).trans ((extract_high _ _ _ _ (by decide)).trans ((extract_high _ _ _ _ (by decide)).trans ((extract_high _ _ _ _ (by decide)).trans ((extract_high _ _ _ _ (by decide)).trans ((extract_high _ _ _ _ (by decide)).trans ((extract_high _ _ _ _ (by decide)).trans ((extract_high _ _ _ _ (by decide)).trans ((extract_high _ _ _ _ (by decide)).trans ((extract_high _ _ _ _ (by decide)).trans ((extract_low _ _ _ _ (by decide)).trans (extract_all _)))))))))))
@[simp] theorem li_a (op) (f : LaneImm) : lfield (encLI op f) 69 8 = f.a := (extract_high _ _ _ _ (by decide)).trans ((extract_high _ _ _ _ (by decide)).trans ((extract_high _ _ _ _ (by decide)).trans ((extract_high _ _ _ _ (by decide)).trans ((extract_high _ _ _ _ (by decide)).trans ((extract_high _ _ _ _ (by decide)).trans ((extract_high _ _ _ _ (by decide)).trans ((extract_high _ _ _ _ (by decide)).trans ((extract_high _ _ _ _ (by decide)).trans ((extract_low _ _ _ _ (by decide)).trans (extract_all _))))))))))
@[simp] theorem li_high (op) (f : LaneImm) : lfield (encLI op f) 53 16 = f.imm.extractLsb' 16 16 := (extract_high _ _ _ _ (by decide)).trans ((extract_high _ _ _ _ (by decide)).trans ((extract_high _ _ _ _ (by decide)).trans ((extract_high _ _ _ _ (by decide)).trans ((extract_high _ _ _ _ (by decide)).trans ((extract_high _ _ _ _ (by decide)).trans ((extract_high _ _ _ _ (by decide)).trans ((extract_high _ _ _ _ (by decide)).trans ((extract_low _ _ _ _ (by decide)).trans (extract_all _)))))))))
@[simp] theorem li_mask (op) (f : LaneImm) : lfield (encLI op f) 49 4 = f.mask := (extract_high _ _ _ _ (by decide)).trans ((extract_high _ _ _ _ (by decide)).trans ((extract_high _ _ _ _ (by decide)).trans ((extract_high _ _ _ _ (by decide)).trans ((extract_high _ _ _ _ (by decide)).trans ((extract_high _ _ _ _ (by decide)).trans ((extract_high _ _ _ _ (by decide)).trans ((extract_low _ _ _ _ (by decide)).trans (extract_all _))))))))
@[simp] theorem li_moda (op) (f : LaneImm) : lfield (encLI op f) 42 7 = f.moda := (extract_high _ _ _ _ (by decide)).trans ((extract_high _ _ _ _ (by decide)).trans ((extract_high _ _ _ _ (by decide)).trans ((extract_high _ _ _ _ (by decide)).trans ((extract_high _ _ _ _ (by decide)).trans ((extract_high _ _ _ _ (by decide)).trans ((extract_low _ _ _ _ (by decide)).trans (extract_all _)))))))
@[simp] theorem li_modb (op) (f : LaneImm) : lfield (encLI op f) 35 7 = f.modb := (extract_high _ _ _ _ (by decide)).trans ((extract_high _ _ _ _ (by decide)).trans ((extract_high _ _ _ _ (by decide)).trans ((extract_high _ _ _ _ (by decide)).trans ((extract_high _ _ _ _ (by decide)).trans ((extract_low _ _ _ _ (by decide)).trans (extract_all _))))))
@[simp] theorem li_modc (op) (f : LaneImm) : lfield (encLI op f) 28 7 = f.modc := (extract_high _ _ _ _ (by decide)).trans ((extract_high _ _ _ _ (by decide)).trans ((extract_high _ _ _ _ (by decide)).trans ((extract_high _ _ _ _ (by decide)).trans ((extract_low _ _ _ _ (by decide)).trans (extract_all _)))))
@[simp] theorem li_rnd (op) (f : LaneImm) : lfield (encLI op f) 25 3 = f.rnd := (extract_high _ _ _ _ (by decide)).trans ((extract_high _ _ _ _ (by decide)).trans ((extract_high _ _ _ _ (by decide)).trans ((extract_low _ _ _ _ (by decide)).trans (extract_all _))))
@[simp] theorem li_fmt (op) (f : LaneImm) : lfield (encLI op f) 20 5 = f.fmt := (extract_high _ _ _ _ (by decide)).trans ((extract_high _ _ _ _ (by decide)).trans ((extract_low _ _ _ _ (by decide)).trans (extract_all _)))
@[simp] theorem li_low (op) (f : LaneImm) : lfield (encLI op f) 4 16 = f.imm.extractLsb' 0 16 := (extract_high _ _ _ _ (by decide)).trans ((extract_low _ _ _ _ (by decide)).trans (extract_all _))
@[simp] theorem li_ext (op) (f : LaneImm) : lfield (encLI op f) 0 4 = f.ext := (extract_low _ _ _ _ (by decide)).trans (extract_all _)
@[simp] theorem cr_d_3_5 (p op d a b x) : cfield (encCR p op d a b x) 20 5 = d.extractLsb' 3 5 := (extract_high _ _ _ _ (by decide)).trans ((extract_high _ _ _ _ (by decide)).trans ((extract_high _ _ _ _ (by decide)).trans (extract_low _ _ _ _ (by decide))))
@[simp] theorem cr_d_0_3 (p op d a b x) : cfield (encCR p op d a b x) 17 3 = d.extractLsb' 0 3 := (extract_high _ _ _ _ (by decide)).trans ((extract_high _ _ _ _ (by decide)).trans ((extract_high _ _ _ _ (by decide)).trans (extract_low _ _ _ _ (by decide))))
@[simp] theorem cr_d_0_7 (p op d a b x) : cfield (encCR p op d a b x) 17 7 = d.extractLsb' 0 7 := (extract_high _ _ _ _ (by decide)).trans ((extract_high _ _ _ _ (by decide)).trans ((extract_high _ _ _ _ (by decide)).trans (extract_low _ _ _ _ (by decide))))
@[simp] theorem cr_d_bit7 (p op d a b x) : (encCR p op d a b x).getLsbD 24 = d.getLsbD 7 := (bit_high _ _ _ (by decide)).trans ((bit_high _ _ _ (by decide)).trans ((bit_high _ _ _ (by decide)).trans (bit_low _ _ _ (by decide))))
@[simp] theorem ci_d_0_7 (p op d a imm) : cfield (encCI p op d a imm) 17 7 = d.extractLsb' 0 7 := (extract_high _ _ _ _ (by decide)).trans ((extract_high _ _ _ _ (by decide)).trans (extract_low _ _ _ _ (by decide)))
@[simp] theorem ci_d_bit7 (p op d a imm) : (encCI p op d a imm).getLsbD 24 = d.getLsbD 7 := (bit_high _ _ _ (by decide)).trans ((bit_high _ _ _ (by decide)).trans (bit_low _ _ _ (by decide)))
@[simp] theorem cw_imm_0_16 (p op d imm) : cfield (encCW p op d imm) 0 16 = imm.extractLsb' 0 16 := extract_low _ _ _ _ (by decide)
@[simp] theorem cw_imm_bit16 (p op d imm) : (encCW p op d imm).getLsbD 16 = imm.getLsbD 16 := bit_low _ _ _ (by decide)
@[simp] theorem cm_x5_0_3 (p op sub a b x5) : cfield (encCM p op sub a b x5) 0 3 = x5.extractLsb' 0 3 := extract_low _ _ _ _ (by decide)
@[simp] theorem cm_x5_3_2 (p op sub a b x5) : cfield (encCM p op sub a b x5) 3 2 = x5.extractLsb' 3 2 := extract_low _ _ _ _ (by decide)
@[simp] theorem cm_x5_1_4 (p op sub a b x5) : cfield (encCM p op sub a b x5) 1 4 = x5.extractLsb' 1 4 := extract_low _ _ _ _ (by decide)
@[simp] theorem cm_x5_bit0 (p op sub a b x5) : (encCM p op sub a b x5).getLsbD 0 = x5.getLsbD 0 := bit_low _ _ _ (by decide)
@[simp] theorem cg_spare (p op r0 r1 r2 r3 present) : (encCG p op r0 r1 r2 r3 present).getLsbD 0 = false := bit_low _ _ _ (by decide)

/-- The fields of a register-form word are those it was made of (R135). -/
theorem laneOp_enc (op : BitVec 10) (f : LaneOp) : laneOp (encL op f) = f := by
  simp only [laneOp, l_p, l_d, l_a, l_b, l_c, l_mask, l_moda, l_modb, l_modc, l_rnd, l_fmt, l_ext]

/-- The same of an immediate-form word (R136). -/
theorem laneImm_enc (op : BitVec 10) (f : LaneImm) : laneImm (encLI op f) = f := by
  simp only [laneImm, li_p, li_d, li_a, li_high, li_low, li_mask, li_moda, li_modb, li_modc, li_rnd, li_fmt, li_ext]
  have h : f.imm.extractLsb' 16 16 ++ f.imm.extractLsb' 0 16 = f.imm := (extract_join f.imm 0 16 16).trans (extract_all _)
  rw [h]

end Sys2Proof.Laws
end

