-- ==== Sys2Proof/Laws/Memory.lean ====
section
/-! SUPPORT. Memory: every operation on the bytes of DRAM keeps the canonical form, the reset memory has it, and a write leaves the bytes that it does not name. -/

namespace Sys2Proof.Machine

variable {s : State}

/-! ### Folds -/

/-- What every step of a fold keeps, the fold keeps. -/
theorem wf_foldl {α : Type} {f : State → α → State} (step : ∀ s x, Memory.wf s.mem = true → Memory.wf (f s x).mem = true) (l : List α) :
    ∀ s : State, Memory.wf s.mem = true → Memory.wf (l.foldl f s).mem = true := by
  induction l with
  | nil => exact fun _ h => h
  | cons x l ih => exact fun s h => ih _ (step s x h)

/-- A fold whose steps leave memory leaves it. -/
theorem mem_foldl {α : Type} {f : State → α → State} (step : ∀ s x, (f s x).mem = s.mem) (l : List α) : ∀ s : State, (l.foldl f s).mem = s.mem := by
  induction l with
  | nil => exact fun _ => rfl
  | cons x l ih => exact fun s => (ih _).trans (step s x)

theorem wf_writeN {w : State → Nat → Byte → State} (step : ∀ s a b, Memory.wf s.mem = true → Memory.wf (w s a b).mem = true) (l : List Byte) :
    ∀ (s : State) (a : Nat), Memory.wf s.mem = true → Memory.wf (writeN w s a l).mem = true := by
  induction l with
  | nil => exact fun _ _ h => h
  | cons b l ih => exact fun s a h => ih _ _ (step s a b h)

/-! ### Operations that leave DRAM -/

@[simp] theorem mem_logSlice (fa storage status bit : Nat) : (s.logSlice fa storage status bit).mem = s.mem := rfl
@[simp] theorem mem_logCoreError (c off storage status bit : Nat) : (s.logCoreError c off storage status bit).mem = s.mem := rfl
@[simp] theorem mem_unlose (fa : Nat) : (s.unlose fa).mem = s.mem := rfl
@[simp] theorem mem_modSlice (r k : Nat) (f : Slice → Slice) : (s.modSlice r k f).mem = s.mem := rfl
@[simp] theorem mem_modTag (fa : Nat) (f : SliceTag → SliceTag) : (s.modTag fa f).mem = s.mem := by
  unfold State.modTag; split <;> rfl
@[simp] theorem mem_countLine (c t line : Nat) : (s.countLine c t line).mem = s.mem := by
  unfold State.countLine; split <;> simp
@[simp] theorem mem_setWindow (fa : Nat) (b : Byte) : (s.setWindow fa b).mem = s.mem := by
  unfold State.setWindow; split
  · split <;> rfl
  · rfl

/-! ### Bytes and lines -/

/-- Bytes of one line that are performed, refused at a dark reticle, or dropped at a lost line (R376) leave memory canonical. -/
theorem wf_putLine (line : Nat) (l : List (Nat × Byte)) (h : Memory.wf s.mem = true) : Memory.wf (s.putLine line l).mem = true := by
  have w := wf_foldl (f := fun s (e : Nat × Byte) => s.setMem e.1 e.2) (fun s e => wf_setMem s e.1 e.2) l
  unfold State.putLine
  split
  · exact h
  · split
    · exact w _ h
    · split
      · exact w _ h
      · exact h

/-! ### Leases and slices -/

theorem wf_recallLease (fa : Nat) (h : Memory.wf s.mem = true) : Memory.wf (s.recallLease fa).mem = true := by
  unfold State.recallLease
  split
  · exact h
  · simp only [mem_modTag]
    split
    · show Memory.wf (State.mem _) = true
      split
      · exact h
      · exact wf_putLine _ _ (by simpa using h)
    · exact h

theorem wf_dropFromSlice (fa : Nat) (h : Memory.wf s.mem = true) : Memory.wf (s.dropFromSlice fa).mem = true := wf_recallLease fa h

theorem wf_trimSlice (ret k n : Nat) : ∀ s : State, Memory.wf s.mem = true → Memory.wf (s.trimSlice ret k n).mem = true := by
  induction n with
  | zero => exact fun _ h => h
  | succ n ih =>
    intro s h
    unfold State.trimSlice
    dsimp only
    split
    · exact h
    · split
      · exact ih _ (wf_dropFromSlice _ h)
      · exact h

theorem wf_cacheLine (fa : Nat) (write : Bool) (h : Memory.wf s.mem = true) : Memory.wf (s.cacheLine fa write).mem = true := by
  unfold State.cacheLine
  split
  · exact wf_trimSlice _ _ _ _ h
  · exact h

theorem wf_putBytes (l : List (Nat × Byte)) (h : Memory.wf s.mem = true) : Memory.wf (s.putBytes l).mem = true :=
  wf_foldl (fun _ _ h => wf_cacheLine _ _ (wf_putLine _ _ h)) _ _ h

theorem wf_serve (agent : Option Nat) (fa : Nat) (h : Memory.wf s.mem = true) : Memory.wf (s.serve agent fa).mem = true := by
  refine wf_cacheLine _ _ ?_
  split
  · exact h
  · split
    · exact h
    · exact wf_recallLease _ h

theorem wf_serveAll (agent : Option Nat) (l : List Nat) (h : Memory.wf s.mem = true) : Memory.wf (s.serveAll agent l).mem = true :=
  wf_foldl (fun _ _ h => wf_serve _ _ h) _ _ h

theorem wf_writeBackBytes (c : Nat) (l : L1Line) (h : Memory.wf s.mem = true) : Memory.wf (s.writeBackBytes c l).mem = true := by
  unfold State.writeBackBytes
  split
  · exact h
  · exact wf_putBytes _ (by simpa using wf_serve _ _ h)

/-! ### Home reads and writes -/

/-- Reading bytes changes no memory. -/
theorem mem_readHomes (l : List Nat) : ∀ s : State, (s.readHomes l).2.mem = s.mem := by
  induction l with
  | nil => exact fun _ => rfl
  | cons a l ih =>
    intro s
    simp only [State.readHomes]
    split
    · exact ih s
    · exact ih s.draw.2

theorem wf_homeReads (agent : Option Nat) (l : List Nat) (h : Memory.wf s.mem = true) : Memory.wf (s.homeReads agent l).2.mem = true := by
  rw [State.homeReads, mem_readHomes]
  exact wf_serveAll _ _ h

theorem wf_homeWrites (agent : Option Nat) (l : List (Nat × Byte)) (h : Memory.wf s.mem = true) : Memory.wf (s.homeWrites agent l).mem = true := by
  refine wf_putBytes _ ?_
  rw [mem_foldl (fun s e => mem_setWindow (s := s) _ _)]
  exact wf_serveAll _ _ h

/-! ### The L1 -/

theorem wf_evictLine (c : Nat) (l : L1Line) (h : Memory.wf s.mem = true) : Memory.wf (s.evictLine c l).mem = true := by
  unfold State.evictLine
  split
  · simpa using wf_writeBackBytes c l h
  · exact wf_writeBackBytes c l h

theorem wf_makeRoom (c : Nat) (h : Memory.wf s.mem = true) : Memory.wf (s.makeRoom c).mem = true := by
  unfold State.makeRoom
  dsimp only
  split
  · exact h
  · split
    · exact wf_evictLine _ _ h
    · exact h

theorem wf_touchLine (c line : Nat) (h : Memory.wf s.mem = true) : Memory.wf (s.touchLine c line).mem = true := by
  unfold State.touchLine
  split
  · exact h
  · exact wf_makeRoom _ h

theorem wf_fillLine (c line : Nat) (h : Memory.wf s.mem = true) : Memory.wf (s.fillLine c line).mem = true := by
  show Memory.wf (((s.serve (some c) (lineBase line)).touchLine c line).readHomes _).2.mem = true
  rw [mem_readHomes]
  exact wf_touchLine _ _ (wf_serve _ _ h)

theorem wf_ensure (c : Nat) (l : List Nat) (h : Memory.wf s.mem = true) : Memory.wf (s.ensure c l).mem = true :=
  wf_foldl (fun s a h => by split <;> first | exact wf_touchLine _ _ h | exact wf_fillLine _ _ h) _ _ h

theorem wf_l1Store (c t a : Nat) (b : Byte) (h : Memory.wf s.mem = true) : Memory.wf (s.l1Store c t a b).mem = true := wf_touchLine _ _ h

theorem wf_cleanLine (c : Nat) (l : L1Line) (keep : BitVec 128) (h : Memory.wf s.mem = true) : Memory.wf (s.cleanLine c l keep).mem = true :=
  wf_writeBackBytes _ _ h

theorem wf_bypass (c fa : Nat) (h : Memory.wf s.mem = true) : Memory.wf (s.bypass c fa).mem = true := by
  unfold State.bypass
  split
  · exact wf_evictLine _ _ h
  · exact h

/-! ### Loads and stores of a core -/

theorem wf_loadBytes (c : Nat) (cached : Bool) (l : List Nat) (h : Memory.wf s.mem = true) : Memory.wf (s.loadBytes c cached l).2.mem = true := by
  unfold State.loadBytes
  split
  · exact wf_ensure _ _ h
  · exact wf_homeReads _ _ (wf_foldl (fun _ _ h => wf_bypass _ _ h) _ _ h)

theorem wf_storeBytes (c t : Nat) (cached : Bool) (l : List (Nat × Byte)) (h : Memory.wf s.mem = true) : Memory.wf (s.storeBytes c t cached l).mem = true := by
  unfold State.storeBytes
  split
  · exact wf_foldl (fun s e h => wf_l1Store _ _ _ _ h) _ _ h
  · exact wf_homeWrites _ _ (wf_foldl (fun s e h => wf_bypass _ _ h) _ _ h)

/-! ### What a write leaves -/

theorem memByte_setMems (l : List (Nat × Byte)) (a : Nat) (h : ∀ e ∈ l, e.1 ≠ a) :
    ∀ s : State, (l.foldl (fun s e => s.setMem e.1 e.2) s).memByte a = s.memByte a := by
  induction l with
  | nil => exact fun _ => rfl
  | cons e l ih =>
    intro s
    rw [List.foldl_cons, ih (fun x m => h x (List.mem_cons_of_mem _ m))]
    simp [h e (List.mem_cons_self ..)]

/-- A write of bytes at their home slices leaves every byte that it does not name. -/
theorem memByte_putLine (line : Nat) (l : List (Nat × Byte)) (a : Nat) (h : ∀ e ∈ l, e.1 ≠ a) : (s.putLine line l).memByte a = s.memByte a := by
  unfold State.putLine
  split
  · rfl
  · split
    · exact memByte_setMems l a h s
    · split
      · exact memByte_setMems l a h _
      · rfl

/-- No line leaves a slice whose lines fit (R98). -/
theorem trimSlice_fits {ret k : Nat} (h : s.sliceFits ret (s.slice ret k).lines = true) (n : Nat) : s.trimSlice ret k n = s := by
  cases n with
  | zero => rfl
  | succ n => unfold State.trimSlice; simp [h]

/-- Nothing is listed at reset. -/
theorem wf_reset : Memory.wf State.reset.mem = true := rfl

end Sys2Proof.Machine
end

