-- ==== Sys2Proof/Laws/PerInstr.lean ====
section
/-! SUPPORT. For every constructor: the words of the well-formed instruction decode to it. -/

namespace Sys2Proof.Laws.Enc

set_option Elab.async false

/-- The words of a well-formed instruction fit their width and decode to it (R128 to R138); a device step has none. -/
def Statement (i : Instr) : Prop :=
  ∀ n w, i.wf = true → encode i = some (n, w) → w < 2 ^ n ∧ decodeTableWord n w = some i

theorem of_none (i : Instr) (h : encode i = none) : Statement i := by
  intro n w _ e; rw [h] at e; cases e

theorem of_control (i : Instr) (w : BitVec 32) (h : encodeControl i = some w) (hs : controlShape w = .ok i) : Statement i := by
  intro n v hw e
  simp only [encode, h, Option.some.injEq, Prod.mk.injEq] at e
  obtain ⟨rfl, rfl⟩ := e
  refine ⟨w.isLt, ?_⟩
  simp [decodeTableWord, decodeControl, checked, hs, hw, decoded]

theorem of_shape (i : Instr) (w : BitVec 96) (hc : encodeControl i = none) (h : encodeLane i = some w) (hs : laneShape w = .ok i) : Statement i := by
  intro n v hw e
  simp only [encode, hc, h, Option.some.injEq, Prod.mk.injEq] at e
  obtain ⟨rfl, rfl⟩ := e
  refine ⟨w.isLt, ?_⟩
  simp [decodeTableWord, decodeLane, checked, hs, hw, decoded]

theorem of_lane (op : BitVec 10) (f : LaneOp) (i : Instr) (hc : encodeControl i = none) (h : encodeLane i = some (encL op f)) (hl : op.toNat < 0x200)
    (hs : laneRegister op.toNat f = some i) : Statement i :=
  of_shape i _ hc h (by simp [laneShape, l_op, hl, laneOp_enc, hs])

theorem of_imm (op : BitVec 10) (f : LaneImm) (i : Instr) (hc : encodeControl i = none) (h : encodeLane i = some (encLI op f)) (hl : ¬op.toNat < 0x200)
    (hs : laneImmediate op.toNat f = some i) : Statement i :=
  of_shape i _ hc h (by simp [laneShape, li_op, hl, laneImm_enc, hs])

theorem b (p o) : Statement (.b p o) := of_control _ _ rfl (by simp [-BitVec.getLsbD_eq_getElem, controlShape, unused])
theorem bc (p c o) : Statement (.bc p c o) := of_control _ _ rfl (by simp [-BitVec.getLsbD_eq_getElem, controlShape])
theorem bmz (p k o) : Statement (.bmz p k o) := of_control _ _ rfl (by simp [-BitVec.getLsbD_eq_getElem, controlShape])
theorem bma (p k o) : Statement (.bma p k o) := of_control _ _ rfl (by simp [-BitVec.getLsbD_eq_getElem, controlShape])
theorem call (p d i) : Statement (.call p d i) := of_control _ _ rfl (by simp [-BitVec.getLsbD_eq_getElem, controlShape])
theorem ret (p a) : Statement (.ret p a) := of_control _ _ rfl (by simp [-BitVec.getLsbD_eq_getElem, controlShape, unused])
theorem loop (p a i) : Statement (.loop p a i) := of_control _ _ rfl (by simp [-BitVec.getLsbD_eq_getElem, controlShape, unused])
theorem split (p k o) : Statement (.split p k o) := of_control _ _ rfl (by simp [-BitVec.getLsbD_eq_getElem, controlShape])
theorem lrun (p n o) : Statement (.lrun p n o) := of_control _ _ rfl (by simp [-BitVec.getLsbD_eq_getElem, controlShape])
theorem yld (p o) : Statement (.yld p o) := of_control _ _ rfl (by simp [-BitVec.getLsbD_eq_getElem, controlShape, unused])
theorem nop (p) : Statement (.nop p) := of_control _ _ rfl (by cases p <;> rfl)
theorem exit (p) : Statement (.exit p) := of_control _ _ rfl (by cases p <;> rfl)
theorem merge (p) : Statement (.merge p) := of_control _ _ rfl (by cases p <;> rfl)
theorem lbrk (p) : Statement (.lbrk p) := of_control _ _ rfl (by cases p <;> rfl)
theorem eret (p) : Statement (.eret p) := of_control _ _ rfl (by cases p <;> rfl)
theorem mmafence (p) : Statement (.mmafence p) := of_control _ _ rfl (by cases p <;> rfl)
theorem uadd (p d a b x) : Statement (.uadd p d a b x) := of_control _ _ rfl (by simp [-BitVec.getLsbD_eq_getElem, controlShape])
theorem usub (p d a b x) : Statement (.usub p d a b x) := of_control _ _ rfl (by simp [-BitVec.getLsbD_eq_getElem, controlShape])
theorem umul (p d a b x) : Statement (.umul p d a b x) := of_control _ _ rfl (by simp [-BitVec.getLsbD_eq_getElem, controlShape])
theorem umulh (p d a b x) : Statement (.umulh p d a b x) := of_control _ _ rfl (by simp [-BitVec.getLsbD_eq_getElem, controlShape])
theorem umad (p d a b x) : Statement (.umad p d a b x) := of_control _ _ rfl (by simp [-BitVec.getLsbD_eq_getElem, controlShape])
theorem ushl (p d a b x) : Statement (.ushl p d a b x) := of_control _ _ rfl (by simp [-BitVec.getLsbD_eq_getElem, controlShape])
theorem ushr (p d a b x) : Statement (.ushr p d a b x) := of_control _ _ rfl (by simp [-BitVec.getLsbD_eq_getElem, controlShape])
theorem usra (p d a b x) : Statement (.usra p d a b x) := of_control _ _ rfl (by simp [-BitVec.getLsbD_eq_getElem, controlShape])
theorem uand (p d a b x) : Statement (.uand p d a b x) := of_control _ _ rfl (by simp [-BitVec.getLsbD_eq_getElem, controlShape])
theorem uor (p d a b x) : Statement (.uor p d a b x) := of_control _ _ rfl (by simp [-BitVec.getLsbD_eq_getElem, controlShape])
theorem uxor (p d a b x) : Statement (.uxor p d a b x) := of_control _ _ rfl (by simp [-BitVec.getLsbD_eq_getElem, controlShape])
theorem umin (p d a b x) : Statement (.umin p d a b x) := of_control _ _ rfl (by simp [-BitVec.getLsbD_eq_getElem, controlShape])
theorem umax (p d a b x) : Statement (.umax p d a b x) := of_control _ _ rfl (by simp [-BitVec.getLsbD_eq_getElem, controlShape])
theorem ucmp (p a b x) : Statement (.ucmp p a b x) := of_control _ _ rfl (by simp [-BitVec.getLsbD_eq_getElem, controlShape, unused])
theorem umov (p d b x) : Statement (.umov p d b x) := of_control _ _ rfl (by simp [-BitVec.getLsbD_eq_getElem, controlShape, unused])
theorem uaff (p d a b x) : Statement (.uaff p d a b x) := of_control _ _ rfl (by simp [-BitVec.getLsbD_eq_getElem, controlShape])
theorem usel (p c a b x) : Statement (.usel p c a b x) := of_control _ _ rfl (by simp [-BitVec.getLsbD_eq_getElem, controlShape, unused, widened_high, BitVec.getLsbD_setWidth])
theorem ulim (p d i) : Statement (.ulim p d i) := of_control _ _ rfl (by simp [-BitVec.getLsbD_eq_getElem, controlShape])
theorem ulih (p d i) : Statement (.ulih p d i) := of_control _ _ rfl (by simp [-BitVec.getLsbD_eq_getElem, controlShape, unused, widened_low, BitVec.getLsbD_setWidth])
theorem sget (p d i) : Statement (.sget p d i) := of_control _ _ rfl (by simp [-BitVec.getLsbD_eq_getElem, controlShape, unused])
theorem sput (p a i) : Statement (.sput p a i) := of_control _ _ rfl (by simp [-BitVec.getLsbD_eq_getElem, controlShape, unused])
theorem rgn (p r0 r1 r2 r3 pr) : Statement (.rgn p r0 r1 r2 r3 pr) := of_control _ _ rfl (by simp [-BitVec.getLsbD_eq_getElem, controlShape, unused])
theorem trap (p i) : Statement (.trap p i) := of_control _ _ rfl (by simp [-BitVec.getLsbD_eq_getElem, controlShape, unused])
theorem slotq (p d) : Statement (.slotq p d) := of_control _ _ rfl (by simp [-BitVec.getLsbD_eq_getElem, controlShape, unused])
theorem opreq (p d a) : Statement (.opreq p d a) := of_control _ _ rfl (by simp [-BitVec.getLsbD_eq_getElem, controlShape, unused])
theorem spawn (p d a b x) : Statement (.spawn p d a b x) := of_control _ _ rfl (by simp [-BitVec.getLsbD_eq_getElem, controlShape])
theorem fence (p s a b) : Statement (.fence p s a b) := of_control _ _ rfl (by simp [-BitVec.getLsbD_eq_getElem, controlShape, unused])
theorem waitBar (p a b) : Statement (.waitBar p a b) := of_control _ _ rfl (by simp [-BitVec.getLsbD_eq_getElem, controlShape, unused, decodeWait])
theorem waitBatch (p a) : Statement (.waitBatch p a) := of_control _ _ rfl (by simp [-BitVec.getLsbD_eq_getElem, controlShape, unused, decodeWait])
theorem waitTok (p a) : Statement (.waitTok p a) := of_control _ _ rfl (by simp [-BitVec.getLsbD_eq_getElem, controlShape, unused, decodeWait])
theorem binit (p a b x) : Statement (.binit p a b x) := of_control _ _ rfl (by simp [-BitVec.getLsbD_eq_getElem, controlShape, unused])
theorem barrive (p s a b) : Statement (.barrive p s a b) := of_control _ _ rfl (by simp [-BitVec.getLsbD_eq_getElem, controlShape, unused])
theorem bexpect (p s a b) : Statement (.bexpect p s a b) := of_control _ _ rfl (by simp [-BitVec.getLsbD_eq_getElem, controlShape, unused])
theorem gbar (p a) : Statement (.gbar p a) := of_control _ _ rfl (by simp [-BitVec.getLsbD_eq_getElem, controlShape, unused])
theorem drain (p a b) : Statement (.drain p a b) := of_control _ _ rfl (by simp [-BitVec.getLsbD_eq_getElem, controlShape, unused])
theorem gang (p a b x) : Statement (.gang p a b x) := of_control _ _ rfl (by simp [-BitVec.getLsbD_eq_getElem, controlShape, unused])
theorem cbld (p k a) : Statement (.cbld p k a) := of_control _ _ rfl (by simp [-BitVec.getLsbD_eq_getElem, controlShape, unused, widened_low, widened_high])
theorem siltThr (p t b x) : Statement (.siltThr p t b x) := of_control _ _ rfl (by simp [-BitVec.getLsbD_eq_getElem, controlShape, unused, widened_low, BitVec.getLsbD_setWidth])
theorem siltClr (p t) : Statement (.siltClr p t) := of_control _ _ rfl (by simp [-BitVec.getLsbD_eq_getElem, controlShape, unused, widened_low, BitVec.getLsbD_setWidth])
theorem widepool (p d) : Statement (.widepool p d) := of_control _ _ rfl (by simp [-BitVec.getLsbD_eq_getElem, controlShape, unused])
theorem cpy (p a b c v) : Statement (.cpy p a b c v) := of_control _ _ rfl (by simp [-BitVec.getLsbD_eq_getElem, controlShape, decodeEngine, pair_low, pair_high])
theorem gth (p a b c v) : Statement (.gth p a b c v) := of_control _ _ rfl (by simp [-BitVec.getLsbD_eq_getElem, controlShape, decodeEngine, pair_low, pair_high])
theorem sct (p a b c v) : Statement (.sct p a b c v) := of_control _ _ rfl (by simp [-BitVec.getLsbD_eq_getElem, controlShape, decodeEngine, pair_low, pair_high])
theorem nput (p a b c v) : Statement (.nput p a b c v) := of_control _ _ rfl (by simp [-BitVec.getLsbD_eq_getElem, controlShape, decodeEngine, pair_low, pair_high])
theorem nget (p a b c v) : Statement (.nget p a b c v) := of_control _ _ rfl (by simp [-BitVec.getLsbD_eq_getElem, controlShape, decodeEngine, pair_low, pair_high])
theorem natom (p a b c v) : Statement (.natom p a b c v) := of_control _ _ rfl (by simp [-BitVec.getLsbD_eq_getElem, controlShape, decodeEngine, pair_low, pair_high])
theorem coll (p a b c v) : Statement (.coll p a b c v) := of_control _ _ rfl (by simp [-BitVec.getLsbD_eq_getElem, controlShape, decodeEngine, pair_low, pair_high])
theorem nswap (p a b c v) : Statement (.nswap p a b c v) := of_control _ _ rfl (by simp [-BitVec.getLsbD_eq_getElem, controlShape, decodeEngine, pair_low, pair_high])
theorem l1ways (p b c v) : Statement (.l1ways p b c v) := of_control _ _ rfl (by simp [-BitVec.getLsbD_eq_getElem, controlShape, unused, decodeEngine, pair_low, pair_high])
theorem add (f) : Statement (.add f) := of_lane 0x000 f _ rfl rfl (by decide) rfl
theorem addImmediate (f) : Statement (.addImmediate f) := of_imm 0x200 f _ rfl rfl (by decide) rfl
theorem sub (f) : Statement (.sub f) := of_lane 0x001 f _ rfl rfl (by decide) rfl
theorem subImmediate (f) : Statement (.subImmediate f) := of_imm 0x201 f _ rfl rfl (by decide) rfl
theorem mul (f) : Statement (.mul f) := of_lane 0x002 f _ rfl rfl (by decide) rfl
theorem mulImmediate (f) : Statement (.mulImmediate f) := of_imm 0x202 f _ rfl rfl (by decide) rfl
theorem mulhi (f) : Statement (.mulhi f) := of_lane 0x003 f _ rfl rfl (by decide) rfl
theorem mad (f) : Statement (.mad f) := of_lane 0x004 f _ rfl rfl (by decide) rfl
theorem minL (f) : Statement (.minL f) := of_lane 0x005 f _ rfl rfl (by decide) rfl
theorem minImmediate (f) : Statement (.minImmediate f) := of_imm 0x205 f _ rfl rfl (by decide) rfl
theorem maxL (f) : Statement (.maxL f) := of_lane 0x006 f _ rfl rfl (by decide) rfl
theorem maxImmediate (f) : Statement (.maxImmediate f) := of_imm 0x206 f _ rfl rfl (by decide) rfl
theorem absL (f) : Statement (.absL f) := of_lane 0x007 f _ rfl rfl (by decide) rfl
theorem neg (f) : Statement (.neg f) := of_lane 0x008 f _ rfl rfl (by decide) rfl
theorem andL (f) : Statement (.andL f) := of_lane 0x009 f _ rfl rfl (by decide) rfl
theorem andImmediate (f) : Statement (.andImmediate f) := of_imm 0x209 f _ rfl rfl (by decide) rfl
theorem orL (f) : Statement (.orL f) := of_lane 0x00A f _ rfl rfl (by decide) rfl
theorem orImmediate (f) : Statement (.orImmediate f) := of_imm 0x20A f _ rfl rfl (by decide) rfl
theorem xor (f) : Statement (.xor f) := of_lane 0x00B f _ rfl rfl (by decide) rfl
theorem xorImmediate (f) : Statement (.xorImmediate f) := of_imm 0x20B f _ rfl rfl (by decide) rfl
theorem notL (f) : Statement (.notL f) := of_lane 0x00C f _ rfl rfl (by decide) rfl
theorem shl (f) : Statement (.shl f) := of_lane 0x00D f _ rfl rfl (by decide) rfl
theorem shlImmediate (f) : Statement (.shlImmediate f) := of_imm 0x20D f _ rfl rfl (by decide) rfl
theorem shr (f) : Statement (.shr f) := of_lane 0x00E f _ rfl rfl (by decide) rfl
theorem shrImmediate (f) : Statement (.shrImmediate f) := of_imm 0x20E f _ rfl rfl (by decide) rfl
theorem sra (f) : Statement (.sra f) := of_lane 0x00F f _ rfl rfl (by decide) rfl
theorem sraImmediate (f) : Statement (.sraImmediate f) := of_imm 0x20F f _ rfl rfl (by decide) rfl
theorem rot (f) : Statement (.rot f) := of_lane 0x010 f _ rfl rfl (by decide) rfl
theorem rotImmediate (f) : Statement (.rotImmediate f) := of_imm 0x210 f _ rfl rfl (by decide) rfl
theorem popc (f) : Statement (.popc f) := of_lane 0x011 f _ rfl rfl (by decide) rfl
theorem clz (f) : Statement (.clz f) := of_lane 0x012 f _ rfl rfl (by decide) rfl
theorem brev (f) : Statement (.brev f) := of_lane 0x013 f _ rfl rfl (by decide) rfl
theorem bfe (f) : Statement (.bfe f) := of_lane 0x014 f _ rfl rfl (by decide) rfl
theorem bfi (f) : Statement (.bfi f) := of_lane 0x015 f _ rfl rfl (by decide) rfl
theorem cmp (f) : Statement (.cmp f) := of_lane 0x020 f _ rfl rfl (by decide) rfl
theorem cmpImmediate (f) : Statement (.cmpImmediate f) := of_imm 0x220 f _ rfl rfl (by decide) rfl
theorem sel (f) : Statement (.sel f) := of_lane 0x021 f _ rfl rfl (by decide) rfl
theorem mand (f) : Statement (.mand f) := of_lane 0x022 f _ rfl rfl (by decide) rfl
theorem mor (f) : Statement (.mor f) := of_lane 0x023 f _ rfl rfl (by decide) rfl
theorem mxor (f) : Statement (.mxor f) := of_lane 0x024 f _ rfl rfl (by decide) rfl
theorem mnot (f) : Statement (.mnot f) := of_lane 0x025 f _ rfl rfl (by decide) rfl
theorem ballot (f) : Statement (.ballot f) := of_lane 0x026 f _ rfl rfl (by decide) rfl
theorem mcount (f) : Statement (.mcount f) := of_lane 0x027 f _ rfl rfl (by decide) rfl
theorem mprefix (f) : Statement (.mprefix f) := of_lane 0x028 f _ rfl rfl (by decide) rfl
theorem shfl (f) : Statement (.shfl f) := of_lane 0x030 f _ rfl rfl (by decide) rfl
theorem shup (f) : Statement (.shup f) := of_lane 0x031 f _ rfl rfl (by decide) rfl
theorem shdn (f) : Statement (.shdn f) := of_lane 0x032 f _ rfl rfl (by decide) rfl
theorem shxor (f) : Statement (.shxor f) := of_lane 0x033 f _ rfl rfl (by decide) rfl
theorem shcat (f) : Statement (.shcat f) := of_lane 0x034 f _ rfl rfl (by decide) rfl
theorem prm (f) : Statement (.prm f) := of_lane 0x035 f _ rfl rfl (by decide) rfl
theorem lut16 (f) : Statement (.lut16 f) := of_lane 0x036 f _ rfl rfl (by decide) rfl
theorem lscan (f) : Statement (.lscan f) := of_lane 0x037 f _ rfl rfl (by decide) rfl
theorem lred (f) : Statement (.lred f) := of_lane 0x038 f _ rfl rfl (by decide) rfl
theorem fadd (f) : Statement (.fadd f) := of_lane 0x040 f _ rfl rfl (by decide) rfl
theorem faddImmediate (f) : Statement (.faddImmediate f) := of_imm 0x240 f _ rfl rfl (by decide) rfl
theorem fsub (f) : Statement (.fsub f) := of_lane 0x041 f _ rfl rfl (by decide) rfl
theorem fsubImmediate (f) : Statement (.fsubImmediate f) := of_imm 0x241 f _ rfl rfl (by decide) rfl
theorem fmul (f) : Statement (.fmul f) := of_lane 0x042 f _ rfl rfl (by decide) rfl
theorem fmulImmediate (f) : Statement (.fmulImmediate f) := of_imm 0x242 f _ rfl rfl (by decide) rfl
theorem fma (f) : Statement (.fma f) := of_lane 0x043 f _ rfl rfl (by decide) rfl
theorem fmin (f) : Statement (.fmin f) := of_lane 0x044 f _ rfl rfl (by decide) rfl
theorem fminImmediate (f) : Statement (.fminImmediate f) := of_imm 0x244 f _ rfl rfl (by decide) rfl
theorem fmax (f) : Statement (.fmax f) := of_lane 0x045 f _ rfl rfl (by decide) rfl
theorem fmaxImmediate (f) : Statement (.fmaxImmediate f) := of_imm 0x245 f _ rfl rfl (by decide) rfl
theorem fabs (f) : Statement (.fabs f) := of_lane 0x046 f _ rfl rfl (by decide) rfl
theorem fneg (f) : Statement (.fneg f) := of_lane 0x047 f _ rfl rfl (by decide) rfl
theorem frcp (f) : Statement (.frcp f) := of_lane 0x048 f _ rfl rfl (by decide) rfl
theorem frsq (f) : Statement (.frsq f) := of_lane 0x049 f _ rfl rfl (by decide) rfl
theorem fsqrt (f) : Statement (.fsqrt f) := of_lane 0x04A f _ rfl rfl (by decide) rfl
theorem fdiv (f) : Statement (.fdiv f) := of_lane 0x04B f _ rfl rfl (by decide) rfl
theorem fexp2 (f) : Statement (.fexp2 f) := of_lane 0x04C f _ rfl rfl (by decide) rfl
theorem flog2 (f) : Statement (.flog2 f) := of_lane 0x04D f _ rfl rfl (by decide) rfl
theorem fsin (f) : Statement (.fsin f) := of_lane 0x04E f _ rfl rfl (by decide) rfl
theorem fcos (f) : Statement (.fcos f) := of_lane 0x04F f _ rfl rfl (by decide) rfl
theorem fcmp (f) : Statement (.fcmp f) := of_lane 0x050 f _ rfl rfl (by decide) rfl
theorem fcmpImmediate (f) : Statement (.fcmpImmediate f) := of_imm 0x250 f _ rfl rfl (by decide) rfl
theorem fcls (f) : Statement (.fcls f) := of_lane 0x051 f _ rfl rfl (by decide) rfl
theorem frnd (f) : Statement (.frnd f) := of_lane 0x052 f _ rfl rfl (by decide) rfl
theorem fscale (f) : Statement (.fscale f) := of_lane 0x053 f _ rfl rfl (by decide) rfl
theorem cvt (f) : Statement (.cvt f) := of_lane 0x060 f _ rfl rfl (by decide) rfl
theorem pack (f) : Statement (.pack f) := of_lane 0x061 f _ rfl rfl (by decide) rfl
theorem unpack (f) : Statement (.unpack f) := of_lane 0x062 f _ rfl rfl (by decide) rfl
theorem cbdec (f) : Statement (.cbdec f) := of_lane 0x063 f _ rfl rfl (by decide) rfl
theorem tag (f) : Statement (.tag f) := of_lane 0x064 f _ rfl rfl (by decide) rfl
theorem tget (f) : Statement (.tget f) := of_lane 0x065 f _ rfl rfl (by decide) rfl
theorem mov (f) : Statement (.mov f) := of_lane 0x066 f _ rfl rfl (by decide) rfl
theorem movImmediate (f) : Statement (.movImmediate f) := of_imm 0x266 f _ rfl rfl (by decide) rfl
theorem ld (f) : Statement (.ld f) := of_lane 0x080 f _ rfl rfl (by decide) rfl
theorem ldImmediate (f) : Statement (.ldImmediate f) := of_imm 0x280 f _ rfl rfl (by decide) rfl
theorem st (f) : Statement (.st f) := of_lane 0x081 f _ rfl rfl (by decide) rfl
theorem stImmediate (f) : Statement (.stImmediate f) := of_imm 0x281 f _ rfl rfl (by decide) rfl
theorem lds (f) : Statement (.lds f) := of_lane 0x082 f _ rfl rfl (by decide) rfl
theorem ldsImmediate (f) : Statement (.ldsImmediate f) := of_imm 0x282 f _ rfl rfl (by decide) rfl
theorem sts (f) : Statement (.sts f) := of_lane 0x083 f _ rfl rfl (by decide) rfl
theorem stsImmediate (f) : Statement (.stsImmediate f) := of_imm 0x283 f _ rfl rfl (by decide) rfl
theorem ldm (f) : Statement (.ldm f) := of_lane 0x084 f _ rfl rfl (by decide) rfl
theorem stm (f) : Statement (.stm f) := of_lane 0x085 f _ rfl rfl (by decide) rfl
theorem prf (f) : Statement (.prf f) := of_lane 0x086 f _ rfl rfl (by decide) rfl
theorem prfImmediate (f) : Statement (.prfImmediate f) := of_imm 0x286 f _ rfl rfl (by decide) rfl
theorem atom (f) : Statement (.atom f) := of_lane 0x090 f _ rfl rfl (by decide) rfl
theorem ared (f) : Statement (.ared f) := of_lane 0x091 f _ rfl rfl (by decide) rfl
theorem atoms (f) : Statement (.atoms f) := of_lane 0x092 f _ rfl rfl (by decide) rfl
theorem mma (f) : Statement (.mma f) := of_lane 0x0A0 f _ rfl rfl (by decide) rfl
theorem mmas (f) : Statement (.mmas f) := of_lane 0x0A1 f _ rfl rfl (by decide) rfl
theorem accz (f) : Statement (.accz f) := of_lane 0x0A2 f _ rfl rfl (by decide) rfl
theorem accld (f) : Statement (.accld f) := of_lane 0x0A3 f _ rfl rfl (by decide) rfl
theorem accst (f) : Statement (.accst f) := of_lane 0x0A4 f _ rfl rfl (by decide) rfl
theorem acccvt (f) : Statement (.acccvt f) := of_lane 0x0A5 f _ rfl rfl (by decide) rfl
theorem accput (f) : Statement (.accput f) := of_lane 0x0A6 f _ rfl rfl (by decide) rfl
theorem siltGet (f) : Statement (.siltGet f) := of_lane 0x0A7 f _ rfl rfl (by decide) rfl
theorem tlbWalk (x0 x1) : Statement (.tlbWalk x0 x1) := of_none _ rfl
theorem leaseRecall (x0 x1) : Statement (.leaseRecall x0 x1) := of_none _ rfl
theorem collectiveFold (x0 x1 x2 x3) : Statement (.collectiveFold x0 x1 x2 x3) := of_none _ rfl
theorem drainSweep : Statement .drainSweep := of_none _ rfl
theorem gridBarrierArrival : Statement .gridBarrierArrival := of_none _ rfl
theorem gridBarrierRelease : Statement .gridBarrierRelease := of_none _ rfl
theorem teamEntry (x0 x1) : Statement (.teamEntry x0 x1) := of_none _ rfl
theorem stealRequest (x0 x1 x2) : Statement (.stealRequest x0 x1 x2) := of_none _ rfl
theorem stealAnswer (x0 x1 x2) : Statement (.stealAnswer x0 x1 x2) := of_none _ rfl
theorem probeMessage (x0) : Statement (.probeMessage x0) := of_none _ rfl
theorem put (x0) : Statement (.put x0) := of_none _ rfl
theorem getRequest (x0) : Statement (.getRequest x0) := of_none _ rfl
theorem getData (x0) : Statement (.getData x0) := of_none _ rfl
theorem atomic (x0) : Statement (.atomic x0) := of_none _ rfl
theorem atomicResult (x0) : Statement (.atomicResult x0) := of_none _ rfl
theorem collectiveChunk (x0) : Statement (.collectiveChunk x0) := of_none _ rfl
theorem semanticNack (x0) : Statement (.semanticNack x0) := of_none _ rfl
theorem acknowledgement (x0 x1) : Statement (.acknowledgement x0 x1) := of_none _ rfl
theorem unassignedOperation (x0) : Statement (.unassignedOperation x0) := of_none _ rfl
theorem linkLevelPause (x0 x1) : Statement (.linkLevelPause x0 x1) := of_none _ rfl
theorem retransmissionTimeout (x0 x1 x2) : Statement (.retransmissionTimeout x0 x1 x2) := of_none _ rfl
theorem llrReplay (x0 x1) : Statement (.llrReplay x0 x1) := of_none _ rfl
theorem laneLit (x0 x1) : Statement (.laneLit x0 x1) := of_none _ rfl
theorem linkControlFlit (x0 x1) : Statement (.linkControlFlit x0 x1) := of_none _ rfl
theorem stitchedLinkFailure (x0 x1 x2) : Statement (.stitchedLinkFailure x0 x1 x2) := of_none _ rfl
theorem linkTraining (x0 x1) : Statement (.linkTraining x0 x1) := of_none _ rfl
theorem topologyStepTimeout (x0 x1) : Statement (.topologyStepTimeout x0 x1) := of_none _ rfl
theorem beaconArrival (x0 x1) : Statement (.beaconArrival x0 x1) := of_none _ rfl
theorem softErrorCorrection (x0 x1) : Statement (.softErrorCorrection x0 x1) := of_none _ rfl
theorem uncorrectableError (x0) : Statement (.uncorrectableError x0) := of_none _ rfl
theorem loanRequest (x0 x1) : Statement (.loanRequest x0 x1) := of_none _ rfl
theorem loanRecall (x0 x1) : Statement (.loanRecall x0 x1) := of_none _ rfl
theorem capMsg (x0 x1) : Statement (.capMsg x0 x1) := of_none _ rfl
theorem capShareUpdate (x0 x1) : Statement (.capShareUpdate x0 x1) := of_none _ rfl
theorem clOpWrite (x0 x1 x2) : Statement (.clOpWrite x0 x1 x2) := of_none _ rfl
theorem routeTableEntryWrite (x0 x1 x2 x3) : Statement (.routeTableEntryWrite x0 x1 x2 x3) := of_none _ rfl
theorem lostLineEntryWrite (x0 x1 x2 x3) : Statement (.lostLineEntryWrite x0 x1 x2 x3) := of_none _ rfl
theorem coreWindowWrite (x0 x1 x2) : Statement (.coreWindowWrite x0 x1 x2) := of_none _ rfl
theorem registerWrite (x0 x1) : Statement (.registerWrite x0 x1) := of_none _ rfl
theorem partitionSetUp (x0 x1) : Statement (.partitionSetUp x0 x1) := of_none _ rfl
theorem partitionDissolve (x0 x1) : Statement (.partitionDissolve x0 x1) := of_none _ rfl
theorem regionRegister (x0 x1) : Statement (.regionRegister x0 x1) := of_none _ rfl
theorem regionDeregister (x0 x1) : Statement (.regionDeregister x0 x1) := of_none _ rfl
theorem tlbInvalidation (x0 x1) : Statement (.tlbInvalidation x0 x1) := of_none _ rfl
theorem topologyChange (x0 x1) : Statement (.topologyChange x0 x1) := of_none _ rfl
theorem retargetDone (x0 x1) : Statement (.retargetDone x0 x1) := of_none _ rfl
theorem preemptionRequest (x0 x1) : Statement (.preemptionRequest x0 x1) := of_none _ rfl
theorem preemptionWithdraw (x0 x1) : Statement (.preemptionWithdraw x0 x1) := of_none _ rfl
theorem preemptionEnd (x0 x1) : Statement (.preemptionEnd x0 x1) := of_none _ rfl
theorem preemptionRestart (x0 x1) : Statement (.preemptionRestart x0 x1) := of_none _ rfl
theorem waitCycleProbe (x0 x1) : Statement (.waitCycleProbe x0 x1) := of_none _ rfl
theorem warmStartStage (x0 x1) : Statement (.warmStartStage x0 x1) := of_none _ rfl
theorem warmStart (x0 x1 x2) : Statement (.warmStart x0 x1 x2) := of_none _ rfl
theorem coldStart (x0) : Statement (.coldStart x0) := of_none _ rfl
theorem attestation (x0 x1) : Statement (.attestation x0 x1) := of_none _ rfl
theorem waferId (x0 x1) : Statement (.waferId x0 x1) := of_none _ rfl
theorem unassignedCommand (x0 x1) : Statement (.unassignedCommand x0 x1) := of_none _ rfl
theorem illegalEncoding (x0) : Statement (.illegalEncoding x0) := of_none _ rfl
theorem packetDeliveryNack (x0 x1) : Statement (.packetDeliveryNack x0 x1) := of_none _ rfl
theorem broadcastBusWireFailure (x0 x1) : Statement (.broadcastBusWireFailure x0 x1) := of_none _ rfl
theorem managementWindowWrite (x0 x1 x2) : Statement (.managementWindowWrite x0 x1 x2) := of_none _ rfl
theorem yieldExpiry : Statement (.yieldExpiry) := of_none _ rfl
theorem waitConditionMet : Statement (.waitConditionMet) := of_none _ rfl
theorem gangRendezvous : Statement (.gangRendezvous) := of_none _ rfl
theorem matrixOperation : Statement (.matrixOperation) := of_none _ rfl
theorem parkEnd : Statement (.parkEnd) := of_none _ rfl
theorem trapEntry : Statement (.trapEntry) := of_none _ rfl
theorem jobForward : Statement (.jobForward) := of_none _ rfl
theorem segmentStart : Statement (.segmentStart) := of_none _ rfl
theorem landing : Statement (.landing) := of_none _ rfl
theorem jobCompletion : Statement (.jobCompletion) := of_none _ rfl
theorem groupEnd : Statement (.groupEnd) := of_none _ rfl
theorem teamEnd : Statement (.teamEnd) := of_none _ rfl
theorem launchRecordRead : Statement (.launchRecordRead) := of_none _ rfl
theorem admission : Statement (.admission) := of_none _ rfl
theorem reservation : Statement (.reservation) := of_none _ rfl
theorem reservationPreemption : Statement (.reservationPreemption) := of_none _ rfl
theorem preemptionRequestRepeat : Statement (.preemptionRequestRepeat) := of_none _ rfl
theorem concurrentHoldTimeout : Statement (.concurrentHoldTimeout) := of_none _ rfl
theorem idleCluster : Statement (.idleCluster) := of_none _ rfl
theorem stealBackoff : Statement (.stealBackoff) := of_none _ rfl
theorem eviction : Statement (.eviction) := of_none _ rfl
theorem preemptionOverdue : Statement (.preemptionOverdue) := of_none _ rfl
theorem reAdmission : Statement (.reAdmission) := of_none _ rfl
theorem abandonment : Statement (.abandonment) := of_none _ rfl
theorem waitCycleProbeStart : Statement (.waitCycleProbeStart) := of_none _ rfl
theorem keyDrained : Statement (.keyDrained) := of_none _ rfl
theorem loadSample : Statement (.loadSample) := of_none _ rfl
theorem linkSilenceTimeout : Statement (.linkSilenceTimeout) := of_none _ rfl
theorem laneDarkTimeout : Statement (.laneDarkTimeout) := of_none _ rfl
theorem laneWake : Statement (.laneWake) := of_none _ rfl
theorem laneWakeFailure : Statement (.laneWakeFailure) := of_none _ rfl
theorem regulatorFailure : Statement (.regulatorFailure) := of_none _ rfl
theorem portDrained : Statement (.portDrained) := of_none _ rfl
theorem laserOff : Statement (.laserOff) := of_none _ rfl
theorem laserWake : Statement (.laserWake) := of_none _ rfl
theorem slotStart : Statement (.slotStart) := of_none _ rfl
theorem slotEnd : Statement (.slotEnd) := of_none _ rfl
theorem housekeepingStepAbandon : Statement (.housekeepingStepAbandon) := of_none _ rfl
theorem linkPauseStart : Statement (.linkPauseStart) := of_none _ rfl
theorem linkPauseEnd : Statement (.linkPauseEnd) := of_none _ rfl
theorem beacon : Statement (.beacon) := of_none _ rfl
theorem scrub : Statement (.scrub) := of_none _ rfl
theorem gritDecay : Statement (.gritDecay) := of_none _ rfl
theorem stallSample : Statement (.stallSample) := of_none _ rfl
theorem islandGating : Statement (.islandGating) := of_none _ rfl
theorem voltageStep : Statement (.voltageStep) := of_none _ rfl
theorem clockRampStep : Statement (.clockRampStep) := of_none _ rfl
theorem operatingPointChangeComplete : Statement (.operatingPointChangeComplete) := of_none _ rfl
theorem regionLowering : Statement (.regionLowering) := of_none _ rfl
theorem ballastDecay : Statement (.ballastDecay) := of_none _ rfl
theorem debtCleared : Statement (.debtCleared) := of_none _ rfl
theorem leaseExpiry : Statement (.leaseExpiry) := of_none _ rfl
theorem linkRoleActive : Statement (.linkRoleActive) := of_none _ rfl
theorem linkRoleStandby : Statement (.linkRoleStandby) := of_none _ rfl
theorem linkRoleShared : Statement (.linkRoleShared) := of_none _ rfl
theorem accessPerformed : Statement (.accessPerformed) := of_none _ rfl

end Sys2Proof.Laws.Enc
end

