-- ==== Sys2Proof/Laws/Traps.lean ====
section
/-! SUPPORT. What entering a handler does: the split that continues there, and its frame (R350). -/

namespace Sys2Proof.Machine

set_option Elab.async false

variable {s : State} {y : Split} {x : Group}

/-- A split that is not in a handler and whose team's trap descriptor is sound continues at the handler, once the descriptor has been read. -/
theorem enterTrap_ok {c g p : Nat} {r : TrapRec} {h : Dword} (hx : s.group? c g = some x) (hy : s.split? c g p = some y)
    (hh : y.inHandler = false) (hd : s.handler c (s.team x.team).lrec.lbase = .ok h) :
    s.enterTrap c g p r = (s.readDescriptor c (s.team x.team).lrec.lbase).setSplit c g p (y.inTrap r h) := by
  simp only [State.enterTrap, hx, hy, hh, hd, Bool.false_eq_true, if_false]

theorem setSplit_me {z : Split} (hy : s.me? = some y) : s.setSplit s.cur.core s.cur.slot s.cur.split z = s.modMe fun _ => z := by
  unfold State.modMe State.modSplit; unfold State.me? at hy; rw [hy]

/-- The split of the step takes a trap at once where nothing keeps it waiting. -/
theorem raise_ok {r : TrapRec} {h : Dword} (hy : s.me? = some y) (hh : y.inHandler = false)
    (ho : s.trapWaits s.cur.core s.cur.slot s.cur.split = false) (hd : s.handler s.cur.core s.myTeam.lrec.lbase = .ok h) :
    s.raise r = (s.readDescriptor s.cur.core s.myTeam.lrec.lbase).setSplit s.cur.core s.cur.slot s.cur.split (y.inTrap r h) := by
  obtain ⟨x, gx, ex⟩ := group?_of_at hy
  have et : s.myTeam = s.team x.team := by unfold State.myTeam; rw [ex]
  unfold State.raise State.takeTrap
  rw [ho, enterTrap_ok gx (show s.split? s.cur.core s.cur.slot s.cur.split = some y from hy) hh (by rw [← et]; exact hd), et]
  rfl

/-- A fault of the control stream other than an access error, with the lane queue drained. -/
theorem raiseCtl_eq {f : Flt} (h : f.code ≠ 10) (hy : s.me? = some y) (hq : y.queue = []) :
    s.raiseCtl f = s.raise (f.record false false y.pc s.cur.insn) := by
  have e : s.me = y := me_of_me? _ hy
  simp only [State.raiseCtl, State.report, e, hq, List.isEmpty_nil, Bool.not_true, Bool.false_eq_true, if_false, ne_eq, h, not_false_eq_true, if_true]

/-- Entering a handler changes the condition codes, the loop stack, the lane queue and the trap state of the split. -/
theorem Kept.inTrap (hy : s.me? = some y) (r : TrapRec) (h : Dword) : Kept [] [.codes, .loops, .trap, .queue] s (s.modMe fun _ => y.inTrap r h) :=
  Kept.modMe _ hy _ (.inl (by simp)) (.inr rfl) (.inl (by simp)) (.inl (by simp)) (.inl (by simp)) (.inr rfl)

/-- A control instruction that ends at a fault. -/
theorem control_trap {m : Bool} {b : State → Act} {t : State} {f : Flt} (hy : s.me? = some y) (h : b s = .trap t f) :
    s.control m b = .next (t.raiseCtl f) := by simp [State.control, hy, h]

end Sys2Proof.Machine
end

