-- ==== Sys2Proof/Tests/Slice0.lean ====
section
/-! SUPPORT. Tests: what the static checks refuse, words written out from the layouts, and for every statement with hypotheses a state and operands that meet them. -/

namespace Sys2Proof.Tests

open Sys2Proof.Machine Sys2Proof.Claims
set_option linter.unusedSimpArgs false
set_option linter.unusedVariables false
set_option maxRecDepth 20000
set_option Elab.async false

/-- R138: what each check on a control word refuses. -/
theorem test_refused_control :
    Instr.wf (.bc false 11 0) = false ∧ Instr.wf (.usel false 11 0 0 false) = false ∧ Instr.wf (.call false 3 0) = false ∧
    Instr.wf (.ret false 5) = false ∧ Instr.wf (.loop false 0 0) = false ∧ Instr.wf (.lrun false 255 0x1FFFF) = false ∧
    Instr.wf (.rgn false 1 0 0 0 0) = false ∧ Instr.wf (.fence false 4 0 0) = false ∧ Instr.wf (.fence false 13 0 0) = false ∧
    Instr.wf (.barrive false 4 0 0) = false ∧ Instr.wf (.barrive false 1 0 254) = false ∧ Instr.wf (.bexpect false 12 0 0) = false ∧
    Instr.wf (.drain false 0 3) = false ∧ Instr.wf (.cpy false 0 0 0 4) = false ∧ Instr.wf (.gth false 0 1 3 0) = false ∧
    Instr.wf (.nget false 0 0 0 2) = false ∧ Instr.wf (.coll false 0 0 0 1) = false ∧ Instr.wf (.nswap false 0 0 2 0) = false := by decide

/-- R52, R130, R135, R138: what each check on the fields of a lane word refuses: an unused register, an odd pair or address, a mask or tile out of range, a run off its alignment, a modifier, an execution mask, a rounding mode, a format, an extension. -/
theorem test_refused_lane_fields :
    Instr.wf (.absL { b := 1, fmt := 1 }) = false ∧ Instr.wf (.fadd { d := 1, fmt := 4 }) = false ∧ Instr.wf (.ld { a := 3 }) = false ∧
    Instr.wf (.cmp { d := 16, fmt := 1 }) = false ∧ Instr.wf (.accz { d := 128, fmt := 1 }) = false ∧ Instr.wf (.mma { a := 4, fmt := 3, ext := 6 }) = false ∧
    Instr.wf (.add { fmt := 1, moda := 1 }) = false ∧ Instr.wf (.add { fmt := 1, modb := 0x41 }) = false ∧ Instr.wf (.add { fmt := 1, modb := 0x60 }) = false ∧
    Instr.wf (.add { fmt := 1, modc := 0x40 }) = false ∧ Instr.wf (.accld { moda := 0x21 }) = false ∧ Instr.wf (.accz { fmt := 1, mask := 1 }) = false ∧
    Instr.wf (.add { fmt := 1, rnd := 1 }) = false ∧ Instr.wf (.fadd { fmt := 3, rnd := 4 }) = false ∧ Instr.wf (.mma { fmt := 3, ext := 6, rnd := 2 }) = false ∧
    Instr.wf (.add { fmt := 3 }) = false ∧ Instr.wf (.add { fmt := 5 }) = false ∧ Instr.wf (.add { fmt := 1, ext := 2 }) = false ∧
    Instr.wf (.addImmediate { fmt := 1, modb := 0x40 }) = false ∧ Instr.wf (.addImmediate { fmt := 1, ext := 2 }) = false := by decide

/-- R136, R206, R213, R214, R223, R227, R229, R234, R241: what the checks of single instructions refuse. -/
theorem test_refused_lane_forms :
    Instr.wf (.shlImmediate { imm := 32 }) = false ∧ Instr.wf (.lscan { fmt := 3, ext := 3 }) = false ∧ Instr.wf (.lred { fmt := 1, rnd := 1 }) = false ∧
    Instr.wf (.pack { fmt := 10, rnd := 1 }) = false ∧ Instr.wf (.pack { fmt := 6, ext := 1 }) = false ∧ Instr.wf (.unpack { fmt := 7, ext := 2 }) = false ∧
    Instr.wf (.ld { ext := 3 }) = false ∧ Instr.wf (.ld { fmt := 3, ext := 1 }) = false ∧ Instr.wf (.ldm { ext := 0x20 }) = false ∧ Instr.wf (.ldm { fmt := 4 }) = false ∧
    Instr.wf (.atom { fmt := 3, ext := 3 }) = false ∧ Instr.wf (.atom { fmt := 1, ext := 0x30 }) = false ∧ Instr.wf (.ared { fmt := 1, ext := 6 }) = false ∧
    Instr.wf (.mma { fmt := 3, ext := 8 }) = false ∧ Instr.wf (.mma { fmt := 3, ext := 0x1B06 }) = false ∧ Instr.wf (.mmas { fmt := 8, ext := 0x30 }) = false ∧
    Instr.wf (.mma { fmt := 10, ext := 20, rnd := 1 }) = false ∧ Instr.wf (.accst { ext := 1 }) = false ∧
    Instr.wf (.ballot { moda := 64 }) = false ∧ Instr.wf (.cvt { a := 1, fmt := 4 }) = false := by decide

/-- R138: words whose opcode or sub-opcode is unassigned, or whose unused field is not 0. -/
theorem test_refused_words :
    decodeTableWord 32 0x00000000 = none ∧ decodeTableWord 32 0x2E000001 = some (.usra false 0 0 0 true) ∧ decodeTableWord 32 0x16C00000 = none ∧ decodeTableWord 32 0x7D200000 = none ∧
    decodeTableWord 32 0x62600000 = none ∧ decodeTableWord 32 0x02200000 = none ∧ decodeTableWord 32 0x54000001 = none ∧ decodeTableWord 32 0x7E000000 = none ∧
    decodeTableWord 96 (0x016 * 2 ^ 85) = none ∧ decodeTableWord 96 (0x203 * 2 ^ 85 + 2 ^ 20) = none ∧ decodeTableWord 96 (0x3FF * 2 ^ 85) = none ∧ decodeTableWord 64 0 = none := by decide
/-- R129 to R137: words of the control stream written out from the layouts, b to nop. -/
theorem test_decode_control_1 :
    decodeTableWord 32 0x82012345 = some (.b true 74565) ∧
    decodeTableWord 32 0x84C12345 = some (.bc true 6 74565) ∧
    decodeTableWord 32 0x87212345 = some (.bmz true 9 74565) ∧
    decodeTableWord 32 0x89212345 = some (.bma true 9 74565) ∧
    decodeTableWord 32 0x8AB5ABCD = some (.call true 90 109517) ∧
    decodeTableWord 32 0x8C006C00 = some (.ret true 54) ∧
    decodeTableWord 32 0x8E006DA5 = some (.loop true 54 421) ∧
    decodeTableWord 32 0x91212345 = some (.split true 9 74565) ∧
    decodeTableWord 32 0x930BABCD = some (.lrun true 133 109517) ∧
    decodeTableWord 32 0x94012345 = some (.yld true 74565) ∧
    decodeTableWord 32 0x96000000 = some (.nop true) := by decide

/-- R129 to R137: words of the control stream written out from the layouts, exit to ushl. -/
theorem test_decode_control_2 :
    decodeTableWord 32 0x96200000 = some (.exit true) ∧
    decodeTableWord 32 0x96400000 = some (.merge true) ∧
    decodeTableWord 32 0x96600000 = some (.lbrk true) ∧
    decodeTableWord 32 0x96800000 = some (.eret true) ∧
    decodeTableWord 32 0x96A00000 = some (.mmafence true) ∧
    decodeTableWord 32 0xA0B46C59 = some (.uadd true 90 54 44 true) ∧
    decodeTableWord 32 0xA2B46C59 = some (.usub true 90 54 44 true) ∧
    decodeTableWord 32 0xA4B46C59 = some (.umul true 90 54 44 true) ∧
    decodeTableWord 32 0xA6B46C59 = some (.umulh true 90 54 44 true) ∧
    decodeTableWord 32 0xA8B46C59 = some (.umad true 90 54 44 true) ∧
    decodeTableWord 32 0xAAB46C59 = some (.ushl true 90 54 44 true) := by decide

/-- R129 to R137: words of the control stream written out from the layouts, ushr to usel. -/
theorem test_decode_control_3 :
    decodeTableWord 32 0xACB46C59 = some (.ushr true 90 54 44 true) ∧
    decodeTableWord 32 0xAEB46C59 = some (.usra true 90 54 44 true) ∧
    decodeTableWord 32 0xB0B46C59 = some (.uand true 90 54 44 true) ∧
    decodeTableWord 32 0xB2B46C59 = some (.uor true 90 54 44 true) ∧
    decodeTableWord 32 0xB4B46C59 = some (.uxor true 90 54 44 true) ∧
    decodeTableWord 32 0xB6B46C59 = some (.umin true 90 54 44 true) ∧
    decodeTableWord 32 0xB8B46C59 = some (.umax true 90 54 44 true) ∧
    decodeTableWord 32 0xBA006C59 = some (.ucmp true 54 44 true) ∧
    decodeTableWord 32 0xBCB40059 = some (.umov true 90 44 true) ∧
    decodeTableWord 32 0xBEB46C59 = some (.uaff true 90 54 44 true) ∧
    decodeTableWord 32 0xC0C6C581 = some (.usel true 6 54 44 true) := by decide

/-- R129 to R137: words of the control stream written out from the layouts, ulim to wait bar. -/
theorem test_decode_control_4 :
    decodeTableWord 32 0xC2B53456 = some (.ulim true 90 78934) ∧
    decodeTableWord 32 0xC4B49ABC = some (.ulih true 90 39612) ∧
    decodeTableWord 32 0xD0B401A5 = some (.sget true 90 421) ∧
    decodeTableWord 32 0xD2006DA5 = some (.sput true 54 421) ∧
    decodeTableWord 32 0xD4117A3E = some (.rgn true 1 2 30 17 15) ∧
    decodeTableWord 32 0xD60001A5 = some (.trap true 421) ∧
    decodeTableWord 32 0xD8B40000 = some (.slotq true 90) ∧
    decodeTableWord 32 0xDAB46C00 = some (.opreq true 90 54) ∧
    decodeTableWord 32 0xDCB46C59 = some (.spawn true 90 54 44 true) ∧
    decodeTableWord 32 0xE0E6C580 = some (.fence true 7 54 44) ∧
    decodeTableWord 32 0xE206C580 = some (.waitBar true 54 44) := by decide

/-- R129 to R137: words of the control stream written out from the layouts, wait batch to silt clr. -/
theorem test_decode_control_5 :
    decodeTableWord 32 0xE226C000 = some (.waitBatch true 54) ∧
    decodeTableWord 32 0xE246C000 = some (.waitTok true 54) ∧
    decodeTableWord 32 0xE4006C59 = some (.binit true 54 44 true) ∧
    decodeTableWord 32 0xE6A6C580 = some (.barrive true 5 54 44) ∧
    decodeTableWord 32 0xE946C580 = some (.bexpect true 10 54 44) ∧
    decodeTableWord 32 0xEA006C00 = some (.gbar true 54) ∧
    decodeTableWord 32 0xEC006C58 = some (.drain true 54 44) ∧
    decodeTableWord 32 0xF0006C59 = some (.gang true 54 44 true) ∧
    decodeTableWord 32 0xF20A6C00 = some (.cbld true 5 54) ∧
    decodeTableWord 32 0xF4AA0059 = some (.siltThr true 85 44 true) ∧
    decodeTableWord 32 0xF6AA0000 = some (.siltClr true 85) := by decide

/-- R129 to R137: words of the control stream written out from the layouts, widepool to l1ways. -/
theorem test_decode_control_6 :
    decodeTableWord 32 0xF8B40000 = some (.widepool true 90) ∧
    decodeTableWord 32 0xFC06C58B = some (.cpy true 54 44 1 3) ∧
    decodeTableWord 32 0xFC26C58B = some (.gth true 54 44 1 3) ∧
    decodeTableWord 32 0xFC46C58B = some (.sct true 54 44 1 3) ∧
    decodeTableWord 32 0xFC66C58B = some (.nput true 54 44 1 3) ∧
    decodeTableWord 32 0xFC86C589 = some (.nget true 54 44 1 1) ∧
    decodeTableWord 32 0xFCA6C589 = some (.natom true 54 44 1 1) ∧
    decodeTableWord 32 0xFCC6C588 = some (.coll true 54 44 1 0) ∧
    decodeTableWord 32 0xFCE6C588 = some (.nswap true 54 44 1 0) ∧
    decodeTableWord 32 0xFD000589 = some (.l1ways true 44 1 1) := by decide

/-- R129 to R137: words of the lane stream written out from the layouts, add to max. -/
theorem test_decode_lane_1 :
    decodeTableWord 96 0x800B46C58007019800A00001 = some (.add { p := true, d := 90, a := 54, b := 44, mask := 3, moda := 64, modb := 51, fmt := 10, ext := 1 }) ∧
    decodeTableWord 96 0xC00B46D00007000000A00131 = some (.addImmediate { p := true, d := 90, a := 54, mask := 3, moda := 64, fmt := 10, imm := 2147483667, ext := 1 }) ∧
    decodeTableWord 96 0x802B46C58007019800A00001 = some (.sub { p := true, d := 90, a := 54, b := 44, mask := 3, moda := 64, modb := 51, fmt := 10, ext := 1 }) ∧
    decodeTableWord 96 0xC02B46D00007000000A00131 = some (.subImmediate { p := true, d := 90, a := 54, mask := 3, moda := 64, fmt := 10, imm := 2147483667, ext := 1 }) ∧
    decodeTableWord 96 0x804B46C58007019800100000 = some (.mul { p := true, d := 90, a := 54, b := 44, mask := 3, moda := 64, modb := 51, fmt := 1 }) ∧
    decodeTableWord 96 0xC04B46D00007000000100130 = some (.mulImmediate { p := true, d := 90, a := 54, mask := 3, moda := 64, fmt := 1, imm := 2147483667 }) ∧
    decodeTableWord 96 0x806B46C58007019800100000 = some (.mulhi { p := true, d := 90, a := 54, b := 44, mask := 3, moda := 64, modb := 51, fmt := 1 }) ∧
    decodeTableWord 96 0x808B46C583C7019A00200000 = some (.mad { p := true, d := 90, a := 54, b := 44, c := 30, mask := 3, moda := 64, modb := 51, modc := 32, fmt := 2 }) ∧
    decodeTableWord 96 0x80AB46C58007019800B00000 = some (.minL { p := true, d := 90, a := 54, b := 44, mask := 3, moda := 64, modb := 51, fmt := 11 }) ∧
    decodeTableWord 96 0xC0AB46D00007000000B00130 = some (.minImmediate { p := true, d := 90, a := 54, mask := 3, moda := 64, fmt := 11, imm := 2147483667 }) ∧
    decodeTableWord 96 0x80CB46C58007019800B00000 = some (.maxL { p := true, d := 90, a := 54, b := 44, mask := 3, moda := 64, modb := 51, fmt := 11 }) := by decide

/-- R129 to R137: words of the lane stream written out from the layouts, max immediate to shl. -/
theorem test_decode_lane_2 :
    decodeTableWord 96 0xC0CB46D00007000000B00130 = some (.maxImmediate { p := true, d := 90, a := 54, mask := 3, moda := 64, fmt := 11, imm := 2147483667 }) ∧
    decodeTableWord 96 0x80EB46C00007000000A00001 = some (.absL { p := true, d := 90, a := 54, mask := 3, moda := 64, fmt := 10, ext := 1 }) ∧
    decodeTableWord 96 0x810B46C00007000000A00001 = some (.neg { p := true, d := 90, a := 54, mask := 3, moda := 64, fmt := 10, ext := 1 }) ∧
    decodeTableWord 96 0x812B46C58007019800000000 = some (.andL { p := true, d := 90, a := 54, b := 44, mask := 3, moda := 64, modb := 51 }) ∧
    decodeTableWord 96 0xC12B46D00007000000000130 = some (.andImmediate { p := true, d := 90, a := 54, mask := 3, moda := 64, imm := 2147483667 }) ∧
    decodeTableWord 96 0x814B46C58007019800000000 = some (.orL { p := true, d := 90, a := 54, b := 44, mask := 3, moda := 64, modb := 51 }) ∧
    decodeTableWord 96 0xC14B46D00007000000000130 = some (.orImmediate { p := true, d := 90, a := 54, mask := 3, moda := 64, imm := 2147483667 }) ∧
    decodeTableWord 96 0x816B46C58007019800000000 = some (.xor { p := true, d := 90, a := 54, b := 44, mask := 3, moda := 64, modb := 51 }) ∧
    decodeTableWord 96 0xC16B46D00007000000000130 = some (.xorImmediate { p := true, d := 90, a := 54, mask := 3, moda := 64, imm := 2147483667 }) ∧
    decodeTableWord 96 0x818B46C00007000000000000 = some (.notL { p := true, d := 90, a := 54, mask := 3, moda := 64 }) ∧
    decodeTableWord 96 0x81AB46C58007019800000000 = some (.shl { p := true, d := 90, a := 54, b := 44, mask := 3, moda := 64, modb := 51 }) := by decide

/-- R129 to R137: words of the lane stream written out from the layouts, shl immediate to bfe. -/
theorem test_decode_lane_3 :
    decodeTableWord 96 0xC1AB46C00007000000000130 = some (.shlImmediate { p := true, d := 90, a := 54, mask := 3, moda := 64, imm := 19 }) ∧
    decodeTableWord 96 0x81CB46C58007019800000000 = some (.shr { p := true, d := 90, a := 54, b := 44, mask := 3, moda := 64, modb := 51 }) ∧
    decodeTableWord 96 0xC1CB46C00007000000000130 = some (.shrImmediate { p := true, d := 90, a := 54, mask := 3, moda := 64, imm := 19 }) ∧
    decodeTableWord 96 0x81EB46C58007019800000000 = some (.sra { p := true, d := 90, a := 54, b := 44, mask := 3, moda := 64, modb := 51 }) ∧
    decodeTableWord 96 0xC1EB46C00007000000000130 = some (.sraImmediate { p := true, d := 90, a := 54, mask := 3, moda := 64, imm := 19 }) ∧
    decodeTableWord 96 0x820B46C58007019800000000 = some (.rot { p := true, d := 90, a := 54, b := 44, mask := 3, moda := 64, modb := 51 }) ∧
    decodeTableWord 96 0xC20B46C00007000000000130 = some (.rotImmediate { p := true, d := 90, a := 54, mask := 3, moda := 64, imm := 19 }) ∧
    decodeTableWord 96 0x822B46C00007000000000000 = some (.popc { p := true, d := 90, a := 54, mask := 3, moda := 64 }) ∧
    decodeTableWord 96 0x824B46C00007000000000000 = some (.clz { p := true, d := 90, a := 54, mask := 3, moda := 64 }) ∧
    decodeTableWord 96 0x826B46C00007000000000000 = some (.brev { p := true, d := 90, a := 54, mask := 3, moda := 64 }) ∧
    decodeTableWord 96 0x828B46C583C7019A00200000 = some (.bfe { p := true, d := 90, a := 54, b := 44, c := 30, mask := 3, moda := 64, modb := 51, modc := 32, fmt := 2 }) := by decide

/-- R129 to R137: words of the lane stream written out from the layouts, bfi to mprefix. -/
theorem test_decode_lane_4 :
    decodeTableWord 96 0x82AB46C583C7019A00200000 = some (.bfi { p := true, d := 90, a := 54, b := 44, c := 30, mask := 3, moda := 64, modb := 51, modc := 32, fmt := 2 }) ∧
    decodeTableWord 96 0x840166C5800701980020000A = some (.cmp { p := true, d := 11, a := 54, b := 44, mask := 3, moda := 64, modb := 51, fmt := 2, ext := 10 }) ∧
    decodeTableWord 96 0xC40166D0000700000020013A = some (.cmpImmediate { p := true, d := 11, a := 54, mask := 3, moda := 64, fmt := 2, imm := 2147483667, ext := 10 }) ∧
    decodeTableWord 96 0x842B46C581A7019800400000 = some (.sel { p := true, d := 90, a := 54, b := 44, c := 13, mask := 3, moda := 64, modb := 51, fmt := 4 }) ∧
    decodeTableWord 96 0x84416181A004000000000000 = some (.mand { p := true, d := 11, a := 12, b := 13, mask := 2 }) ∧
    decodeTableWord 96 0x84616181A004000000000000 = some (.mor { p := true, d := 11, a := 12, b := 13, mask := 2 }) ∧
    decodeTableWord 96 0x84816181A004000000000000 = some (.mxor { p := true, d := 11, a := 12, b := 13, mask := 2 }) ∧
    decodeTableWord 96 0x84A161800004000000000000 = some (.mnot { p := true, d := 11, a := 12, mask := 2 }) ∧
    decodeTableWord 96 0x84C166C00006000000000000 = some (.ballot { p := true, d := 11, a := 54, mask := 3 }) ∧
    decodeTableWord 96 0x84EB41800004000000000000 = some (.mcount { p := true, d := 90, a := 12, mask := 2 }) ∧
    decodeTableWord 96 0x850B41800004000000000000 = some (.mprefix { p := true, d := 90, a := 12, mask := 2 }) := by decide

/-- R129 to R137: words of the lane stream written out from the layouts, shfl to fadd immediate. -/
theorem test_decode_lane_5 :
    decodeTableWord 96 0x860B46C58007019800000000 = some (.shfl { p := true, d := 90, a := 54, b := 44, mask := 3, moda := 64, modb := 51 }) ∧
    decodeTableWord 96 0x862B46C0000700000000001F = some (.shup { p := true, d := 90, a := 54, mask := 3, moda := 64, ext := 31 }) ∧
    decodeTableWord 96 0x864B46C0000700000000001F = some (.shdn { p := true, d := 90, a := 54, mask := 3, moda := 64, ext := 31 }) ∧
    decodeTableWord 96 0x866B46C0000700000000001F = some (.shxor { p := true, d := 90, a := 54, mask := 3, moda := 64, ext := 31 }) ∧
    decodeTableWord 96 0x868B46C58007019800000080 = some (.shcat { p := true, d := 90, a := 54, b := 44, mask := 3, moda := 64, modb := 51, ext := 128 }) ∧
    decodeTableWord 96 0x86AB46C583C7019A00000000 = some (.prm { p := true, d := 90, a := 54, b := 44, c := 30, mask := 3, moda := 64, modb := 51, modc := 32 }) ∧
    decodeTableWord 96 0x86CB46C58007019800000001 = some (.lut16 { p := true, d := 90, a := 54, b := 44, mask := 3, moda := 64, modb := 51, ext := 1 }) ∧
    decodeTableWord 96 0x86EB46C00007000000100005 = some (.lscan { p := true, d := 90, a := 54, mask := 3, moda := 64, fmt := 1, ext := 5 }) ∧
    decodeTableWord 96 0x870B46C00007000004300000 = some (.lred { p := true, d := 90, a := 54, mask := 3, moda := 64, rnd := 2, fmt := 3 }) ∧
    decodeTableWord 96 0x880B46C58007019806400000 = some (.fadd { p := true, d := 90, a := 54, b := 44, mask := 3, moda := 64, modb := 51, rnd := 3, fmt := 4 }) ∧
    decodeTableWord 96 0xC80B46D00007000006300130 = some (.faddImmediate { p := true, d := 90, a := 54, mask := 3, moda := 64, rnd := 3, fmt := 3, imm := 2147483667 }) := by decide

/-- R129 to R137: words of the lane stream written out from the layouts, fsub to fneg. -/
theorem test_decode_lane_6 :
    decodeTableWord 96 0x882B46C58007019806400000 = some (.fsub { p := true, d := 90, a := 54, b := 44, mask := 3, moda := 64, modb := 51, rnd := 3, fmt := 4 }) ∧
    decodeTableWord 96 0xC82B46D00007000006300130 = some (.fsubImmediate { p := true, d := 90, a := 54, mask := 3, moda := 64, rnd := 3, fmt := 3, imm := 2147483667 }) ∧
    decodeTableWord 96 0x884B46C58007019806400000 = some (.fmul { p := true, d := 90, a := 54, b := 44, mask := 3, moda := 64, modb := 51, rnd := 3, fmt := 4 }) ∧
    decodeTableWord 96 0xC84B46D00007000006300130 = some (.fmulImmediate { p := true, d := 90, a := 54, mask := 3, moda := 64, rnd := 3, fmt := 3, imm := 2147483667 }) ∧
    decodeTableWord 96 0x886B46C583C7019A02600000 = some (.fma { p := true, d := 90, a := 54, b := 44, c := 30, mask := 3, moda := 64, modb := 51, modc := 32, rnd := 1, fmt := 6 }) ∧
    decodeTableWord 96 0x888B46C58007019800700000 = some (.fmin { p := true, d := 90, a := 54, b := 44, mask := 3, moda := 64, modb := 51, fmt := 7 }) ∧
    decodeTableWord 96 0xC88B46D00007000000700130 = some (.fminImmediate { p := true, d := 90, a := 54, mask := 3, moda := 64, fmt := 7, imm := 2147483667 }) ∧
    decodeTableWord 96 0x88AB46C58007019800700000 = some (.fmax { p := true, d := 90, a := 54, b := 44, mask := 3, moda := 64, modb := 51, fmt := 7 }) ∧
    decodeTableWord 96 0xC8AB46D00007000000700130 = some (.fmaxImmediate { p := true, d := 90, a := 54, mask := 3, moda := 64, fmt := 7, imm := 2147483667 }) ∧
    decodeTableWord 96 0x88CB46C00007000000400000 = some (.fabs { p := true, d := 90, a := 54, mask := 3, moda := 64, fmt := 4 }) ∧
    decodeTableWord 96 0x88EB46C00007000000400000 = some (.fneg { p := true, d := 90, a := 54, mask := 3, moda := 64, fmt := 4 }) := by decide

/-- R129 to R137: words of the lane stream written out from the layouts, frcp to fcls. -/
theorem test_decode_lane_7 :
    decodeTableWord 96 0x890B46C00007000000300000 = some (.frcp { p := true, d := 90, a := 54, mask := 3, moda := 64, fmt := 3 }) ∧
    decodeTableWord 96 0x892B46C00007000000300000 = some (.frsq { p := true, d := 90, a := 54, mask := 3, moda := 64, fmt := 3 }) ∧
    decodeTableWord 96 0x894B46C00007000002400000 = some (.fsqrt { p := true, d := 90, a := 54, mask := 3, moda := 64, rnd := 1, fmt := 4 }) ∧
    decodeTableWord 96 0x896B46C58007019806400000 = some (.fdiv { p := true, d := 90, a := 54, b := 44, mask := 3, moda := 64, modb := 51, rnd := 3, fmt := 4 }) ∧
    decodeTableWord 96 0x898B46C00007000000300000 = some (.fexp2 { p := true, d := 90, a := 54, mask := 3, moda := 64, fmt := 3 }) ∧
    decodeTableWord 96 0x89AB46C00007000000300000 = some (.flog2 { p := true, d := 90, a := 54, mask := 3, moda := 64, fmt := 3 }) ∧
    decodeTableWord 96 0x89CB46C00007000000300000 = some (.fsin { p := true, d := 90, a := 54, mask := 3, moda := 64, fmt := 3 }) ∧
    decodeTableWord 96 0x89EB46C00007000000300000 = some (.fcos { p := true, d := 90, a := 54, mask := 3, moda := 64, fmt := 3 }) ∧
    decodeTableWord 96 0x8A0166C58007019800300007 = some (.fcmp { p := true, d := 11, a := 54, b := 44, mask := 3, moda := 64, modb := 51, fmt := 3, ext := 7 }) ∧
    decodeTableWord 96 0xCA0166D00007000000300137 = some (.fcmpImmediate { p := true, d := 11, a := 54, mask := 3, moda := 64, fmt := 3, imm := 2147483667, ext := 7 }) ∧
    decodeTableWord 96 0x8A2166C00007000000400155 = some (.fcls { p := true, d := 11, a := 54, mask := 3, moda := 64, fmt := 4, ext := 341 }) := by decide

/-- R129 to R137: words of the lane stream written out from the layouts, frnd to ld. -/
theorem test_decode_lane_8 :
    decodeTableWord 96 0x8A4B46C00007000004600000 = some (.frnd { p := true, d := 90, a := 54, mask := 3, moda := 64, rnd := 2, fmt := 6 }) ∧
    decodeTableWord 96 0x8A6B46C58007019806700000 = some (.fscale { p := true, d := 90, a := 54, b := 44, mask := 3, moda := 64, modb := 51, rnd := 3, fmt := 7 }) ∧
    decodeTableWord 96 0x8C0B46C00007000004400000 = some (.cvt { p := true, d := 90, a := 54, mask := 3, moda := 64, rnd := 2, fmt := 4 }) ∧
    decodeTableWord 96 0x8C2B46C58007019800B00001 = some (.pack { p := true, d := 90, a := 54, b := 44, mask := 3, moda := 64, modb := 51, fmt := 11, ext := 1 }) ∧
    decodeTableWord 96 0x8C4B46C00007000000300003 = some (.unpack { p := true, d := 90, a := 54, mask := 3, moda := 64, fmt := 3, ext := 3 }) ∧
    decodeTableWord 96 0x8C6B46C00007000000600002 = some (.cbdec { p := true, d := 90, a := 54, mask := 3, moda := 64, fmt := 6, ext := 2 }) ∧
    decodeTableWord 96 0x8C8B40000006000000C00005 = some (.tag { p := true, d := 90, mask := 3, fmt := 12, ext := 5 }) ∧
    decodeTableWord 96 0x8CAB46C00006000000000000 = some (.tget { p := true, d := 90, a := 54, mask := 3 }) ∧
    decodeTableWord 96 0x8CCB46C00007000000400000 = some (.mov { p := true, d := 90, a := 54, mask := 3, moda := 64, fmt := 4 }) ∧
    decodeTableWord 96 0xCCCB40100006000000D00130 = some (.movImmediate { p := true, d := 90, mask := 3, fmt := 13, imm := 2147483667 }) ∧
    decodeTableWord 96 0x900B46C58007019800100002 = some (.ld { p := true, d := 90, a := 54, b := 44, mask := 3, moda := 64, modb := 51, fmt := 1, ext := 2 }) := by decide

/-- R129 to R137: words of the lane stream written out from the layouts, ld immediate to prf immediate. -/
theorem test_decode_lane_9 :
    decodeTableWord 96 0xD00B46D00007000000100132 = some (.ldImmediate { p := true, d := 90, a := 54, mask := 3, moda := 64, fmt := 1, imm := 2147483667, ext := 2 }) ∧
    decodeTableWord 96 0x902006C583C7019A00400000 = some (.st { p := true, a := 54, b := 44, c := 30, mask := 3, moda := 64, modb := 51, modc := 32, fmt := 4 }) ∧
    decodeTableWord 96 0xD02B46D00007000000400130 = some (.stImmediate { p := true, d := 90, a := 54, mask := 3, moda := 64, fmt := 4, imm := 2147483667 }) ∧
    decodeTableWord 96 0x904B46C58007019800100002 = some (.lds { p := true, d := 90, a := 54, b := 44, mask := 3, moda := 64, modb := 51, fmt := 1, ext := 2 }) ∧
    decodeTableWord 96 0xD04B46D00007000000100132 = some (.ldsImmediate { p := true, d := 90, a := 54, mask := 3, moda := 64, fmt := 1, imm := 2147483667, ext := 2 }) ∧
    decodeTableWord 96 0x906006C583C7019A00400000 = some (.sts { p := true, a := 54, b := 44, c := 30, mask := 3, moda := 64, modb := 51, modc := 32, fmt := 4 }) ∧
    decodeTableWord 96 0xD06B46D00007000000400130 = some (.stsImmediate { p := true, d := 90, a := 54, mask := 3, moda := 64, fmt := 4, imm := 2147483667 }) ∧
    decodeTableWord 96 0x908B46C58007019800300107 = some (.ldm { p := true, d := 90, a := 54, b := 44, mask := 3, moda := 64, modb := 51, fmt := 3, ext := 263 }) ∧
    decodeTableWord 96 0x90A006C583C7019A0040011F = some (.stm { p := true, a := 54, b := 44, c := 30, mask := 3, moda := 64, modb := 51, modc := 32, fmt := 4, ext := 287 }) ∧
    decodeTableWord 96 0x90C006C58007019800000001 = some (.prf { p := true, a := 54, b := 44, mask := 3, moda := 64, modb := 51, ext := 1 }) ∧
    decodeTableWord 96 0xD0C006D00007000000000131 = some (.prfImmediate { p := true, a := 54, mask := 3, moda := 64, imm := 2147483667, ext := 1 }) := by decide

/-- R129 to R137: words of the lane stream written out from the layouts, atom to silt get. -/
theorem test_decode_lane_10 :
    decodeTableWord 96 0x920B46C583C70198001000E7 = some (.atom { p := true, d := 90, a := 54, b := 44, c := 30, mask := 3, moda := 64, modb := 51, fmt := 1, ext := 231 }) ∧
    decodeTableWord 96 0x922006C583C7019800300060 = some (.ared { p := true, a := 54, b := 44, c := 30, mask := 3, moda := 64, modb := 51, fmt := 3, ext := 96 }) ∧
    decodeTableWord 96 0x924B46C583C7019800200005 = some (.atoms { p := true, d := 90, a := 54, b := 44, c := 30, mask := 3, moda := 64, modb := 51, fmt := 2, ext := 5 }) ∧
    decodeTableWord 96 0x940AA705800002000260000D = some (.mma { p := true, d := 85, a := 56, b := 44, modb := 64, rnd := 1, fmt := 6, ext := 13 }) ∧
    decodeTableWord 96 0x942AA70583C00200008043B9 = some (.mmas { p := true, d := 85, a := 56, b := 44, c := 30, modb := 64, fmt := 8, ext := 17337 }) ∧
    decodeTableWord 96 0x944AA0000000000000400000 = some (.accz { p := true, d := 85, fmt := 4 }) ∧
    decodeTableWord 96 0x946AA6C58001020000000007 = some (.accld { p := true, d := 85, a := 54, b := 44, moda := 64, modb := 64, ext := 7 }) ∧
    decodeTableWord 96 0x948AA6C58001000000000004 = some (.accst { p := true, d := 85, a := 54, b := 44, moda := 64, ext := 4 }) ∧
    decodeTableWord 96 0x94AAA70003C0000004800000 = some (.acccvt { p := true, d := 85, a := 56, c := 30, rnd := 2, fmt := 8 }) ∧
    decodeTableWord 96 0x94CAA70003C0000000100000 = some (.accput { p := true, d := 85, a := 56, c := 30, fmt := 1 }) ∧
    decodeTableWord 96 0x94EB40000AA0000000000001 = some (.siltGet { p := true, d := 90, c := 85, ext := 1 }) := by decide
/-! ### Small states -/

/-- A split at its first instruction, with every lane active. -/
def split0 : Split := { pc := 0x10000, active := 0xFFFFFFFF }

/-- A team of one group whose handler stands at 0x18000, resident on core 0. -/
def team0 : Team := { stage := .resident, lrec := { grid := 1, roles := [0x00000101], scratch := 8, nx := 1, ny := 1, nz := 1, count := 1, entry := 0x10000, lbase := 0x20000 } }

/-- The group of that team, with every register of the file in its budget. -/
def group0 : Group := { team := 1, regN := 256, accN := 64, poolN := 4 }

/-- Core 0 with one group of one split, in a page that its TLB maps; the handler's descriptor lies below the lane section (R350). -/
def st (y : Split := split0) (f : Group → Group := id) (h : Team → Team := id) (k : Core → Core := id) (r : Reticle → Reticle := id) : State :=
  { State.reset with
    cur := { team := 1 }, inbox := []
    mem := [(0x1FFF1, 0x80), (0x1FFF2, 1), (0x1FFF7, 0x80)]
    cores := [(0, k { groups := [(0, f { group0 with splits := [(0, y)] })], tlb := [{ vpage := 0, big := true, pte := 0x3B }] })]
    rets := [(0, r { live := true, xlatRoot := 1, part := some {} })]
    teams := [(1, h team0)] }

/-- The same with one register written. -/
def withReg (i : Nat) (g : GReg) (k : Core) : Core := k.setReg i g

/-- What a list's elements all meet, by going through the list. -/
theorem every {α : Type} {l : List α} {p : α → Prop} [DecidablePred p] (h : l.all (fun x => decide (p x)) = true) : ∀ x ∈ l, p x := by simpa using h

/-- What the default and every entry of a table meet, its every lookup meets. -/
theorem lookup {α : Type} {p : α → Prop} {d : α} (hd : p d) : ∀ {l : List (Nat × α)}, (∀ e ∈ l, p e.2) → ∀ i, p (tget d l i)
  | [], _, _ => hd
  | (k, v) :: l, h, i => by
    unfold tget
    split
    · exact h (k, v) (List.mem_cons_self ..)
    · exact lookup hd (fun e m => h e (List.mem_cons_of_mem _ m)) i

/-- No line is leased, by going through the slices. -/
theorem unleased_of {s : State} (h : s.rets.all (fun r => r.2.slices.all fun g => g.2.lines.all fun l => decide (l.2.lessee = none)) = true) : unleased s := by
  intro fa
  unfold State.lineTag
  split
  · simp only [List.all_eq_true, decide_eq_true_eq] at h
    exact lookup (p := fun t : SliceTag => t.lessee = none) rfl (lookup (p := fun g : Slice => ∀ l ∈ g.lines, l.2.lessee = none) (by simp)
      (lookup (p := fun r : Reticle => ∀ g ∈ r.slices, ∀ l ∈ g.2.lines, l.2.lessee = none) (by simp) h _) _) _
  · rfl

/-- Bytes that are plain, by going through them. -/
theorem plain {s : State} {a n : Nat} (u : s.rets.all (fun r => r.2.slices.all fun g => g.2.lines.all fun l => decide (l.2.lessee = none)) = true)
    (h : (List.range n).all (fun i => decide (s.target (a + i) = .dram) && decide (faWafer (a + i) = s.wafer) && !s.lost (a + i)) = true) : plainBytes s a n :=
  ⟨unleased_of u, fun i l => by simpa [and_assoc] using List.all_eq_true.1 h i (List.mem_range.2 l)⟩

/-- The event queue of the one partition is at address 0 of reticle 0. -/
theorem calm_of {s : State} {part r : Nat} (h : s.eventRet part = some r) (p : plainBytes s ((s.ret r).eq.slot 64 (s.ret r).eq.tail) 64)
    (q : decide ((s.ret r).eqHeld = []) && !s.homeWaits r ((s.ret r).eq.slot 64 (s.ret r).eq.tail) = true) : calm s part :=
  fun e he => by have z := Option.some.inj (h.symm.trans he); subst z; simp at q; exact ⟨q.1, q.2, p⟩

/-- The result of a computation, by comparing it. -/
theorem ok_of {α β : Type} [DecidableEq α] {e : Except β α} {v : α} (h : (match e with | .ok x => decide (x = v) | .error _ => false) = true) : e = .ok v := by
  cases e with
  | error _ => cases h
  | ok x => exact congrArg _ (of_decide_eq_true h)

/-! ### The statements' hypotheses can be met: the control stream -/

/-- Register 1 affine, register 2 uniform, both `.i32`. -/
def mixed (y : Split := split0) : State := st y id id fun k => (k.setReg 1 { val := .affine 5 3, tag := 8 }).setReg 2 { val := .uniform 7, tag := 8 }

/-- What the arithmetic statements ask of their operands. -/
def operands (takes : Prop → Prop → Prop → Prop → Prop) (s : State) (y : Split) (d a b : BitVec 8) (x : Bool) : Prop :=
  s.At y ∧ dest s d ∧ s.Owns a ∧ s.Owns b ∧ takes (isU s a) (isA s a) (isU s b x) (isA s b x) ∧ plainTag (tag s a) = true ∧ plainTag (tag s b) = true ∧ Agree (tag s a) (tag s b)

theorem witness_AffineArithmetic :
    operands anyAffine mixed split0 255 1 1 false ∧ operands affineFirst mixed split0 255 1 2 false ∧ operands oneAffine mixed split0 255 2 1 false ∧ operands affineFirst mixed split0 0 1 1 true := by
  simp only [operands, State.At, dest, State.Owns, State.Unnamed, twoWords, isWord, isU, isA, tag, Agree, anyAffine, affineFirst, oneAffine, uniformOnly, condition, quiet]
  repeat' apply And.intro
  all_goals decide

theorem witness_UniformArithmetic : operands uniformOnly mixed split0 255 2 1 true ∧ operands uniformOnly mixed split0 0 2 2 false := by
  simp only [operands, State.At, dest, State.Owns, State.Unnamed, twoWords, isWord, isU, isA, tag, Agree, anyAffine, affineFirst, oneAffine, uniformOnly, condition, quiet]
  repeat' apply And.intro
  all_goals decide

theorem witness_UniformMoves :
    (mixed.At split0 ∧ dest mixed 1 ∧ twoWords mixed 2 2 ∧ (isU mixed 1 ∨ isA mixed 1) ∧ plainTag (tag mixed 1) = true ∧ Agree (tagOfTwo (tag mixed 2) (tag mixed 2)) (tag mixed 1)) ∧
    (dest mixed 255 ∧ (isU mixed 1 ∨ isA mixed 1) ∧ dest mixed 2 ∧ isWord mixed 2) := by
  simp only [operands, State.At, dest, State.Owns, State.Unnamed, twoWords, isWord, isU, isA, tag, Agree, anyAffine, affineFirst, oneAffine, uniformOnly, condition, quiet]
  repeat' apply And.intro
  all_goals decide

/-- A split whose last `ucmp` compared 3 with 5. -/
def compared : Split := { split0 with cmpA := 3, cmpB := 5 }

theorem witness_ConditionCodes :
    (st compared).At compared ∧ twoWords (st compared) 0 255 true ∧ dest (st compared) 255 ∧ (isU (st compared) 0 ∨ isA (st compared) 0) ∧
    (∀ c, c ≤ 10 → condition c compared.cmpA compared.cmpB ∨ ¬condition c compared.cmpA compared.cmpB) ∧ condition 0 compared.cmpA compared.cmpB ∧ ¬condition 9 compared.cmpA compared.cmpB ∧ condition 10 compared.cmpA compared.cmpB := by
  refine ⟨rfl, ?_, ?_, ?_, fun c _ => Classical.em _, trivial, ?_, ?_⟩
  all_goals simp only [dest, State.Owns, State.Unnamed, twoWords, isWord, isU, isA, tag, Agree, condition]
  all_goals repeat' apply And.intro
  all_goals decide

/-- A split in a loop whose end is its own PC, and one with a full loop stack. -/
def looping : Split := { split0 with loops := [{ start := 0x10000, stop := 0x10000, count := 2 }] }
def nested : Split := { split0 with loops := List.replicate 4 { start := 0x10000, stop := 0x10010, count := 2 } }

theorem witness_BranchesAndLoops :
    (st looping).At looping ∧ (st nested).At nested ∧ isWord mixed 2 ∧ read mixed 2 ≠ 0 ∧ isWord mixed 0 ∧ read mixed 0 = 0 ∧ looping.loops.length < 4 ∧ nested.loops.length = 4 ∧
    looping.loops = { start := 0x10000, stop := 0x10000, count := 2 } :: [] ∧ split0.queue.length < 4 ∧
    mixed.ctlMask 0 &&& split0.active ≠ 0 ∧ mixed.ctlMask 0 &&& split0.active = split0.active ∧ mixed.ctlMask 15 &&& split0.active = 0 := by
  simp only [operands, State.At, dest, State.Owns, State.Unnamed, twoWords, isWord, isU, isA, tag, Agree, anyAffine, affineFirst, oneAffine, uniformOnly, condition, quiet]
  repeat' apply And.intro
  all_goals decide

theorem witness_CallsAndReturns :
    mixed.At split0 ∧ (254 : BitVec 8).toNat + 2 ≤ mixed.budget ∧ mixed.Unnamed [254, 255] ∧ twoWords mixed 254 255 ∧ (read mixed 254).toNat % 4 = 0 := by
  simp only [operands, State.At, dest, State.Owns, State.Unnamed, twoWords, isWord, isU, isA, tag, Agree, anyAffine, affineFirst, oneAffine, uniformOnly, condition, quiet]
  repeat' apply And.intro
  all_goals decide

/-- The group's mask m1 holds the even lanes. -/
def masked (y : Split := split0) : State := st y fun x => { x with masks := [(1, 0x55555555)] }

/-- A group of two splits. -/
def forked : State := st split0 fun x => { x with splits := x.splits ++ [(1, split0)] }

theorem witness_SplitsAndWaits :
    (masked.At split0 ∧ quiet masked ∧ masked.ctlMask 1 &&& split0.active ≠ 0 ∧ masked.ctlMask 1 &&& split0.active ≠ split0.active ∧ masked.here.freeIds = 1 :: [2, 3]) ∧
    (masked.ctlMask 2 &&& split0.active = 0 ∧ masked.ctlMask 0 &&& split0.active = split0.active) ∧
    (masked.here.splits.length = 1 ∧ forked.At split0 ∧ quiet forked ∧ forked.here.splits.length ≠ 1) ∧ split0.atLoopEnd split0.pc = false ∧ (∀ f ∈ masked.here.fences, f.split ≠ masked.cur.split) := by
  simp only [operands, State.At, dest, State.Owns, State.Unnamed, twoWords, isWord, isU, isA, tag, Agree, anyAffine, affineFirst, oneAffine, uniformOnly, condition, quiet]
  repeat' apply And.intro
  all_goals decide

/-- What an exception needs beside its cause. -/
def mayTrap (s : State) (y : Split) : Prop :=
  s.At y ∧ y.inHandler = false ∧ s.trapWaits s.cur.core s.cur.slot s.cur.split = false ∧ y.queue = [] ∧ s.handler s.cur.core s.myTeam.lrec.lbase = .ok 0x18000

theorem witness_TrapEntry :
    mayTrap (st split0) split0 ∧ quiet (st split0) ∧ mayTrap (st nested) nested ∧ isWord mixed 2 ∧ read mixed 2 ≠ 0 ∧ 4 ≤ nested.loops.length ∧ mayTrap mixed split0 ∧ split0.loops = [] :=
  ⟨⟨rfl, rfl, by decide, rfl, rfl⟩, by unfold quiet; decide, ⟨rfl, rfl, by decide, rfl, rfl⟩, by
    simp only [State.Owns, isWord, isU, tag]; exact ⟨by decide, by decide, by decide⟩, by decide, by decide, ⟨rfl, rfl, by decide, rfl, rfl⟩, rfl⟩

/-- A split in its handler, after a trap of the control stream and after one of the lane stream. -/
def handling : Split := { split0 with inHandler := true, trap := { cause := 22, pc := 0x10004 }, savedLoops := looping.loops }
def handlingLane : Split := { handling with trap := { cause := 0x304, pc := 0x10004, lane := 5 + 2 * 2 ^ 17, x0 := 9, x3 := 1 } }

theorem witness_ReturnFromHandler :
    ((st handling).At handling ∧ quiet (st handling) ∧ handling.inHandler = true ∧ handling.trap.cause.getLsbD 8 = false) ∧
    ((st handlingLane).At handlingLane ∧ quiet (st handlingLane) ∧ handlingLane.inHandler = true ∧ handlingLane.trap.cause.getLsbD 8 = true ∧ handlingLane.trap.cause.getLsbD 9 = true) := by
  simp only [operands, State.At, dest, State.Owns, State.Unnamed, twoWords, isWord, isU, isA, tag, Agree, anyAffine, affineFirst, oneAffine, uniformOnly, condition, quiet]
  repeat' apply And.intro
  all_goals decide

/-! ### Special registers, fences, waits and barriers -/

/-- The state of `st` with registers written. -/
def regs (l : List (Nat × GReg)) (k : Core) : Core := l.foldl (fun k e => k.setReg e.1 e.2) k
def u32 (n : Nat) : GReg := { val := .uniform (BitVec.ofNat 32 n), tag := 8 }
def with1 (l : List (Nat × GReg)) (y : Split := split0) (f : Group → Group := id) (h : Team → Team := id) (r : Reticle → Reticle := id) : State := st y f h (regs l) r

/-- A grid of 3 × 2 × 7, between slots; a slot in progress, inside a loop. -/
def placed : State := { with1 [] split0 id (fun x => { x with lin := 41, lrec := { x.lrec with nx := 3, ny := 2, nz := 7 } }) (fun r => { r with slotAt := 31200, slotN := 16 }) with now := 77 }
def inSlot : State := { with1 [] looping id id (fun r => { r with slotAt := 31200, slotEnd := 40000, inSlot := true }) with now := 32000 }

theorem witness_SpecialRegisterReads :
    (placed.At split0 ∧ dest placed 255 ∧ 0 < placed.myTeam.lrec.nx ∧ 0 < placed.myTeam.lrec.ny ∧ (placed.ret 0).inSlot = false ∧ split0.loops = []) ∧
    (inSlot.At looping ∧ dest inSlot 0 ∧ (inSlot.ret 0).inSlot = true ∧ looping.loops = { start := 0x10000, stop := 0x10000, count := 2 } :: []) ∧
    ((st handling).At handling ∧ dest (st handling) 1 ∧ handling.inHandler = true) := by
  simp only [State.At, dest, State.Owns, State.Unnamed]
  repeat' apply And.intro
  all_goals decide

theorem witness_SpecialRegisterStops :
    (mayTrap (st split0) split0 ∧ dest (st split0) 255 ∧ (0x24 : BitVec 9).toNat ≠ 0x23 ∧ split0.inHandler = false ∧ (0x3F : BitVec 9).toNat ∉ [0, 1, 2, 3, 4, 5, 6, 7, 8, 9, 0xA, 0xB, 0xC, 0xD, 0x10, 0x11, 0x12, 0x13, 0x20, 0x21, 0x22, 0x23]) ∧
    (isWord (mixed looping) 2 ∧ isWord (mixed handling) 2 ∧ isWord mixed 2 ∧ (mixed looping).At looping ∧ (mixed handling).At handling ∧ mixed.At split0) := by
  refine ⟨⟨⟨rfl, rfl, by decide, rfl, rfl⟩, ?_, by decide, rfl, by decide⟩, ?_⟩
  all_goals simp only [State.At, dest, State.Owns, State.Unnamed, isWord, isU, tag]
  all_goals repeat' apply And.intro
  all_goals decide

/-- A group of 8 registers. -/
def few (y : Split := split0) : State := with1 [] y fun x => { x with regN := 8 }

theorem witness_StagingSlotsAndPool :
    (mixed.At split0 ∧ (∀ e ∈ [(0, (31 : BitVec 5)), (1, 0), (2, 5), (3, 31)], (15 : BitVec 4).getLsbD e.1 = true → 8 * e.2.toNat + 8 ≤ mixed.budget)) ∧
    (mayTrap few split0 ∧ (1 : BitVec 4).getLsbD 0 = true ∧ few.budget < 8 * (1 : BitVec 5).toNat + 8) ∧
    ((253 : BitVec 8).toNat + 3 ≤ mixed.budget ∧ mixed.Unnamed [253, 254, 255] ∧ dest mixed 255 ∧ (mixed.core mixed.cur.core).opsOf mixed.cur.slot = []) := by
  refine ⟨⟨rfl, by decide⟩, ⟨⟨rfl, rfl, by decide, rfl, rfl⟩, by decide, by decide⟩, ?_⟩
  simp only [dest, State.Owns, State.Unnamed]
  repeat' apply And.intro
  all_goals decide

/-- A request for point `n` by a group with or without the power right, with a change in progress or not. -/
def asking (n : Nat) (right busy : Bool) : State :=
  with1 [(2, u32 n)] split0 (fun x => { x with power := right }) id fun r => { r with clusters := [(0, { busy := busy })] }

theorem witness_OperatingPointRequest :
    (∀ e ∈ [(7, true, false), (15, true, false), (6, false, false), (6, true, true), (6, true, false), (16, true, false)],
      let s := asking e.1 e.2.1 e.2.2
      s.At split0 ∧ dest s 255 ∧ isWord s 2 ∧ (read s 2).toNat = e.1 ∧ s.here.power = e.2.1 ∧ (s.cluster (s.cur.core / 72) (s.cur.core % 72 / 2)).busy = e.2.2) ∧
    ((asking 6 true false).cluster 0 0).cur ≤ 6 ∧ mayTrap (asking 16 true false) split0 := by
  refine ⟨?_, by decide, rfl, rfl, by decide, rfl, rfl⟩
  simp only [List.forall_mem_cons, List.not_mem_nil, false_implies, implies_true, and_true, State.At, dest, State.Owns, State.Unnamed, isWord, isU, tag]
  repeat' apply And.intro
  all_goals decide

/-- A core with one dirty byte in its L1, and a fence's base and length in registers 2 and 3. -/
def dirtyLine : State :=
  st split0 id id fun k => regs [(2, u32 0), (3, { val := .uniform 0xFFFFFFFF })] { k with l1 := [{ line := 4, data := [(5, 9)], valid := 0x20, dirty := 0x20 }] }

/-- The same with an `nput` of the group not yet acknowledged; with its reticle in a slot; and with a store outstanding. -/
def awaited : State := { dirtyLine with cores := dirtyLine.cores.map fun e => (e.1, { e.2 with groups := e.2.groups.map fun g => (g.1, { g.2 with posted := [{ job := 64, len := 8, left := 1 }] }) }) }
def slotted : State := { dirtyLine with rets := dirtyLine.rets.map fun e => (e.1, { e.2 with inSlot := true }) }
def storesBefore : State := { dirtyLine with cores := dirtyLine.cores.map fun e => (e.1, { e.2 with groups := e.2.groups.map fun g => (g.1, { g.2 with pending := [{ kind := .store, scratch := true, lanes := [{ lane := 0, bytes := [0, 1, 2, 3], left := [0, 1, 2, 3] }], mask := 1 }] }) }) }

theorem witness_Fences :
    (dirtyLine.At split0 ∧ twoWords dirtyLine 2 3 ∧ split0.queue = [] ∧ dirtyLine.here.fences = [] ∧ dirtyLine.here.pending = [] ∧ read dirtyLine 3 = 0xFFFFFFFF) ∧
    (dirtyLine.releasable 0 1 0 0xFFFFFFFF = true ∧ dirtyLine.covered 2 0 0xFFFFFFFF = [] ∧ awaited.covered 2 0 0xFFFFFFFF = [64] ∧ awaited.here.fences = [] ∧ twoWords awaited 2 3) ∧
    (slotted.releasable 0 1 0 0xFFFFFFFF = false ∧ twoWords slotted 2 3 ∧ slotted.here.fences = [] ∧ slotted.here.pending = []) ∧
    (twoWords storesBefore 2 3 ∧ storesBefore.here.fences = [] ∧ (∃ x ∈ storesBefore.here.pending, x.of storesBefore.cur.split = true ∧ storesBefore.waitsFor 2 0 0xFFFFFFFF x = true)) ∧
    ((1 : BitVec 4).toNat / 4 = 0 ∧ (5 : BitVec 4).toNat % 4 = 1 ∧ (10 : BitVec 4).toNat % 4 = 2 ∧ 2 ≤ (11 : BitVec 4).toNat % 4 ∧ (11 : BitVec 4).toNat < 12) ∧
    (dirtyLine.core 0).l1.Pairwise (fun l m => l.line ≠ m.line) ∧ dirtyLine.lost (4 * 128) = false := by
  simp only [State.At, State.Owns, twoWords, isWord, isU, tag, Agree]
  repeat' apply And.intro
  all_goals decide

/-- A group with batch 3 open and 2 ended, one token done and one outstanding; register 4 holds a barrier's address, 5 a phase, 6 and 7 tokens. -/
def waiting : State :=
  (with1 [(1, u32 1), (2, u32 2), (3, u32 3), (4, u32 16), (5, u32 5), (6, u32 8), (7, u32 9), (9, u32 4)] split0
    (fun x => { x with batch := 3, ended := 2, tokens := [(8, true), (9, false)], token := 9 })).setBar 1 16 { phase := 5 }

theorem witness_Waits :
    (waiting.At split0 ∧ quiet waiting ∧ twoWords waiting 4 5 ∧ twoWords waiting 4 3 ∧ barrierAt waiting (read waiting 4)) ∧
    (behind (waiting.bar 1 16).phase (read waiting 3) ∧ ¬behind (waiting.bar 1 16).phase (read waiting 5) ∧ waiting.here.acqs = []) ∧
    (isWord waiting 1 ∧ behind waiting.here.ended (read waiting 1) ∧ ¬behind waiting.here.ended (read waiting 2) ∧ waiting.here.batch ≠ read waiting 2 ∧
      2 ^ 31 ≤ (waiting.here.batch - read waiting 9).toNat ∧ waiting.here.batch = read waiting 3) ∧
    ((waiting.core 0).opsOf 0 = [] ∧ mayTrap waiting split0) ∧
    ((∀ e ∈ waiting.here.tokens, e.1 = read waiting 6 → e.2 = true) ∧ (∃ e ∈ waiting.here.tokens, e.1 = read waiting 7) ∧ ∀ e ∈ waiting.here.tokens, e.1 = read waiting 7 → e.2 = false) := by
  refine ⟨?_, ?_, ?_, ⟨rfl, rfl, rfl, by decide, rfl, rfl⟩, ⟨every (by decide), ⟨(9, false), by decide, by decide⟩, every (by decide)⟩⟩
  all_goals try simp only [State.At, quiet, State.Owns, twoWords, isWord, isU, tag, Agree, barrierAt, behind]
  all_goals repeat' apply And.intro
  all_goals decide

/-- Every working tile of the group is free of a pending silt trap. -/
theorem witness_Waits_tiles : ∀ t, t < waiting.here.workTiles → (waiting.tile t).info.pend = false := fun _ _ => rfl

/-- Barriers at 16 and at the top of the allocation: one about to complete, one that is full. -/
def barriers : State :=
  ((with1 [(1, u32 1), (2, u32 255), (3, u32 16), (4, u32 0x7FF0), (5, u32 0x7FF8), (6, u32 256), (7, u32 0), (8, u32 0x8000)]).setBar 1 16 { phase := 5, expect := 2, arrived := 1, bal := -1, balnx := 3 }).setBar 1 0x7FF0
    { phase := 4, expect := 254, arrived := 254, bal := 1 }

theorem witness_BarrierOperations :
    (barriers.At split0 ∧ twoWords barriers 3 1 ∧ twoWords barriers 4 2 ∧ barrierReady barriers (read barriers 3) ∧ barrierReady barriers (read barriers 4)) ∧
    ((read barriers 2).toNat ≤ 255 ∧ 255 < (read barriers 6).toNat ∧ mayTrap barriers split0) ∧
    ((∀ k ∈ barriers.cores, ∀ j ∈ k.2.jobs, j.cmd ≠ 7) ∧ (barriers.bar 1 16).bal + (read barriers 1).toNat < 2 ^ 39 ∧ (barriers.bar 1 16).arrived < 2 ∧ 254 ≤ (barriers.bar 1 0x7FF0).arrived) ∧
    (quiet barriers ∧ (read barriers 5).toNat % 16 ≠ 0 ∧ (read barriers 8).toNat % 16 = 0 ∧ barriers.scratchSize < (read barriers 8).toNat + 16 ∧ (read barriers 7).toNat ≤ 255) := by
  refine ⟨?_, ⟨by decide, by decide, by unfold State.At; decide, rfl, by decide, rfl, rfl⟩, ?_, ?_⟩
  all_goals try simp only [State.At, quiet, State.Owns, twoWords, isWord, isU, tag, Agree, barrierAt, barrierReady, scratchReady, noFence]
  all_goals repeat' apply And.intro
  all_goals decide

/-- A team of class 0 and one of class 1, of two groups. -/
def gridTeam (cls : Nat) : State := with1 [(1, u32 16), (2, u32 3), (3, u32 0)] split0 id fun x => { x with lrec := { x.lrec with cls := cls, roles := [0x00000102] } }

theorem witness_GridBarrierAndDrain :
    (∀ c ∈ [0, 1], let s := gridTeam c
      s.At split0 ∧ isWord s 1 ∧ scratchReady s (read s 1).toNat 16 ∧ barrierAt s (read s 1) ∧ s.team? s.here.team ≠ none ∧ s.myTeam.gbar = none ∧
      (s.bar 1 16).arrived < 2 ∧ 0 < s.myTeam.lrec.groups ∧ s.myTeam.lrec.cls = c ∧ twoWords s 2 3 ∧ Agree (tag s 1) (tagOfTwo (tag s 2) (tag s 3)) ∧ s.myTeam.drainSet = none) ∧
    mayTrap (gridTeam 1) split0 ∧ split0.queue = [] := by
  refine ⟨?_, ⟨rfl, rfl, by decide, rfl, rfl⟩, rfl⟩
  simp only [List.forall_mem_cons, List.not_mem_nil, false_implies, implies_true, and_true, State.At, State.Owns, twoWords, isWord, isU, tag, Agree, barrierAt, scratchReady, noFence]
  repeat' apply And.intro
  all_goals decide

/-- A team of two groups; registers 1 to 4 name gangs. -/
def ganged : State := with1 [(1, u32 32), (2, u32 2), (3, u32 0), (4, u32 7), (5, u32 0x7F80), (6, u32 0x7F81), (7, u32 1)] split0 id fun x => { x with lrec := { x.lrec with roles := [0x00000102] } }

/-- A scratchpad whose first 32 bytes are a codebook of 1.0 and zeros. -/
def coded : State := ((((with1 [(1, u32 0)]).setScratch 0 0 0x80).setScratch 0 1 0x3F).setScratch 0 2 0x80).setScratch 0 3 0x3F

theorem witness_MatrixControl :
    (twoWords ganged 1 2 ∧ twoWords ganged 3 3 ∧ twoWords ganged 1 4 ∧ twoWords ganged 1 7 ∧ (ganged.core 0).opsOf 0 = [] ∧ mayTrap ganged split0) ∧
    ((read ganged 1).toNat < 32 ^ 2 ∧ ((List.range 2).map fun i => (read ganged 1).toNat / 32 ^ i % 32).Nodup ∧ (∀ m ∈ (List.range 2).map fun i => (read ganged 1).toNat / 32 ^ i % 32, m < ganged.myTeam.lrec.groups) ∧
      ganged.here.gid ∈ (List.range 2).map fun i => (read ganged 1).toNat / 32 ^ i % 32) ∧
    (isWord coded 1 ∧ scratchReady coded (read coded 1).toNat 32 ∧ (read coded 1).toNat + 32 ≤ coded.scratchSize ∧ (coded.core 0).readsBook 1 0 = false ∧ coded.team? 1 ≠ none ∧
      (coded.scratchByte 0 0).toNat + 256 * (coded.scratchByte 0 1).toNat = 0x3F80 ∧ ∀ i, i < 28 → coded.scratchByte 0 (4 + i) = 0) ∧
    ((59 : BitVec 7).toNat < ganged.here.workTiles ∧ ganged.tileBusy [59] = false ∧ (ganged.tile 59).info.tag ≠ 2 ∧ isWord ganged 5 ∧ isWord ganged 6 ∧ (read ganged 5).toNat ≤ 0x7F80 ∧ 0x7F80 < (read ganged 6).toNat) := by
  refine ⟨?_, ?_, ?_, ?_⟩
  all_goals try simp only [mayTrap, State.At, State.Owns, twoWords, isWord, isU, tag, Agree, scratchReady, noFence]
  all_goals repeat' apply And.intro
  all_goals decide

/-! ### Commands and spawn -/

/-- Registers 10 to 20 hold a descriptor. -/
def card (w : List Nat) : State := with1 ([(1, u32 16), (2, u32 32)] ++ w.mapIdx fun i v => (10 + i, u32 v))

/-- A sound descriptor of each command. -/
def cards : List (List Nat) :=
  [[0x1000, 0, 0x80, 0, 2 ^ 24, 65536, 0, 0, 1, 0, 0], [0x1000, 0, 0x2000, 0, 0x80, 2 ^ 20, 4096, 0, 0], [0x1000, 0, 0x2000, 0, 0x80, 1, 1, 0, 0],
   [0x1000, 0, 0x2000, 0, 0, 2 ^ 24, 0, 0], [0x1000, 0, 0x80, 1, 0, 0, 0], [0x1000, 4, 0, 0, 0, 16, 0, 0, 0], [0x1000, 0, 128, 0, 0, 0, 0, 0], [0], []]

theorem witness_CommandsAndDescriptors :
    (∀ cmd, cmd < 9 → let s := card (cards.getD cmd [])
      let w := descriptor s 10 (descLen cmd)
      s.At split0 ∧ 10 + descLen cmd ≤ s.budget ∧ (∀ i, i < descLen cmd → (s.ctlReg (10 + i)).val.isUniform = true ∧ plainTag (s.ctlReg (10 + i)).tag = true) ∧ badWord cmd w = none ∧
      (cmd = 6 ∨ cmd = 7 → s.openJob cmd = none) ∧ (cmd = 6 → let plan := collPlan s.myTeam.lrec s.myTeam.lin w
        plan.bad w = none ∧ (∀ t ∈ s.collRun plan, s.tileBusy [t] = false) ∧ s.collTiles plan = [] ∧ (plan.tiles = true ∨ plan.first + plan.s * plan.span ≤ s.scratchSize))) ∧
    (∀ cmd, cmd < 9 → (engineCommand cmd false (if cmd = 8 then 0 else 10) 1 1 0).wf = true ∧ (cmd ≠ 7 → (engineCommand cmd false (if cmd = 8 then 0 else 10) 1 2 0).wf = true)) ∧
    (let s := card [];
      quiet s ∧ s.here.pending = [] ∧ (∀ f ∈ s.here.fences, f.holds s.cur.split = true → f.kind < 2) ∧ (s.core s.cur.core).jobs.length < 64 ∧ s.team? s.here.team ≠ none ∧ dest s 1 ∧ s.here.tokens.length < 256 ∧ isWord s 1 ∧ barrierAt s (read s 1)) := by
  simp only [State.At, quiet, dest, State.Owns, State.Unnamed, isWord, isU, tag, barrierAt]
  refine ⟨by decide, by decide, ?_⟩
  repeat' apply And.intro
  all_goals decide

theorem witness_CommandsAndDescriptors_limits :
    (∀ e ∈ [(0, [0, 0, 0, 0, 0]), (0, [0, 0, 0, 0, 2 ^ 24 + 1]), (1, [0, 0, 0, 0, 0, 2 ^ 20 + 1]), (3, [0, 0, 0, 0, 0, 0]), (4, [0, 0, 0, 2 ^ 24 + 1]), (5, [0, 3])],
      let s := card e.2
      mayTrap s split0 ∧ dest s 1 ∧ 10 + descLen e.1 ≤ s.budget ∧ ∀ i, i < descLen e.1 → (s.ctlReg (10 + i)).val.isUniform = true ∧ plainTag (s.ctlReg (10 + i)).tag = true) := by
  simp only [List.forall_mem_cons, List.not_mem_nil, false_implies, implies_true, and_true, mayTrap, State.At, dest, State.Owns, State.Unnamed]
  repeat' apply And.intro
  all_goals decide

/-- Records at 0x4000, seen through a cached page and, 32 MiB above, through an uncached one; the launch queue of reticle 0 is on. -/
def spawning (live : Bool := true) (tail : Word := 18) : State :=
  st split0 id id (fun k => regs [(2, u32 0x4000), (3, u32 0), (4, u32 0x2004000), (5, u32 0), (6, u32 0x4001), (8, u32 64), (9, u32 63), (10, u32 0xFFFFFFFF)]
    { k with tlb := [{ vpage := 0, big := true, pte := 0x3B }, { vpage := 512, big := true, pte := 0x13B }] })
    fun r => { r with live := live, lq0 := { base := 0x8000, log2n := 4, en := true, head := 3, tail := tail } }

theorem witness_Spawn :
    (dest (spawning) 255 ∧ (4 : BitVec 8).toNat < 255 ∧ twoWords (spawning) 2 3 ∧ twoWords (spawning) 4 5 ∧ twoWords (spawning) 6 3 ∧ isWord (spawning) 3 ∧ isWord (spawning) 8 ∧ isWord (spawning) 9 ∧
      Agree (tagOfTwo (tag (spawning) 4) (tag (spawning) 5)) (tag (spawning) 3)) ∧
    (mayTrap (spawning) split0 ∧ 64 ≤ (read (spawning) 8).toNat ∧ (read (spawning) 8).toNat ≠ 0xFFFFFFFF ∧ (read (spawning) 6).toNat % 128 ≠ 0) ∧
    (split0.queue = [] ∧ noFence spawning ∧ (spawning).here.pending = [] ∧ ((spawning).ret 63).live = false ∧ (spawning).walkWaits 0 0x4000 = false ∧ (spawning).walkWaits 0 0x2004000 = false ∧ isWord (spawning) 10 ∧ (read (spawning) 10).toNat = 0xFFFFFFFF ∧ (∀ z ∈ (List.range 128).map (0x4000 + ·), spawning.homeWaits 0 z = false ∧ spawning.roomWaits 0 (z / 128) = false) ∧ (spawning).team? (spawning).here.team ≠ none ∧ ((spawning).ret 0).live = true) ∧
    ((spawning).span 0 0x4000 128 .load = .ok ((List.range 128).map (0x4000 + ·), true) ∧ (spawning).span 0 0x2004000 128 .load = .ok ((List.range 128).map (0x4000 + ·), false)) := by
  refine ⟨?_, ?_, ?_, ⟨rfl, rfl⟩⟩
  all_goals try simp only [mayTrap, noFence, State.At, dest, State.Owns, State.Unnamed, twoWords, isWord, isU, tag, Agree]
  all_goals repeat' apply And.intro
  all_goals decide

/-- The record, read through each page, is of no window, in no L1 and leased to no core, and its slot is the last of the ring, sound and of no window. -/
theorem witness_Spawn_answers :
    (∀ c ∈ [true, false], let s := spawning
      let e := LaunchRec.ofNat (natLE (s.loadBytes s.cur.core c ((List.range 128).map (0x4000 + ·))).1)
      let q := (s.ret 0).lq e.prio
      s.partOf 0 = s.partOf (s.cur.core / 72) ∧ e.part = s.partOf 0 ∧ q.log2n = 4 ∧ q.count < 2 ^ q.log2n ∧ s.releasable s.cur.core 1 0 0xFFFFFFFF = true ∧ s.homeWaits 0 (q.slot 128 q.tail) = false ∧ s.target (q.slot 128 q.tail) = .dram ∧
      ∀ i, i < 128 → s.isWindow (q.slot 128 q.tail + i) = false ∧ s.lost (q.slot 128 q.tail + i) = false) ∧
    ∀ z ∈ (List.range 128).map (0x4000 + ·), (spawning.core spawning.cur.core).line? (z / 128) = none ∧ (spawning.lineTag z).lessee = none ∧ spawning.isWindow z = false := by
  decide

/-- A record of another partition, and one for a queue that is full. -/
theorem witness_Spawn_refusals :
    (LaunchRec.ofNat (natLE (({ spawning with mem := (0x4032, 1) :: spawning.mem }).loadBytes 0 false ((List.range 128).map (0x4000 + ·))).1)).part = 1 ∧ spawning.partOf 0 ≠ 1 ∧
    (let s := spawning (tail := 19)
     ((s.ret 0).lq (LaunchRec.ofNat (natLE (s.loadBytes 0 true ((List.range 128).map (0x4000 + ·))).1)).prio).count = 2 ^ 4) := by
  decide

/-! ### Lane instructions -/

/-- A split with lane blocks, and registers 0 to 13 tagged by their own number as format code. -/
def laneSplit : Split := { split0 with queue := [{ off := 3, cnt := 2 }, { off := 9, cnt := 1 }] }
def lanes : State := with1 ((List.range 14).map fun i => (i, { val := .affine (BitVec.ofNat 32 (5 + i)) 3, tag := BitVec.ofNat 8 (8 * i) })) laneSplit fun x => { x with masks := [(1, 0x55555555)] }

def lop (d a : Nat) (b : Nat := 0) (c : Nat := 0) (fmt : Nat := 0) (ext : Nat := 0) (mask : Nat := 1) : LaneOp :=
  { p := false, d := BitVec.ofNat 8 d, a := BitVec.ofNat 8 a, b := BitVec.ofNat 8 b, c := BitVec.ofNat 8 c, mask := BitVec.ofNat 4 mask, moda := 0, modb := 0, modc := 0, rnd := 0, fmt := BitVec.ofNat 5 fmt, ext := BitVec.ofNat 20 ext }
def lim (d a : Nat) (fmt : Nat := 0) (ext : Nat := 0) : LaneImm :=
  { p := false, d := BitVec.ofNat 8 d, a := BitVec.ofNat 8 a, mask := 1, moda := 0, rnd := 0, fmt := BitVec.ofNat 5 fmt, imm := 7, ext := BitVec.ofNat 4 ext }

/-- What a lane statement asks of the split, the word and the registers that it names. -/
def ready (s : State) (i : Instr) (rs : List Nat) : Prop := s.LaneAt i laneSplit ∧ i.wf = true ∧ owned s rs

/-- The same, computed. -/
def isReady (s : State) (i : Instr) (rs : List Nat) : Bool :=
  decide (s.me? = some laneSplit) && !s.awaits (laneNames i) && i.wf && rs.all fun r => decide (r < s.budget)

theorem ready_of_isReady (s : State) (i : Instr) (rs : List Nat) (h : isReady s i rs = true) : ready s i rs := by
  simp only [isReady, Bool.and_eq_true, Bool.not_eq_true', decide_eq_true_eq, List.all_eq_true] at h
  exact ⟨⟨h.1.1.1, by decide, h.1.1.2⟩, h.1.2, h.2⟩

theorem all_ready (s : State) (l : List (Instr × List Nat)) (h : (l.all fun e => isReady s e.1 e.2) = true) : ∀ e ∈ l, ready s e.1 e.2 :=
  fun e m => ready_of_isReady s e.1 e.2 (List.all_eq_true.mp h e m)

/-- What a lane instruction's exception needs beside its cause. -/
def laneMayTrap (s : State) : Prop :=
  laneSplit.queue = { off := 3, cnt := 2 } :: [{ off := 9, cnt := 1 }] ∧ laneSplit.inHandler = false ∧ s.trapWaits s.cur.core s.cur.slot s.cur.split = false ∧ s.handler s.cur.core s.myTeam.lrec.lbase = .ok 0x18000

theorem lanes_may_trap : laneMayTrap lanes := ⟨rfl, rfl, by decide, rfl⟩

theorem witness_LaneIntegers :
    (∀ e ∈ [(Instr.add (lop 255 1 1 0 1 1), [255, 1, 1]), (.addImmediate (lim 255 10 10), [255, 10]), (.sub (lop 255 10 10 0 10), [255, 10, 10]), (.subImmediate (lim 255 11 11), [255, 11]),
      (.mul (lop 255 2 2 0 2), [255, 2, 2]), (.mulImmediate (lim 255 1 1), [255, 1]), (.mulhi (lop 255 1 1 0 1), [255, 1, 1]), (.mad (lop 255 1 0 1 1), [255, 1, 0, 1]), (.minL (lop 255 11 11 0 11), [255, 11, 11]),
      (.minImmediate (lim 255 1 1), [255, 1]), (.maxL (lop 255 10 10 0 10), [255, 10, 10]), (.maxImmediate (lim 255 2 2), [255, 2]), (.absL (lop 255 10 0 0 10 1), [255, 10]), (.neg (lop 255 1 0 0 1 1), [255, 1])], ready lanes e.1 e.2) ∧
    (∀ i ∈ [1, 2, 10, 11], fits i (ltag lanes (BitVec.ofNat 8 i))) ∧ fits 1 (ltag lanes 0) :=
  ⟨all_ready _ _ (by decide), by unfold fits; decide, by unfold fits; decide⟩

theorem witness_LaneBits :
    (∀ e ∈ [(Instr.andL (lop 255 1 4), [255, 1, 4]), (.andImmediate (lim 255 4), [255, 4]), (.orL (lop 255 1 1), [255, 1, 1]), (.orImmediate (lim 255 0), [255, 0]), (.xor (lop 255 13 13), [255, 13, 13]), (.xorImmediate (lim 255 1), [255, 1]),
      (.notL (lop 255 9), [255, 9]), (.shl (lop 255 9 1), [255, 9, 1]), (.shlImmediate (lim 255 3), [255, 3]), (.shr (lop 255 3 2), [255, 3, 2]), (.shrImmediate (lim 255 3), [255, 3]), (.sra (lop 255 3 0), [255, 3, 0]),
      (.sraImmediate (lim 255 3), [255, 3]), (.rot (lop 255 3 1), [255, 3, 1]), (.rotImmediate (lim 255 3), [255, 3]), (.popc (lop 255 3), [255, 3]), (.clz (lop 255 3), [255, 3]), (.brev (lop 255 3), [255, 3]),
      (.bfe (lop 255 3 1 2 1), [255, 3, 1, 2]), (.bfi (lop 255 3 4 1 2), [255, 3, 4, 1])], ready lanes e.1 e.2) ∧ ∀ r ∈ [0, 1, 2], plainTag (ltag lanes (BitVec.ofNat 8 r)) = true :=
  ⟨all_ready _ _ (by decide), by decide⟩

theorem witness_LaneMovement :
    (∀ e ∈ [(Instr.shfl (lop 255 3 1), [255, 3, 1]), (.shup (lop 255 3 0 0 0 31), [255, 3]), (.shdn (lop 255 3 0 0 0 31), [255, 3]), (.shxor (lop 255 3 0 0 0 31), [255, 3]), (.shcat (lop 255 3 4 0 0 128), [255, 3, 4]), (.shcat (lop 255 100 101 0 0 0), [255, 100, 101]),
      (.prm (lop 255 3 4 5), [255, 3, 4, 5]), (.lut16 (lop 255 3 4 0 0 1), [255, 3, 4])], ready lanes e.1 e.2) ∧
    plainTag (ltag lanes 1) = true ∧ ¬(lu lanes 3 0 ∧ lu lanes 4 0) ∧ lu lanes 100 0 ∧ lu lanes 101 0 ∧ laneMayTrap lanes :=
  ⟨all_ready _ _ (by decide), by decide, by unfold lu; decide, by unfold lu; decide, by unfold lu; decide, lanes_may_trap⟩

theorem witness_ScansAndReductions :
    (∀ e ∈ [(Instr.lscan (lop 255 1 0 0 1 5), [255, 1]), (.lred (lop 255 2 0 0 2 0), [255, 2]), (.lred (lop 255 3 0 0 3 2), [255, 3])], ready lanes e.1 e.2) ∧ ∀ i ∈ [1, 2, 3], fits i (ltag lanes (BitVec.ofNat 8 i)) :=
  ⟨all_ready _ _ (by decide), by unfold fits; decide⟩

theorem witness_LaneFloats :
    (∀ e ∈ [(Instr.fadd (lop 254 4 4 0 4), [255, 5, 5]), (.faddImmediate (lim 255 3 3), [255, 3]), (.fsub (lop 255 6 6 0 6), [255, 6, 6]), (.fsubImmediate (lim 255 7 7), [255, 7]), (.fmul (lop 255 7 7 0 7), [255, 7, 7]), (.fmulImmediate (lim 255 6 6), [255, 6]),
      (.fma (lop 254 4 4 4 4), [255, 5, 5, 5]), (.fmin (lop 255 3 3 0 3), [255, 3, 3]), (.fminImmediate (lim 255 3 3), [255, 3]), (.fmax (lop 254 4 4 0 4), [255, 5, 5]), (.fmaxImmediate (lim 255 6 6), [255, 6]), (.fabs (lop 254 4 0 0 4), [255, 5]),
      (.fneg (lop 255 7 0 0 7), [255, 7]), (.fsqrt (lop 254 4 0 0 4), [255, 5]), (.fdiv (lop 255 3 3 0 3), [255, 3, 3]), (.frnd (lop 255 6 0 0 6), [255, 6]), (.fscale (lop 254 4 1 0 4), [1, 255, 5])], ready lanes e.1 e.2) ∧
    (∀ i ∈ [3, 4, 6, 7], isF lanes i (BitVec.ofNat 8 i)) ∧ ltag lanes 1 = 0x08 :=
  ⟨all_ready _ _ (by decide), by unfold isF; decide, by decide⟩

theorem witness_Compares :
    (∀ e ∈ [(Instr.cmp (lop 15 1 1 0 1 10), [1, 1]), (.cmpImmediate (lim 15 2 2 10), [2]), (.cmp (lop 0 1 1 0 1 1), [1, 1]), (.mand (lop 15 1 2), []), (.mor (lop 1 15 0), []), (.mxor (lop 1 1 1), []), (.mnot (lop 15 1), []), (.ballot (lop 15 4), [4]),
      (.sel (lop 255 1 4 15), [255, 1, 4]), (.sel (lop 254 4 4 1 4), [255, 5, 5]), (.mcount (lop 255 1), [255]), (.mprefix (lop 255 1), [255]), (.fcmp (lop 15 4 4 0 4 7), [5, 5]), (.fcmpImmediate (lim 15 3 3 7), [3]), (.fcls (lop 15 4 0 0 4 0x1FF), [5]),
      (.fadd (lop 255 1 3 0 3), [255, 1, 3])], ready lanes e.1 e.2) ∧
    (∀ i ∈ [1, 2], fits i (ltag lanes (BitVec.ofNat 8 i))) ∧ (∀ i ∈ [3, 4], isF lanes i (BitVec.ofNat 8 i)) ∧ (lanes.laneReg 5).tag = tF64hi ∧ ltag lanes 1 ≠ BitVec.ofNat 8 (8 * 3) ∧
    effective lanes 1 ≠ 0 ∧ laneMayTrap lanes :=
  ⟨all_ready _ _ (by decide), by unfold fits; decide, by unfold isF; decide, by decide, by decide, by decide, lanes_may_trap⟩

theorem witness_Rounding :
    (0xFFFFFFFF < 2 ^ f32F.bits ∧ 0 < 2 ^ e2m1F.bits ∧ e2m1F.decode 15 ≠ .nan) ∧ (f32F.decode 0x7F7FFFFF ≠ .nan) ∧ ((1 : Nat) ≠ 0 ∧ (e2m1F.bias : Int) + 1 < ((Nat.log2 1 : Nat) : Int) + 3 ∧ (f32F.bias : Int) + 1 < ((Nat.log2 1 : Nat) : Int) + 129) := by
  decide

theorem witness_Approximations :
    (∀ e ∈ [(Instr.frcp (lop 255 3 0 0 3), [255, 3]), (.frsq (lop 255 3 0 0 3), [255, 3]), (.fexp2 (lop 255 3 0 0 3), [255, 3]), (.flog2 (lop 255 3 0 0 3), [255, 3]), (.fsin (lop 255 3 0 0 3), [255, 3]), (.fcos (lop 255 3 0 0 3), [255, 3])], ready lanes e.1 e.2) ∧ isF lanes 3 3 :=
  ⟨all_ready _ _ (by decide), by unfold isF; decide⟩

theorem witness_Conversion :
    (∀ e ∈ [(Instr.cvt (lop 254 2 0 0 4), [2, 255]), (.cvt (lop 255 1 0 0 1), [1, 255]), (.cvt (lop 255 3 0 0 2), [3, 255]), (.cvt (lop 255 4 0 0 3), [5, 255]), (.cvt (lop 255 0 0 0 1), [0, 255])], ready lanes e.1 e.2) ∧
    (∀ i ∈ [1, 2, 3], ltag lanes (BitVec.ofNat 8 i) = BitVec.ofNat 8 (8 * i)) ∧ isF lanes 4 4 ∧ (ltag lanes 0).toNat / 8 ∉ [1, 2, 3, 4] ∧ effective lanes 1 ≠ 0 ∧ laneMayTrap lanes :=
  ⟨all_ready _ _ (by decide), by decide, by unfold isF; decide, by decide, by decide, lanes_may_trap⟩

theorem witness_PackAndUnpack :
    (∀ e ∈ [(Instr.pack (lop 255 3 3 0 6), [255, 3, 3]), (.pack (lop 255 3 3 0 7), [255, 3, 3]), (.pack (lop 255 6 6 0 8), [255, 6, 6]), (.pack (lop 255 7 7 0 8), [255, 7, 7]), (.pack (lop 255 8 8 0 9), [255, 8, 8]), (.pack (lop 10 1 1 0 10 1), [10, 1, 1]), (.pack (lop 255 2 2 0 11), [255, 2, 2]),
      (.unpack (lop 255 6 0 0 3 1), [255, 6]), (.unpack (lop 255 7 0 0 3 0), [255, 7]), (.unpack (lop 255 13 0 0 3 3), [255, 13]), (.unpack (lop 255 8 0 0 7 1), [255, 8]), (.unpack (lop 255 9 0 0 8 1), [255, 9]), (.unpack (lop 255 10 0 0 1 3), [255, 10]), (.unpack (lop 255 11 0 0 2 3), [255, 11])], ready lanes e.1 e.2) ∧
    ∀ i ∈ [1, 2, 3, 6, 7, 8, 9, 10, 11, 13], ltag lanes (BitVec.ofNat 8 i) = BitVec.ofNat 8 (8 * i) :=
  ⟨all_ready _ _ (by decide), by decide⟩

theorem witness_TagsAndMoves :
    (∀ e ∈ [(Instr.cbdec (lop 255 12 0 0 6 3), [255, 12]), (.tag (lop 255 0 0 0 12 7), [255]), (.tag (lop 254 0 0 0 4), [255]), (.tget (lop 255 3), [255, 3]), (.mov (lop 255 3), [255, 3]), (.mov (lop 254 4 0 0 4), [255, 5]), (.movImmediate (lim 255 0 3), [255])], ready lanes e.1 e.2) ∧
    (ltag lanes 12).toNat / 8 = 12 ∧ (lanes.laneReg 5).tag = tF64hi :=
  ⟨all_ready _ _ (by decide), by decide⟩

theorem witness_ResultShapes :
    (∀ e ∈ [(Instr.add (lop 255 1 1 0 1), [255, 1, 1]), (.sub (lop 255 1 0 0 1), [255, 1, 0]), (.mul (lop 255 1 1 0 1), [255, 1, 1]), (.minL (lop 255 2 2 0 2), [255, 2, 2]), (.maxL (lop 255 100 100 0 1), [255, 100, 100]), (.mov (lop 255 1), [255, 1])], ready lanes e.1 e.2) ∧
    (∀ i ∈ [1, 2], fits i (ltag lanes (BitVec.ofNat 8 i))) ∧ fits 1 (ltag lanes 100) ∧
    (effective lanes 0 = 0xFFFFFFFF ∧ effective lanes 1 ≠ 0 ∧ effective lanes 1 ≠ 0xFFFFFFFF ∧ (lanes.laneReg 1).val.isAffine = true ∧ (lanes.laneReg 100).val.isUniform = true) :=
  ⟨all_ready _ _ (by decide), by unfold fits; decide, by unfold fits; decide, by decide⟩

theorem witness_TagsAndMoves_fault : (Instr.tag (lop 255 0 0 0 1 1)).wf = true ∧ (lop 255 0 0 0 1 1).fmt ≠ 4 ∧ (lop 255 0 0 0 1 1).fmt ≠ 12 ∧ owned lanes [255] ∧ laneMayTrap lanes :=
  ⟨by decide, by decide, by decide, by unfold owned; decide, lanes_may_trap⟩

/-! ### Memory instructions -/

/-- A lane state whose mask m1 holds lane 31 alone; page 0 is cached and page 512, 32 MiB above, uncached, of the same place. -/
def memory (f : Group → Group := id) (h : Team → Team := id) (k : Core → Core := id) : State :=
  st laneSplit (fun x => f { x with masks := [(1, 0x80000000)] }) h fun c =>
    k (regs ((List.range 14).map (fun i => (i, { val := .affine (BitVec.ofNat 32 (5 + i)) 3, tag := BitVec.ofNat 8 (8 * i) })) ++
      [(100, u32 0x4000), (101, u32 0), (102, { val := .affine 0 8, tag := 8 }), (103, u32 0), (104, u32 0x2004000), (105, u32 0), (106, u32 0xFFFFFFFF), (107, u32 0xFFFFFFFF), (108, u32 0x7FFD), (110, u32 0x4002), (111, u32 0), (112, u32 0x7F80), (118, u32 0), (119, u32 0xFFFFFFFF)])
      { c with tlb := [{ vpage := 0, big := true, pte := 0x3B }, { vpage := 512, big := true, pte := 0x13B }] })

theorem one_lane : ∀ l, l < 32 → (effective memory 1).getLsbD l = true → l = 31 := by decide
theorem some_lane : effective memory 1 ≠ 0 := by decide

/-- Bytes of the elements of a lane access: `n` bytes, 8 apart by lane. -/
def spread (n : Nat) (l : Nat) : List Nat := (List.range n).map (0x4000 + 8 * l + ·)

theorem witness_LoadsAndStores :
    (∀ e ∈ [(Instr.ld (lop 254 100 102 0 4), [254, 255]), (.lds (lop 255 100 102 0 1 1), [255, 255]), (.ldImmediate (lim 255 100), [255, 255]), (.ldsImmediate (lim 255 100), [255, 255]), (.prf (lop 0 100 102 0 0 1), []), (.prf (lop 0 100 102), []),
      (.prfImmediate (lim 0 100 0 1), []), (.st (lop 0 100 102 4 4), [5]), (.sts (lop 0 100 102 3 3), [3]), (.stImmediate (lim 4 100 4), [5]), (.stsImmediate (lim 10 100 10), [10])], ready memory e.1 e.2) ∧
    (addressing memory true (lop 254 100 102 0 4) none ∧ addressing memory false (lop 255 100 102 0 1 1) none ∧ addressing memory true (immOp (lim 255 100)) (some 7) ∧ addressing memory false (immOp (lim 255 100)) (some 7)) ∧
    (∀ virt ∈ [true, false], mayIssue memory virt (lop 254 100 102 0 4) none 8 ∧ mayIssue memory virt (immOp (lim 255 100)) (some 7) 4) ∧
    memory.walksWait memory.cur.core (spanned 1 ((active (effective memory 1)).map (address memory true (lop 0 100 102 0 0 1) none))) = false ∧
    (stored memory 4 4 ∧ stored memory 3 3 ∧ stored memory 10 10 ∧ stored memory 0 5 ∧ memory.team? memory.here.team ≠ none) := by
  refine ⟨all_ready _ _ (by decide), ?_, by unfold mayIssue noFence; decide, by decide, ?_⟩
  all_goals simp only [addressing, owned, State.Owns, stored, fits, isF]
  all_goals repeat' apply And.intro
  all_goals decide

theorem witness_LoadsAndStores_reached :
    (∀ l, l < 32 → (effective memory 1).getLsbD l = true → reaches memory true (address memory true (lop 254 100 102 0 4) none l) 8 .load (spread 8 l)) ∧
    (∀ l, l < 32 → (effective memory 1).getLsbD l = true → reaches memory true (address memory true (lop 0 100 102 4 4) none l) 8 .store (spread 8 l)) ∧
    (∀ l, l < 32 → (effective memory 1).getLsbD l = true → reaches memory false (address memory false (lop 255 100 102 0 1 1) none l) 1 .load (spread 1 l)) ∧
    (∀ l, l < 32 → (effective memory 1).getLsbD l = true → reaches memory true (address memory true (immOp (lim 255 100)) (some 7) l) 4 .load ((List.range 4).map (0x4007 + ·))) := by
  refine ⟨fun l h e => ?_, fun l h e => ?_, fun l h e => ?_, fun l h e => ?_⟩ <;> rw [one_lane l h e]
  · exact ⟨true, rfl⟩
  · exact ⟨true, rfl⟩
  · exact ⟨by decide, by decide⟩
  · exact ⟨true, rfl⟩

theorem witness_AddressFaults :
    (∀ e ∈ [(Instr.ld (lop 255 106 103), [255, 0]), (.st (lop 0 106 103 255), [0, 255]), (.ldImmediate (lim 255 118), [255]), (.stImmediate (lim 255 118), [255]), (.lds (lop 255 108 103), [255, 0]), (.sts (lop 0 108 103 255), [0, 255]),
      (.ldsImmediate (lim 255 108), [255]), (.stsImmediate (lim 255 108), [255]), (.lds (lop 255 3 103), [3, 103, 255]), (.stImmediate (lim 255 4), [4, 5, 255])], ready memory e.1 e.2) ∧
    (∀ e ∈ [(lop 255 106 103, none), (lop 0 106 103 255, none), (immOp (lim 255 118), some 7)], addressing memory true e.1 e.2 ∧ 2 ^ 57 ≤ address memory true e.1 e.2 31 ∧
      memory.walksWait memory.cur.core (spanned (elementSize e.1) ((active (effective memory e.1.mask)).map (address memory true e.1 e.2))) = false ∧ ∀ m, m < 31 → (effective memory e.1.mask).getLsbD m = false) ∧
    (∀ e ∈ [(lop 255 108 103, none), (lop 0 108 103 255, none), (immOp (lim 255 108), some 7)], addressing memory false e.1 e.2 ∧ memory.scratchSize < address memory false e.1 e.2 31 + elementSize e.1) ∧
    (stored memory 0 255 ∧ (effective memory 1).getLsbD 31 = true ∧ plainTag (ltag memory 3) = false ∧ plainTag (ltag memory 4) = false ∧ effective memory 1 ≠ 0) := by
  refine ⟨all_ready _ _ (by decide), ?_, ?_, ⟨Or.inl rfl, by decide, by decide, by decide, by decide⟩⟩
  all_goals simp only [addressing, owned, State.Owns]
  all_goals decide

theorem witness_AddressFaults_traps : noFence memory ∧ laneMayTrap memory := ⟨by unfold noFence; decide, rfl, rfl, by decide, rfl⟩

/-- A state in which one access waits. -/
def pending (a : Access) (h : Core → Core := id) : State := memory (fun x => { x with pending := [a] }) id h

def wordAt (l z : Nat) (cached : Bool := false) : LaneAcc := { lane := l, va := z, bytes := (List.range 4).map (z + ·), left := List.range 4, val := 9, cached := cached }
def loading (scratch : Bool) : Access := { kind := .load, scratch := scratch, lanes := [wordAt 0 0x4000, wordAt 31 0x4000], dst := 254, mask := 0x80000001 }
/-- The second word of the same access, with two bytes of its last word held. -/
def halfLoaded : Access := { loading false with lanes := [{ wordAt 0 0x4000 with left := [] }, { wordAt 31 0x4001 with left := [2, 3] }], got := [(0, 1), (248, 7), (249, 8)] }
def storing (scratch : Bool) : Access := { kind := .store, scratch := scratch, lanes := [wordAt 0 0x4000, wordAt 31 0x4002], mask := 0x80000001 }
def cachedLoad : Access := { kind := .load, lanes := [wordAt 31 0x407C true], dst := 255, mask := 0x80000000 }
def inL1 (k : Core) : Core := { k with l1 := [{ line := 0x80, data := [(124, 5)], valid := (0 : BitVec 128) - 1 }] }

theorem witness_AccessesPerformed :
    (∀ a ∈ [loading true, loading false, halfLoaded, storing true, storing false], (pending a).At laneSplit ∧ performs (pending a) a ∧ (∃ x ∈ a.lanes, x.left ≠ []) ∧ a.dst + 1 < 256) ∧
    (plainly (pending (storing true)) (storing true) ∧ (∀ a ∈ [loading false, halfLoaded, storing false], plainly (pending a) a)) ∧
    (∀ a ∈ [cachedLoad, { cachedLoad with kind := .store }], performs (pending a inL1) a ∧ a.lanes = [wordAt 31 0x407C true] ∧ a.mask = BitVec.ofNat 32 (2 ^ 31) ∧ a.got = []) ∧
    ((wordAt 31 0x407C true).va % 4 = 0 ∧ (∀ z ∈ (wordAt 31 0x407C true).bytes, z / 128 = 0x80) ∧
      ((pending cachedLoad inL1).core 0).line? 0x80 = some { line := 0x80, data := [(124, 5)], valid := (0 : BitVec 128) - 1 } ∧ ∀ z ∈ (wordAt 31 0x407C true).bytes, ((0 : BitVec 128) - 1).getLsbD (z % 128) = true) := by
  refine ⟨?_, ⟨Or.inl rfl, ?_⟩, ?_, by decide, ?_⟩
  · simp only [State.At, performs]; decide
  · simp only [List.forall_mem_cons, List.not_mem_nil, false_implies, implies_true, and_true, plainly, atHome]
    exact ⟨Or.inr ⟨unleased_of (by decide), by decide⟩, Or.inr ⟨unleased_of (by decide), by decide⟩, Or.inr ⟨unleased_of (by decide), by decide⟩⟩
  · simp only [performs]; decide
  · repeat' apply And.intro
    all_goals decide

/-- In a slot of its reticle, an uncached access that nothing on the chip can answer waits. -/
theorem witness_AccessesPerformed_waits :
    let s : State := { pending (loading false) with rets := [(0, { live := true, part := some {}, inSlot := true, slotEnd := 9000 })] }
    s.At laneSplit ∧ performs s (loading false) ∧ ∀ x ∈ (loading false).lanes, x.cached = false ∧ ∀ i ∈ x.left, s.homeWaits (s.cur.core / 72) (place x i) = true := by
  simp only [State.At, performs]
  decide

theorem witness_AtomicsIssue :
    (∀ e ∈ [(Instr.atom (lop 255 100 102 1 1 0), [255]), (.ared (lop 0 100 102 2 2 5), [2]), (.atoms (lop 255 100 102 0 0 7), [255]), (.atom (lop 255 100 102 1 1 0x90), [255]), (.atom (lop 255 110 103 1 1 0), [255])], ready memory e.1 e.2) ∧
    (addressing memory true (lop 255 100 102 1 1 0) none ∧ addressing memory false (lop 255 100 102 0 0 7) none ∧ addressing memory true (lop 255 110 103 1 1 0) none) ∧
    (atomicReady memory false (lop 255 100 102 1 1 0) ∧ atomicReady memory true (lop 0 100 102 2 2 5) ∧ atomicReady memory false (lop 255 100 102 0 0 7) ∧ atomicReady memory false (lop 255 100 102 103 1 0x50)) ∧
    (∀ o ∈ [lop 255 100 102 1 1 0, lop 255 110 103 1 1 0], mayIssue memory true o none 4) ∧
    (memory.team? memory.here.team ≠ none ∧ memory.here.pending = [] ∧ address memory true (lop 255 110 103 1 1 0) none 31 % 4 ≠ 0 ∧ laneMayTrap memory) := by
  refine ⟨all_ready _ _ (by decide), ?_, ?_, by unfold mayIssue noFence; decide, ⟨by decide, by decide, by decide, rfl, rfl, by decide, rfl⟩⟩
  all_goals simp only [addressing, atomicReady, owned, State.Owns, fits]
  all_goals repeat' apply And.intro
  all_goals decide

theorem witness_AtomicsIssue_reached :
    (∀ l, l < 32 → (effective memory 1).getLsbD l = true → address memory true (lop 255 100 102 1 1 0) none l % 4 = 0 ∧ reaches memory true (address memory true (lop 255 100 102 1 1 0) none l) 4 .atomic (spread 4 l)) := by
  intro l h e
  rw [one_lane l h e]
  exact ⟨by decide, true, rfl⟩

def updating (scratch : Bool) (lanes : List LaneAcc) (m : Mask) : Access := { kind := .atomic, scratch := scratch, lanes := lanes, dst := 255, mask := m, fmt := 1, op := 1, tag := 8 }

theorem witness_AtomicsPerformed :
    (∀ a ∈ [updating true [wordAt 31 0x4000] 0x80000000, updating false [wordAt 31 0x4000] 0x80000000, { updating true [wordAt 0 0x4000, wordAt 31 0x4000] 0x80000001 with kind := .reduce }],
      (pending a).At laneSplit ∧ performs (pending a) a ∧ (a.kind = .atomic ∨ a.kind = .reduce) ∧ a.op < 8 ∧ a.fmt ≤ 2 ∧ a.dst < 256 ∧ a.size = 4 ∧ a.signed = false ∧ (∃ x ∈ a.lanes, x.left ≠ []) ∧
      ∀ x ∈ a.lanes, x.left = List.range 4 ∧ x.bytes = (List.range 4).map (place x 0 + ·) ∧ place x 0 % 4 = 0) ∧
    plainly (pending (updating false [wordAt 31 0x4000] 0x80000000)) (updating false [wordAt 31 0x4000] 0x80000000) := by
  simp only [State.At, performs, plainly, atHome]
  exact ⟨by decide, Or.inr ⟨unleased_of (by decide), by decide⟩⟩

theorem witness_SpillAndFill :
    (∀ e ∈ [(Instr.ldm (lop 224 100 103 0 0 0x11F), []), (.stm (lop 0 100 103 224 0 0x11F), []), (.ldm (lop 254 104 103 0 4 1), []), (.stm (lop 0 104 103 4 4 1), [])], ready memory e.1 e.2) ∧
    (224 + 32 ≤ memory.budget ∧ 254 + 2 ≤ memory.budget ∧ ∀ j, j < 2 → (memory.laneReg (4 + j)).tag = runTagOf 4 j) := by
  exact ⟨all_ready _ _ (by decide), by decide, by decide, by decide⟩

/-- A run that has transferred its first register. -/
def midRun (addr : Nat := 0x4000) : State := memory (fun x => { x with splits := x.splits.map fun e => (e.1, { e.2 with cursor := 1, runAddr := some addr }) })

theorem witness_SpillAndFill_runs :
    runFrom memory (lop 224 100 103 0 0 0x11F) 0x4000 ∧ runFrom memory (lop 0 104 103 4 4 1) 0x2004000 ∧ runFrom (midRun) (lop 254 104 103 0 4 1) 0x4000 ∧
    runMoves memory false 0x4000 (regRun 0x4000 128) ∧ runMoves memory true 0x2004000 (regRun 0x4000 128) ∧ runMoves (midRun) true 0x4000 (regRun 0x4080 128) := by
  refine ⟨Or.inr ⟨by decide, ?_, by decide, by decide, Or.inr (by decide), ?_⟩, Or.inr ⟨by decide, ?_, by decide, by decide, Or.inr (by decide), ?_⟩, Or.inl rfl, ?_⟩
  all_goals simp only [addressing, owned, State.Owns, lu, runMoves, noFence]
  all_goals repeat' apply And.intro
  all_goals decide

theorem witness_SpillAndFill_reached :
    reaches memory false 0x4000 128 .load (regRun 0x4000 128) ∧ reaches memory true 0x2004000 128 .store (regRun 0x4000 128) ∧ reaches memory true 0x4080 128 .load (regRun 0x4080 128) ∧
    (runFrom (midRun 0x7F80) (lop 254 100 103 0 4 0x101) 0x7F80 ∧ (midRun 0x7F80).runWaits 0x7F80 1 = none ∧ (midRun 0x7F80).scratchSize < 0x7F80 + 128 * (midRun 0x7F80).me.cursor + 128) :=
  ⟨⟨by decide, rfl⟩, ⟨false, rfl⟩, ⟨true, rfl⟩, Or.inl rfl, by decide, by decide⟩

/-! ### Matrix operations and accumulators -/

/-- Fragments of i8 from register 128 and e4m3 from 160, scales from 200; tile 1 is i32, tiles 4 and 5 a pair, tile 6 wide with pool tile 60. -/
def matrix (f : Group → Group := id) : State :=
  memory f id fun k => ((((regs ((List.range 24).map (fun j => (128 + j, { tag := 0x50 })) ++ (List.range 24).map (fun j => (160 + j, { tag := 0x40 })) ++ (List.range 16).map (fun j => (200 + j, { tag := 0x68 })) ++
      (List.range 16).map (fun j => (64 + j, { tag := 0x18 })) ++ (List.range 32).map (fun j => (16 + j, { tag := if j % 2 = 0 then 0x20 else 0x28 })) ++ [(113, u32 0x2000), (114, u32 0x2001), (115, u32 0x7780), (116, u32 0x6F80), (117, { val := .uniform 5, tag := 0x10 })]) k).setTile 1 { info := { tag := 1 } }).setTile 4 { info := { tag := 2, partner := 5 } }).setTile 5 { info := { tag := 2, partner := 4 } }).setTile 6 { info := { tag := 3, partner := 60 } }

def mm (d a b c fmt ext : Nat) : LaneOp := lop d a b c fmt ext 0

theorem witness_MatrixIssue :
    (∀ e ∈ [(Instr.mma (mm 1 128 113 0 10 20), [151, 113]), (.mmas (mm 2 160 113 200 8 16), [183, 113]), (.mma (mm 2 128 113 0 10 20), [151, 113]), (.mma (mm 1 128 114 0 10 20), [151, 114])], ready matrix e.1 e.2) ∧
    (200 + 8 ≤ matrix.budget ∧ ∀ j, j < 8 → (matrix.laneReg (200 + j)).tag = 0x68) ∧ (matrixReady matrix (mm 1 128 113 0 10 20) ∧ matrixReady matrix (mm 2 160 113 200 8 16)) ∧
    (matrix.here.gang.size = 0 ∧ (matrix fun x => { x with gang := { size := 2, members := 32 } }).here.gang.size ≠ 0) ∧
    ((matrix.tile 2).info.tag = 0 ∧ (matrix.tile 1).info.tag = 1 ∧ (lin matrix (effective matrix 0) 114 0 0).toNat % 128 ≠ 0 ∧ laneMayTrap matrix) := by
  refine ⟨all_ready _ _ (by decide), by decide, ?_, by decide, ⟨by decide, by decide, by decide, rfl, rfl, by decide, rfl⟩⟩
  all_goals simp only [matrixReady, owned, fragment, lu, noFence]
  all_goals repeat' apply And.intro
  all_goals first
    | (intro _; decide)
    | decide

/-- The same with the fragment in the latch and its registers rewritten since in another format's tags, no longer read. -/
def latched : State := matrix fun x => { x with latch := some { base := 64, fmt := 10 } }

theorem witness_MatrixIssue_latched : ready latched (.mma (mm 1 64 113 0 10 20)) [87, 113] ∧ matrixReady latched (mm 1 64 113 0 10 20) ∧ hitsLatch latched 10 64 := by
  refine ⟨ready_of_isReady _ _ _ (by decide), ?_, _, rfl, rfl, rfl⟩
  simp only [matrixReady, owned, lu, noFence]
  repeat' apply And.intro
  all_goals first
    | (intro h; exact absurd ⟨_, rfl, rfl, rfl⟩ h)
    | decide

/-- The same with no pool tile. -/
def noPool : State := matrix fun x => { x with accN := 60, poolN := 0 }

theorem witness_AccumulatorMoves :
    (∀ e ∈ [(Instr.accz (mm 59 0 0 0 1 0), []), (.accz (mm 4 0 0 0 3 0), []), (.accz (mm 58 0 0 0 4 0), []), (.accst (mm 1 115 103 0 0 4), []), (.accst (mm 4 116 103 0 0 4), []), (.accst (mm 6 116 103 0 0 4), []), (.accld (mm 1 115 103 0 0 5), []),
      (.accld (mm 4 116 103 0 0 6), []), (.accld (mm 6 116 103 0 0 7), []), (.accld (mm 2 116 103 0 0 7), []), (.accput (mm 59 64 0 117 3 0), [79, 117]), (.accput (mm 4 16 0 117 4 0), [47, 117]), (.siltGet (mm 255 0 0 59 0 0), [255]),
      (.acccvt (mm 59 192 0 10 6 0), [199, 10]), (.acccvt (mm 1 192 0 10 6 0), [199, 10]), (.acccvt (mm 4 192 0 10 4 0), [223, 10])], ready matrix e.1 e.2) ∧
    (tileFree matrix 59 ∧ tileFree matrix 4 ∧ tileFree matrix 58 true ∧ tileFree matrix 4 true ∧ tileFree matrix 1 ∧ tileFree matrix 6 ∧ tileFree matrix 2) ∧
    ((matrix.tile 6).info.tag = 3 ∧ (matrix.tile 6).info.partner.toNat = 60 ∧ (matrix.here.freePool (matrix.core 0)).head? = some 61 ∧ (matrix.tile 2).info.tag = 0 ∧ (matrix.tile 1).info.tag = 1) ∧
    ((matrix.laneReg 117).val.isUniform = true ∧ ltag matrix 117 = tN32 ∧ (∀ j, j < 16 → (matrix.laneReg (64 + j)).tag = runTagOf 3 j) ∧ ∀ j, j < 32 → (matrix.laneReg (16 + j)).tag = runTagOf 4 j) ∧
    (noPool.here.freePool (noPool.core 0) = [] ∧ tileFree noPool 2 ∧ ready noPool (.accld (mm 2 116 103 0 0 7)) [] ∧ laneMayTrap noPool ∧ laneMayTrap matrix) := by
  refine ⟨all_ready _ _ (by decide), ?_, by decide, by decide, by decide, ?_, ready_of_isReady _ _ _ (by decide), ⟨by decide, by decide, by decide, rfl⟩, ⟨by decide, by decide, by decide, rfl⟩⟩
  all_goals simp only [tileFree]
  all_goals repeat' apply And.intro
  all_goals decide

/-- The bytes of an image at `a`. -/
def imageBytes (a n : Nat) : List Nat := (List.range n).map (a + ·)

theorem witness_AccumulatorMoves_images :
    imageAt matrix (mm 1 115 103 0 0 4) 2050 .store (imageBytes 0x7780 2050) ∧ imageAt matrix (mm 4 116 103 0 0 6) 4098 .load (imageBytes 0x6F80 4098) ∧ imageAt noPool (mm 2 116 103 0 0 7) 4098 .load (imageBytes 0x6F80 4098) := by
  simp only [imageAt, addressing, owned, State.Owns, lu, noFence]
  refine ⟨?_, ?_, ?_⟩ <;> refine ⟨?_, by decide, by decide, by decide, by decide, ⟨by decide, List.map_congr_left fun i _ => congrArg (· + i) (by decide)⟩, by decide, fun _ => rfl⟩
  all_goals repeat' apply And.intro
  all_goals decide

/-- One in DRAM, on an uncached page. -/
theorem witness_AccumulatorMoves_dram : ready matrix (.accst (mm 1 104 103 0 0 0)) [] ∧ imageAt matrix (mm 1 104 103 0 0 0) 2050 .store (imageBytes 0x4000 2050) := by
  refine ⟨ready_of_isReady _ _ _ (by decide), ?_⟩
  simp only [imageAt, addressing, owned, State.Owns, lu, noFence]
  refine ⟨?_, by decide, by decide, by decide, by decide, ⟨false, rfl⟩, by decide, by decide⟩
  repeat' apply And.intro
  all_goals decide

/-- The last byte of the sidecar of an image on its way to tile 1, and the two last bytes of a wide one. -/
def imageLoad (d kind n : Nat) (left : List Nat) : Access :=
  { kind := .load, scratch := true, size := n, tile := some (d, kind), lanes := [{ lane := 0, va := 0x1000, bytes := imageBytes 0x1000 n, left := left }], mask := 1 }

theorem imageBytes_nodup (a n : Nat) : (imageBytes a n).Nodup := List.Nodup.map (fun _ _ h => Nat.add_left_cancel h) List.nodup_range

theorem witness_AccumulatorMoves_performed :
    ∀ e ∈ [(1, 1, 2050, [2049]), (6, 3, 4098, [4096, 4097]), (4, 2, 4098, [4097])],
      let a := imageLoad e.1 e.2.1 e.2.2.1 e.2.2.2
      let s := matrix fun x => { x with pending := [a] }
      s.here.pending[s.cur.idx]? = some a ∧ e.2.2.2.Nodup ∧ (∀ i ∈ e.2.2.2, i < a.size) ∧ a.size = (if e.2.1 < 2 then 2050 else 4098) ∧ plainly s a ∧ e.1 < s.here.workTiles ∧
        ((s.tile e.1).info.tag = 2 ∨ e.2.1 = 2 → e.1 % 2 = 0 ∧ e.1 + 1 < s.here.workTiles) := by
  simp only [List.forall_mem_cons, List.not_mem_nil, false_implies, implies_true, and_true]
  refine ⟨⟨rfl, by decide, by decide, rfl, Or.inl rfl, by decide, by decide⟩, ⟨rfl, by decide, by decide, rfl, Or.inl rfl, by decide, by decide⟩, ⟨rfl, by decide, by decide, rfl, Or.inl rfl, by decide, by decide⟩⟩

/-! ### Steps of cores, matrix units and engines -/

/-- A split that waits, and its state. -/
def waits (w : Wait) : Split := { split0 with ctl := .blocked w }
def waitsAt (y : Split) (f : Group → Group := id) (k : Core → Core := id) : State :=
  ({ (st y (fun x => f { x with batch := 3, ended := 2, tokens := [(8, true)], token := 9 }) id k) with cur := { team := 1 } }).setBar 1 16 { phase := 5 }

theorem witness_CoreAndWaitSteps_waits :
    ((waitsAt (waits (.bar 16 4))).At (waits (.bar 16 4)) ∧ behind ((waitsAt (waits (.bar 16 4))).bar 1 16).phase 4) ∧
    ((waitsAt (waits (.tok 8))).At (waits (.tok 8)) ∧ ∀ e ∈ (waitsAt (waits (.tok 8))).here.tokens, e.1 = 8 → e.2 = true) ∧
    ((waitsAt (waits (.batch 1))).At (waits (.batch 1)) ∧ behind (waitsAt (waits (.batch 1))).here.ended 1 ∧ ∀ i, i < 60 → ((waitsAt (waits (.batch 1))).tile i).info.pend = false) ∧
    ((waitsAt (waits (.yld 0x20000 true))).At (waits (.yld 0x20000 true)) ∧ ∀ m ∈ [false, true], let s := waitsAt (waits (.engine 5 0x20000 m))
      s.At (waits (.engine 5 0x20000 m)) ∧ s.jobLives 5 = false ∧ s.here.failed = []) := by
  simp only [State.At, behind]
  exact ⟨by decide, ⟨by decide, every (by decide)⟩, ⟨by decide, by decide, fun _ _ => rfl⟩, by decide⟩

/-- A tile that crossed its threshold. -/
def crossed : State := waitsAt (waits (.batch 1)) id fun k => k.setTile 59 { info := { pend := true } }
/-- Two splits that wait at one `merge`. -/
def merging : State := waitsAt (waits (.merge 0x10000)) fun x => { x with splits := x.splits ++ [(3, { waits (.merge 0x10000) with active := 0 })], pending := [{ kind := .load, split := 0, before := [3] }] }

theorem witness_CoreAndWaitSteps_joins :
    (crossed.At (waits (.batch 1)) ∧ behind crossed.here.ended 1 ∧ (crossed.tile 59).info.pend = true ∧ 59 < crossed.here.workTiles ∧ crossed.here.splits = [(crossed.cur.split, waits (.batch 1))] ∧ (waits (.batch 1)).inHandler = false ∧
      crossed.handler crossed.cur.core crossed.myTeam.lrec.lbase = .ok 0x18000 ∧ crossed.trapWaits crossed.cur.core crossed.cur.slot crossed.cur.split = false) ∧
    (merging.At (waits (.merge 0x10000)) ∧ merging.here.splits = (0, waits (.merge 0x10000)) :: [(3, { waits (.merge 0x10000) with active := 0 })] ∧ (∀ e ∈ merging.here.splits, e.2.ctl = .blocked (.merge split0.pc)) ∧ (merging.here.splits.map Prod.fst).Nodup ∧ (∀ e ∈ merging.here.splits, e.1 < 4) ∧
      merging.here.pending.map (fun a => (List.range 4).map a.of) = [[true, false, false, true]]) := by
  refine ⟨⟨rfl, ?_, ?_, ?_, rfl, rfl, rfl, by decide⟩, rfl, rfl, ?_, ?_, ?_, ?_⟩
  · unfold behind; decide
  all_goals decide

/-- Splits that are parked in each stream, and one whose trap waits, outside and inside its handler. -/
def parkedSplit : Split := { split0 with ctl := .parked }
def laneParkedSplit : Split := { split0 with laneParked := true }
def dueSplit : Split := { split0 with trapDue := some { cause := 4 } }
/-- A line that a core of another reticle leases. -/
def leased : State := st split0 id id id fun x => { x with slices := [(sliceOf 0x4000, { lines := [(0x80, { lessee := some 500 })] })] }

theorem witness_CoreAndWaitSteps_parks :
    (st parkedSplit).At parkedSplit ∧ quiet (st parkedSplit) ∧ (st parkedSplit).cur.idx = 0 ∧
    let s : State := { st laneParkedSplit with cur := { team := 1, idx := 1 } }
    s.At laneParkedSplit ∧ s.here.outstanding s.cur.split = false ∧ laneParkedSplit.laneParked = true := by
  simp only [State.At, quiet]
  decide

theorem witness_CoreAndWaitSteps :
    (∀ y ∈ [dueSplit, { dueSplit with inHandler := true }], (st y).At y ∧ (st y).trapWaits 0 0 0 = false ∧ (st y).team? 1 ≠ none ∧ (st y).myTeam.core = 0) ∧
    (st dueSplit).handler 0 (st dueSplit).myTeam.lrec.lbase = .ok 0x18000 ∧
    ((st (waits (.yld 0x20000 false))).At (waits (.yld 0x20000 false)) ∧ (st (waits (.yld 0x20000 false))).here.team = 1 ∧ (waits (.yld 0x20000 false)).waitSince = 0) ∧
    ((∀ e ∈ (st split0).walked 0 0x4000, (st split0).homeWaits 0 e.2.1 = false) ∧ unleased (st split0)) ∧
    ((leased.lineTag (leased.fa 0 (0x80 * 128))).lessee = some 500 ∧ leased.lost (leased.fa 0 (0x80 * 128)) = false ∧ laneMayTrap lanes ∧ mayTrap (st split0) split0) := by
  refine ⟨by simp only [State.At]; decide, rfl, ⟨rfl, rfl, rfl⟩, ⟨by decide, unleased_of (by decide)⟩, by decide, by decide, lanes_may_trap, rfl, rfl, by decide, rfl, rfl⟩

/-- A trap waits for a load of its split, and a walk for the slot of the reticle to end. -/
theorem witness_CoreSteps_waiting :
    (let s : State := st dueSplit (fun x => { x with pending := [{ kind := .load, lanes := [{ lane := 0, bytes := [0x4000], left := [0] }] }] });
      State.At s dueSplit ∧ s.trapWaits s.cur.core s.cur.slot s.cur.split = true) ∧
    (let s : State := st split0 id id (fun k => { k with tlb := [] }) (fun x => { x with inSlot := true, slotEnd := 9000 });
      (∃ e ∈ s.walked 0 0x4000, s.homeWaits 0 e.2.1 = true) ∧ (s.core 0).tlb = []) := by
  simp only [State.At]
  decide

/-- A gang of groups 0 and 1 in slots 0 and 3. -/
def member (slot gid panel : Nat) : GangOp := { slot := slot, gid := gid, team := 1, gang := { size := 2, members := 32 }, panel := panel }
def meeting (p : Nat) : State := st split0 id id fun k => { k with groups := k.groups ++ [(3, { group0 with gid := 1 })], held := [member 0 0 0, member 3 1 p] }
/-- An i8 operation on tile 59, running. -/
def running : GangOp := { team := 1, tile := 59, fmt := 10, bf := 10, started := true, buffer := List.replicate (384 * 64) 1 }
def multiplying (skip : Bool) : State := st split0 id id fun k => { k with mxq := [[{ running with buffer := [] }]] } |>.setTile 59 { info := { tag := 1, skip := skip } }

theorem witness_MatrixSteps :
    (∀ p ∈ [0, 128], ((meeting p).core 0).held = member 0 0 0 :: [member 3 1 p] ∧ 0 ∈ ([member 0 0 0, member 3 1 p]).map GangOp.slot ∧ (([member 0 0 0, member 3 1 p]).map GangOp.gid).Pairwise (· < ·) ∧ (([member 0 0 0, member 3 1 p]).map GangOp.slot).Nodup ∧
      ∀ x ∈ [member 0 0 0, member 3 1 p], x.team = 1 ∧ x.gang.seq = 0 ∧ x.gang.list.Nodup ∧ x.gang.list = [0, 1] ∧ (meeting p).group? 0 x.slot ≠ none) ∧
    (∀ b, ((multiplying b).core 0).mxq = [{ running with buffer := [] }] :: [] ∧ (multiplying b).group? 0 0 ≠ none ∧ (((multiplying b).core 0).tile 59).info.tag = 1 ∧ (((multiplying b).core 0).tile 59).info.skip = b) ∧
    (running.started = true ∧ running.fmt = 10 ∧ running.bf = 10 ∧ running.scaled = false ∧ running.buffer.length = 384 * 64) :=
  ⟨by decide, by decide, rfl, rfl, rfl, rfl, List.length_replicate⟩

/-- A copy of 64 bytes within the scratchpad, with its completion. -/
def copying (c : Completion) (x : Job → Job := id) : Job := x { id := 5, cmd := 0, var := 3, team := 1, words := [0x100, 0, 0x7FC0, 0, 64, 1, 0, 0, 1, 0, 0], compl := c }
def engaged (j : Job) (h : Group → Group := id) : State :=
  { (st split0 (fun x => h { x with tokens := [(9, false)] }) (fun x => { x with jobs := 1 }) (fun k => { k with jobs := [{ id := 4, cmd := 6 }, j] }) fun r => { r with slotAt := 31200 }) with cur := { team := 1, idx := 5 } }
def remote : Job := copying (.token 9) fun j => { j with cmd := 3 }
def landing (c : Completion) : Job := copying c fun j => { j with flight := [{ pieces := [(0, .scratch 1, 0x7FC0, [1, 2])] }] }
def reading : Job := copying (.token 9) fun j => { j with flight := [{ lo := 0, hi := 64, reads := [(0, 64)] }] }
def finished (e : Option JobError) : Job := copying (.token 9) fun j => { j with pos := 64, error := e }

theorem witness_EngineSteps :
    (∀ j ∈ [remote, copying (.token 9), reading, landing (.token 9), landing (.barrier 16 0), finished none, finished (some { reason := 3 })], jobAt (engaged j) j) ∧
    (3 ≤ remote.cmd ∧ remote.cmd ≤ 5 ∧ remote.error = none ∧ remote.forwarded = false ∧ (((engaged remote).retJobs 0).filter fun e => e.2.remote && e.2.forwarded).length < 1024) ∧
    (let s := engaged (copying (.token 9))
      let j := copying (.token 9)
      j.cmd = 0 ∧ j.error = none ∧ j.pos < word j.words 4 * word j.words 5 * word j.words 8 ∧ (s.ret 0).inSlot = false ∧ s.now + 2000 < (s.ret 0).slotAt ∧ ((s.core 0).jobs.filter fun k => decide (0 < k.pos)).length < 4) ∧
    (let s := engaged reading
      let j := reading
      j.var = 3 ∧ word j.words 4 = 64 ∧ word j.words 5 = 1 ∧ word j.words 8 = 1 ∧ word j.words 0 = 0x100 ∧ word j.words 2 = 0x7FC0 ∧ 0x100 + 64 ≤ (s.team 1).lrec.scratch * 4096 ∧ (s.team 1).lrec.scratch ≤ 256 ∧ (s.team 1).saved = none ∧
        j.flight = [{ lo := 0, hi := 64, reads := [(0, 64)] }]) ∧
    (∀ k ∈ [Completion.token 9, .barrier 16 0], let s := engaged (landing k)
      (landing k).cmd ≤ 2 ∧ (landing k).overlaps = false ∧ (landing k).flight = [{ pieces := [(0, .scratch 1, 0x7FC0, [1, 2])] }] ∧ s.team? 1 ≠ none ∧ (s.team 1).stage = .resident ∧ (s.team 1).saved = none ∧
        0x7FC0 + 2 ≤ (s.team 1).lrec.scratch * 4096 ∧ (s.team 1).scratchBase + (s.team 1).lrec.scratch * 4096 ≤ 2 ^ 20 ∧ (s.bar 1 16).phase.toNat % 2 = 0 ∧ countable s 1 16 ∧ -(2 ^ 39 : Int) ≤ (s.bar 1 16).bal - 2) := by
  simp only [jobAt, countable]
  refine ⟨?_, ?_, ?_, ?_, ?_⟩ <;> decide

theorem witness_EngineSteps_ends :
    ∀ e ∈ [none, some { reason := 3 }], let s := engaged (finished e)
      let j := finished e
      j.cmd ≤ 2 ∧ j.compl = .token 9 ∧ j.issued = [] ∧ j.cards = [] ∧ j.tokens = [] ∧ s.team? 1 ≠ none ∧ (s.team 1).stage = .resident ∧ (s.team 1).core = 0 ∧ s.slotOf 1 j.gid = some 0 ∧ j.error = e ∧ j.flight = [] ∧ j.pos = s.jobCount j := by
  decide

/-- A collective of two ranks whose contributions to unit 0 have come to their owner. -/
def chunk (rank : Nat) : Packet := { payload := List.replicate 128 0x3F, coll := some { rank := rank, unit := 0 } }
def folding : State :=
  st split0 id (fun x => { x with lrec := { x.lrec with nx := 2 } }) (fun k => { k with jobs := [{ id := 5, cmd := 6, team := 1, words := [0x1000, 0, 128, 0, 0, 2, 0, 0] }] }) fun r => { r with colls := [{ core := 0, job := 5, team := 1, parts := [chunk 0, chunk 1] }] }

theorem witness_EngineSteps_units :
    ∃ j x, folding.job? 0 5 = some j ∧ folding.coll? 0 5 = some x ∧ j.error = none ∧ x.parts = chunk 0 :: [chunk 1] ∧ (folding.planOf j).ty = 0 ∧ (folding.planOf j).red = 0 ∧ (folding.planOf j).p = [chunk 1].length + 1 ∧
      (([chunk 0, chunk 1]).mapIdx fun i k => (i, k)).all (fun e => e.2.coll.any fun g => decide (g.unit = 0) && decide (g.rank = e.1)) = true ∧ ∀ k ∈ [chunk 0, chunk 1], k.payload.length = 128 := by
  refine ⟨_, _, rfl, rfl, rfl, rfl, ?_, ?_, ?_, ?_, ?_⟩
  all_goals decide

/-- A drain of one team's own rank set, swept once, with as many sent as done or not. -/
def sweeping (n : Nat) (asked : Bool := false) (l : List (Nat × Nat × Nat) := []) : Detect := { grid := 1, members := [1], last := some (4, n), asked := asked, answers := l }
def draining (n : Nat) (d : Detect := sweeping n) : State :=
  { st split0 id fun x => { x with snt := 4, don := BitVec.ofNat 48 n, drainSet := some { addr := 16, groups := [0] } } with detects := [d], ring := [(ringPos 0 0, 0, 0)] }

theorem witness_DrainsAndGridBarriers :
    (∀ n ∈ [3, 4], (draining n).cur.pkt = none ∧ (draining n).detects[0]? = some (sweeping n) ∧ (draining n).busesOk 0 ((draining n).sweepRets (sweeping n)) = true ∧ (draining n).sweepWafers (sweeping n) = [] ∧ (draining n).sweepSums (sweeping n) = (4, n)) ∧
    ((draining 4).team? 1 ≠ none ∧ ((draining 4).team 1).drainSet = some { addr := 16, groups := [0] } ∧ ((draining 4).team 1).stage = .resident ∧ ((draining 4).bar 1 16).arrived + ((draining 4).team 1).lrec.groups < 256) := by
  decide +kernel

theorem witness_DrainsAndGridBarriers_countable : countable (draining 4) 1 16 := by
  unfold countable
  exact ⟨by decide, by decide⟩

/-- A grid of two teams, with no barrier, one that waits for the other, and one of three; its team 0 is at home here. -/
def gridAt (b : List GridBar) (h : Reticle → Reticle := id) : State :=
  { st split0 id (r := h) fun x => { x with gbar := some 16, lrec := { x.lrec with nx := 2 } } with gbars := b, ring := [(ringPos 0 0, 0, 0)] }
def collected (n : Nat) : GridBar := { grid := 1, total := n, arrived := [7] }

theorem witness_DrainsAndGridBarriers_grid :
    (gridAt []).team? (gridAt []).cur.team = some (gridAt []).myTeam ∧ (gridAt []).myTeam.gbar = some 16 ∧ (gridAt []).myTeam.stage = .resident ∧ (gridAt []).homeOf 0 0 (gridAt []).myTeam.lrec = some ((gridAt []).wafer, 0) ∧
      2 ≤ (gridAt []).myTeam.lrec.nx * (gridAt []).myTeam.lrec.ny * (gridAt []).myTeam.lrec.nz ∧ (gridAt []).bypassed 0 = false ∧ (gridAt [] fun x => { x with bypass := 1 }).bypassed 0 = true ∧
      ((List.range 16).map fun i => ({ grid := 2 + i, total := 2 } : GridBar)).length = 16 ∧ (gridAt ((List.range 16).map fun i => { grid := 2 + i, total := 2 })).barRoom 1 0 = false := by
  refine ⟨rfl, rfl, rfl, ?_, by decide, by decide, by decide, by decide, by decide⟩
  decide +kernel

theorem witness_DrainsAndGridBarriers_collected :
    (collected 2).grid = (gridAt [collected 2]).myTeam.lrec.grid ∧ (collected 2).part = (gridAt [collected 2]).myTeam.lrec.part ∧ (collected 2).release = [] ∧ (collected 2).away = [] ∧
      (collected 2).arrived.length + 1 = (collected 2).total ∧ (collected 3).arrived.length + (collected 3).away.length + 1 < (collected 3).total ∧
      (gridAt [collected 2]).busesOk 0 ((((collected 2).arrived ++ [1]).map fun u => ((gridAt [collected 2]).team u).core / 72).eraseDups) = true ∧
      (∀ b ∈ (gridAt [collected 2]).gbars, b.release.Nodup) ∧ ∀ e ∈ (gridAt []).cores, ∀ k ∈ e.2.jobs, k.cmd ≠ 7 := by
  decide +kernel

/-- Of a partition on wafers 0 and 5, only wafer 5 has a core on the ring: the maps of other wafers are the configuration's. -/
def spanning (d : Detect := sweeping 4) : State := { draining 4 d with ring := [], rets := [(0, { live := true, part := some { wafers := [0, 5] } })] }

theorem witness_DrainsAndGridBarriers_far (h : Config.partCores 5 0 = [0]) :
    (spanning).homeOf 0 0 (spanning).myTeam.lrec = some (5, 0) ∧ (spanning).wafer = 0 ∧ ∀ d ∈ [sweeping 4, sweeping 9 true [(5, 5, 5)], sweeping 8 true [(5, 5, 5)]], (spanning d).busesOk 0 ((spanning d).sweepRets d) = true ∧ (spanning d).sweepSums d = (4, 4) := by
  refine ⟨?_, rfl, by decide +kernel⟩
  have e : (spanning).ringOf 0 = [(ringPos 5 0, 5, 0)] := by
    unfold State.ringOf
    rw [show ((spanning).waferSet 0).filter (fun w => decide (w ≠ (spanning).wafer)) = [5] from by decide]
    simp only [List.flatMap_cons, List.flatMap_nil, h]
    rfl
  unfold State.homeOf State.ownerPlace State.ownerAt
  rw [e]
  decide +kernel

/-! ### Launches and schedulers -/

/-- A group whose last split has ended, and a team whose groups have all ended, one of `n` that are left. -/
def lastSplit : State := st split0 fun x => { x with done := true, splits := [] }
def lastGroup (n : Nat) : State := { st split0 fun x => { x with done := true, finished := true, splits := [] } with launches := [(0, { left := n })] }

theorem witness_LaunchesAndEnds_ends :
    (∃ x, lastSplit.group? 0 0 = some x ∧ x.done = true ∧ x.finished = false ∧ x.pending = [] ∧ x.fences = [] ∧ (lastSplit.core 0).opsOf 0 = [] ∧ (lastSplit.core 0).held = []) ∧
    ((lastGroup 2).teamOver 1 = true ∧ ((lastGroup 2).team 1).stage = .resident ∧ ((lastGroup 2).team 1).held = [] ∧ ((lastGroup 2).team 1).byFault = false ∧ aget (lastGroup 2).launches 0 = some { left := 2 }) ∧
    ((lastGroup 1).teamOver 1 = true ∧ aget (lastGroup 1).launches 0 = some { left := 1 } ∧ calm (lastGroup 1) 0) :=
  ⟨⟨_, rfl, by decide⟩, by decide, rfl, rfl, calm_of (r := 0) (by decide +kernel) (plain (by decide +kernel) (by decide +kernel)) (by decide +kernel)⟩

/-- A launch record of one team of one group: entry 0x10000, lane section 0x20000, one group with 16 registers and a tile. -/
def record0 : LaunchRec := { part := 0, cls := 1, roles := [0x00000841, 0, 0, 0], scratch := 1, nx := 1, ny := 1, nz := 1, count := 1, entry := 0x10000, lbase := 0x20000, args := List.replicate 8 7 }

/-- Reticle 0 with a queue of one record at 0x400000, a page table at 0x10000 that maps the first 32 MiB, and core 0 on the ring. -/
def launching (r : LaunchRec) : State :=
  let s := st split0 id id id fun x => { x with xlatRoot := 0x10001, lq0 := { en := true, log2n := 4, tail := 1, base := 0x400000 }, defect := { live := true, enabled := 1 } }
  let put (s : State) (a n : Nat) : State := writeN State.setMem s a (bytesLE 8 n)
  writeN State.setMem (put (put (put (put { s with mem := [], ring := [(ringPos 0 0, 0, 0)] } 0x10000 0x20001) 0x20000 0x30001) 0x30000 0x3B) 0x1FFD0 0x100000000) 0x400000 r.bytes

theorem witness_LaunchesAndEnds_records (r : LaunchRec) (h : r = record0 ∨ r = { record0 with count := 0 }) :
    ((launching r).ret 0).serving = none ∧ ((launching r).ret 0).topQueue = some 0 ∧ plainBytes (launching r) ((((launching r).ret 0).lq 0).slot 128 0) 128 ∧ calm (launching r) 0 := by
  rcases h with h | h
  all_goals
    subst h
    exact ⟨by decide +kernel, by decide +kernel, plain (by decide +kernel) (by decide +kernel), calm_of (r := 0) (by decide +kernel) (plain (by decide +kernel) (by decide +kernel)) (by decide +kernel)⟩

theorem witness_LaunchesAndEnds_read :
    natLE (readN (launching record0).memByte 0x400000 128) = natLE record0.bytes ∧ (launching record0).checkRecord 0 (natLE record0.bytes) = .ok [(0, 0, 0)] ∧
    natLE (readN (launching { record0 with count := 0 }).memByte 0x400000 128) = natLE ({ record0 with count := 0 } : LaunchRec).bytes ∧ badField (natLE ({ record0 with count := 0 } : LaunchRec).bytes) = some 160 :=
  ⟨by decide +kernel, ok_of (by decide +kernel), by decide +kernel, by decide +kernel⟩

/-- The same within a slot, with nothing in core 0's TLB: its page table is in DRAM. -/
def walking : State :=
  let s := launching record0
  { s with rets := s.rets.map fun e => (e.1, { e.2 with inSlot := true, slotEnd := 9000 }), cores := s.cores.map fun e => (e.1, { e.2 with tlb := [] }) }
theorem witness_CoreAndWaitSteps_walks : (∃ e ∈ walking.walked 0 0x4000, walking.homeWaits 0 e.2.1 = true) ∧ ∀ e ∈ (walking.core 0).tlb, e.hits (walking.partOf 0) 0x4000 = false := by
  decide +kernel

/-- Team 2 of this record in a stage, one of two teams of its launch, entered in cluster 0; team 1 runs on core 0. -/
def second (r : LaunchRec) (h : Team → Team := id) (k : Core → Core := id) (c : Cluster := { entries := [2] }) : State :=
  let s := st split0 id id k fun x => { x with serving := some 3, unsent := [2], clusters := [(0, c)], defect := { live := true, enabled := 15 }, saveSize := 16, saveBase := 0x800000, preemptWin := 9 }
  { s with teams := s.teams ++ [(2, h { lrec := r })], launches := [(0, { left := 2 })], now := 100000 }

theorem witness_LaunchesAndEnds_entries :
    (let s := second record0 fun x => { x with stage := .held };
      (s.ret 0).serving = some 3 ∧ (s.ret 0).unsent = 2 :: [] ∧ s.team? 2 = some { lrec := record0, stage := .held } ∧ s.entriesAt 0 0 < 64 ∧ record0.tooBig (s.core 0) 1 = none) ∧
    (let s := second record0 id id {};
      s.team? 2 = some { lrec := record0 } ∧ (s.team 2).stage = .entry ∧ retOf (s.team 2).home = 0 ∧ (s.ret 0).answers = true ∧ 2 ∉ (s.cluster 0 0).entries ∧ record0.tooBig (s.core 0) 1 = none) ∧
    (let r := { record0 with scratch := 300 };
      r.tooBig ((second r).core 0) 1 = some 384 ∧ calm (second r) 0) := by
  refine ⟨by decide +kernel, by decide +kernel, by decide +kernel, calm_of (r := 0) (by decide +kernel) (plain (by decide +kernel) (by decide +kernel)) (by decide +kernel)⟩

/-- Team 2 is an entry that core 0 can take beside team 1 where team 1 leaves registers free. -/
def fewer (k : Core) : Core := { k with groups := k.groups.map fun e => (e.1, { e.2 with regN := 32 }) }
/-- The ring of the one core, for a team that goes to another wafer and for one that comes from there. -/
def ringed (s : State) : State := { s with ring := [(ringPos 0 0, 0, 0)] }
theorem witness_LaunchesAndEnds_wafers :
    (let s := ringed (second record0 fun x => { x with stage := .away });
      (s.ret 0).serving = some 3 ∧ (s.ret 0).unsent = 2 :: [] ∧ s.team? 2 = some { lrec := record0, stage := .away } ∧ s.ownerPlace record0.part (record0.key 0) = some (0, 0)) ∧
    (let s := ringed (second record0);
      let r := LaunchRec.ofNat (natLE record0.bytes);
      s.owner r.part (r.key 1) = some 0 ∧ s.entriesAt 0 0 < 64 ∧ (s.ret 0).answers = true ∧ s.nextId ∉ (s.cluster 0 0).entries ∧ r.tooBig (s.core 0) 1 = none) := by
  decide +kernel

theorem witness_LaunchesAndEnds_admission :
    (second record0 id fewer).choice 0 = some 2 ∧ ((second record0 id fewer).place? 0 record0).map (fun p => (p.slots, p.regs, p.accs, p.page)) = some ([1], [2], [64], 8) ∧ record0.groupRoles = [(0, 0x00000841)] ∧
      (∀ e ∈ ((second record0 id fewer).core 0).groups, e.2.team ≠ 2) ∧ record0.args.length ≤ roleRegs 0x00000841 * 16 := by
  decide +kernel

/-- Of the launch of team 1, team 2 holds storage on core 2 and waits. -/
def holding : State := { second record0 fun x => { x with core := 2 } with cores := [(2, { groups := [(0, { team := 2 })] })] }
theorem witness_LaunchesAndEnds_holds : holding.launchTeams 0 = [1, 2] ∧ (holding.team 1).core ≠ (holding.team 2).core ∧ (holding.team 2).stage = .entry ∧ holding.placed 2 = true ∧ (holding.core 2).reserve = none := by
  decide +kernel

/-- The holding of team 2 on core 2 when its time is over. -/
theorem witness_SchedulingAndProbes_holdings :
    let s : State := { second { record0 with cls := 0 } (fun x => { x with core := 2, home := 2 }) with cores := [(2, { groups := [(0, { team := 2 })] })], launches := [(0, { left := 2, timedOut := true })], cur := { core := 2 } };
    s.staleReserve 2 = false ∧ s.heldDue 2 = some 2 ∧ (s.team 2).core = 2 := by
  decide +kernel

theorem witness_SchedulingAndProbes_reservations :
    (second record0 id fun k => { k with reserve := some { team := 1 } }).staleReserve 0 = true ∧
    ((second record0 id fewer).staleReserve 0 = false ∧ (second record0 id fewer).heldDue 0 = none ∧ (second record0 id fewer).misfitNow 0 = none) ∧
    (∀ z ∈ [100000, 95904], let s := second { record0 with roles := [0x000003C1 + 0x400, 0, 0, 0], prio := 1, scratch := 100 } id fun k => { k with l1ways := 12, misfit := some (2, z) };
      s.staleReserve 0 = false ∧ s.heldDue 0 = none ∧ s.misfitNow 0 = some 2 ∧ (s.core 0).misfit = some (2, z) ∧ (s.core 0).reserve = none) ∧
    (∀ p ∈ [0, 1], let s := second { record0 with prio := p, scratch := 100 } id fun k => { k with l1ways := 12, reserve := some { team := 2, since := 95904 } };
      (s.core 0).reserve = some { team := 2, since := 95904 } ∧ s.placed 2 = false ∧ s.fits 0 2 = false ∧ (s.team 2).lrec.prio = p) := by
  decide +kernel

/-- Team 1 at a blocking point, one request short of what the reserved team of higher priority needs. -/
def stuck (k : Core) : Core := { k with groups := k.groups.map fun e => (e.1, { e.2 with tokens := [(9, false)], splits := [(0, waits (.tok 9))] }) }
def asking2 (cls : Nat) : State :=
  let s := second { record0 with prio := 1, scratch := 60 } id fun k => stuck { k with l1ways := 12, reserve := some { team := 2, since := 95904 } }
  { s with teams := s.teams.map fun e => if e.1 = 1 then (1, { e.2 with lrec := { e.2.lrec with cls := cls } }) else e }
theorem witness_SchedulingAndProbes_asks :
    ∀ c ∈ [0, 1], (asking2 c).fits 0 2 = false ∧ (asking2 c).placed 2 = false ∧ (asking2 c).askable 0 0 = 1 :: [] ∧ ((asking2 c).team 1).lrec.cls = c ∧
      ((asking2 c).placeWithout 0 ((asking2 c).team 2).lrec (((asking2 c).core 0).teamsOn.filter fun v => ((asking2 c).team v).request.isSome)).isNone = true ∧ ((asking2 c).team 1).request = none ∧ ((asking2 c).team? 1).isSome = true := by
  decide +kernel

theorem witness_SchedulingAndProbes_repeats :
    (let s := { second { record0 with scratch := 60 } (fun x => { x with stage := .evicted }) (fun k => stuck { k with l1ways := 12 }) {} with cur := { team := 2 } };
      (s.team 2).stage = .evicted ∧ s.wakes 2 = true ∧ s.fits (s.homeNow 2) 2 = false ∧ s.askable (s.homeNow 2) 0 = [1]) := by
  decide +kernel

/-- Cluster 1, without candidates; its turn to ask; cluster 0 holds the entry that it may take. -/
def idle (f : Cluster → Cluster) : State :=
  let s := second record0
  { s with cur := { ret := 0, idx := 1 } }.modRet 0 fun x => { x with clusters := [(0, { entries := [2] }), (1, f {})] }

theorem witness_SchedulingAndProbes_donation :
    ((idle id).clusterIdle 0 1 = true ∧ (idle id).clusterIdle 0 0 = false ∧ ((idle id).cluster 0 1).idleSince = none) ∧
    (let s := idle fun x => { x with idleSince := some 98976 };
      s.clusterIdle 0 1 = true ∧ (s.cluster 0 1).idleSince = some 98976 ∧ 98976 + 1024 ≤ s.now ∧ (s.cluster 0 1).asking = false ∧ s.askOrder 0 1 = 0 :: []) ∧
    ((idle id).stealable 0 0 1 = [2] ∧ (idle id).team? 2 ≠ none) ∧
    (((idle id).askOrder 0 1).length ≤ ((idle id).cluster 0 1).askRound + 1 ∧ ((idle id).ret 0).answers = true) ∧
    (let s : State := { idle id with teams := [(2, { lrec := record0, core := 2 })] };
      (s.team 2).stage = .entry ∧ (s.team 2).core = 0 * 72 + 2 * 1 ∧ 2 ∉ (s.cluster 0 1).entries) := by
  decide +kernel

/-- Two more clusters to ask. -/
theorem witness_SchedulingAndProbes_rounds :
    let s := (idle id).modRet 0 fun x => { x with defect := { live := true, enabled := 0x3F } }
    (s.cluster 0 1).askRound + 1 < (s.askOrder 0 1).length := by
  decide +kernel

/-- Team 1 without storage but its group, asked to leave, waiting for a token of the job that its core runs. -/
def leaving (h : Team → Team := id) (y : Split := waits (.tok 9)) : State :=
  let s := st y (fun x => { x with regN := 0, accN := 0, poolN := 0, tokens := [(9, false)] }) (fun x => h { x with lrec := { x.lrec with scratch := 0, cls := 1 }, request := some { source := 2 } })
    (fun k => { k with jobs := [{ id := 5, team := 1, compl := .token 9 }] }) fun x => { x with saveSize := 16, saveBase := 0x800000, preemptWin := 9 }
  { s with now := 2 ^ 24, probes := [{ id := 3, team := 1, copies := 2 }] }

theorem witness_SchedulingAndProbes_leaves :
    (leaving.mayEvict 1 = true ∧ (leaving.team 1).lrec.cls ≠ 0 ∧ rising 0 (leaving.core 0).groups = true ∧ (∀ e ∈ leaving.groupsOf 1, e.2.pending = []) ∧ (∀ e ∈ (leaving.core 0).l1, e.dirty = 0) ∧
      leaving.saveRun (leaving.saveRet 1) (saveUnits (leaving.saveImage (leaving.team 1) (leaving.context 1))) = some 0 ∧ bitsOf (leaving.ret (leaving.saveRet 1)).saveBase.toNat 55 16 * 65536 = 0x800000) ∧
    ({ leaving fun x => { x with idem := true } with rets := [(0, { live := true, part := some {} })] }.mayStop 1 = true ∧
      let s : State := { leaving (fun x => { x with abandoned := true }) with cores := [(0, { groups := [(0, { team := 1 })] })] };
      s.mayStop 1 = false ∧ s.mayRestart 1 = true ∧ (s.team 1).stage = .resident ∧ (s.team 1).lrec.cls ≠ 0 ∧ (s.team 1).held = []) ∧
    (let s := leaving id split0;
      s.overdue 1 = true ∧ (s.team 1).request = some { source := 2 } ∧ (busyGroup s 1 { source := 2 }).map Prod.fst = some 0 ∧ ((busyGroup s 1 { source := 2 }).bind (busySplit s 1)).map Prod.fst = some 0) := by
  decide +kernel

theorem witness_SchedulingAndProbes_save : plainBytes leaving 0x800000 (leaving.saveImage (leaving.team 1) (leaving.context 1)).length ∧ calm (leaving id split0) 0 :=
  ⟨plain (by decide +kernel) (by decide +kernel), calm_of (r := 0) (by decide +kernel) (plain (by decide +kernel) (by decide +kernel)) (by decide +kernel)⟩

/-- Team 2 comes back, afresh or with what was saved of it. -/
def savedTeam : SavedTeam := { groups := [{ team := 2, regN := 16, accN := 1, splits := [(0, split0)] }], regs := [[u32 7]], tiles := [[]], scratch := [(4095, 9)] }
def returning (v : Option SavedTeam) : State := second record0 (fun x => { x with stage := .evicted, saved := v, saveAt := v.map fun _ => (0x800000, 1) }) fewer {}

theorem witness_SchedulingAndProbes_returns :
    (∀ v ∈ [none, some savedTeam], (returning v).choice 0 = some 2 ∧ ((returning v).team 2).stage = .evicted ∧ ((returning v).place? 0 record0).isSome = true ∧ ∀ e ∈ ((returning v).core 0).groups, e.2.team ≠ 2) ∧
    (∀ v ∈ [none, some savedTeam], (returning v).saveLost 2 = none ∧ (returning v).saveWaits 2 = false) ∧
    (∃ g, savedTeam.groups = [g] ∧ g.gid = 0 ∧ g.failed = [] ∧ ((returning (some savedTeam)).team 2).held = [] ∧ ((returning (some savedTeam)).team 2).saveAt = some (0x800000, 1)) ∧
    [u32 7].length ≤ roleRegs 0x00000841 * 16 ∧ savedTeam.scratch.all (fun e => decide (e.1 < record0.scratch * 4096)) = true ∧ (savedTeam.scratch.map Prod.fst).Nodup :=
  ⟨by decide +kernel, by decide +kernel, ⟨_, rfl, rfl, rfl, rfl, rfl⟩, by decide, by decide, by decide⟩

theorem witness_SchedulingAndProbes_returns_unleased (v : Option SavedTeam) : unleased (returning v) := unleased_of (by cases v <;> rfl)

theorem witness_SchedulingAndProbes_probes :
    (leaving.probeDue 1 = true ∧ (groupUnits 1 ((leaving.groupsOf 1).map Prod.snd)).filter leaving.unitBlocked = [.split 1 0 0] ∧ (∀ r ∈ leaving.probes, r.id ≠ leaving.nextId) ∧ leaving.awaited (.split 1 0 0) = [.job 0 5]) ∧
    (let path : List ProbeUnit := [.split 1 0 0, .job 0 5]; 2 ≤ path.length ∧ path.head? = some (.split 1 0 0) ∧ leaving.unitBlocked (.team 1) = true) ∧
    (leaving.probes = [{ id := 3, team := 1, copies := 2 }] ∧ leaving.unitBlocked (.job 0 5) = false ∧ leaving.unitBlocked (.split 1 0 0) = true ∧ ([.job 0 5] : List ProbeUnit).head? ≠ some (.split 1 0 0)) := by
  decide +kernel

/-! ### Packets -/

/-- Reticle 0 with key 3 (generation 1), team 1 in stage `g`, and job 5 of core 0 where there is one. -/
def keyed (e : KeyEntry) (g : TeamStage := .resident) (j : List Job := []) (f : Reticle → Reticle := id) : State :=
  st split0 id (fun x => { x with stage := g }) (fun k => { k with jobs := j }) fun x => f { x with keys := [(3, e)] }

/-- A region of 64 bytes at address 0x20000, one of the scratchpad of team 1, and a draining one. -/
def region : KeyEntry := { state := 1, gen := 1, rights := 7, vbase := 0x20000, len := 64, locked := [{ big := true, pte := 0x3B }] }
def teamRegion : KeyEntry := { state := 1, gen := 1, rights := 7, kind := 1, grid := 1, len := 0x8000 }
def draining0 : KeyEntry := { region with state := 2 }

/-- A request for the last four bytes of the region, in a generation and from a partition. -/
def request (op : Nat) (gen : Nat := 1) (part : Nat := 0) : Packet := { op := op, part := part, key := BitVec.ofNat 32 (3 * 2 ^ 14 + gen), offset := 60, len := 4, team := 0, srcRet := 5, psn := 8, payload := [1, 2, 3, 4] }

theorem witness_Packets_requests :
    (∀ e ∈ [(1, 1), (2, 0), (4, 2)], admitted (keyed region) (request e.1) e.2 ∧ (request e.1).op = e.1 ∧ (request e.1).payload.length = (request e.1).len) ∧
    (∀ right ∈ [0, 1, 2], fresh (keyed region) (request 1 2) ∧ (region.refuses (request 1 2) right) = some 1) ∧
    (unmet (keyed region) (request 1 1 7) ∧ (keyed region).early (request 1 1 7) = false ∧ (request 1 1 7).part ≠ (keyed region).partOf 0) := by
  unfold admitted fresh unmet
  decide +kernel

theorem witness_Packets_seen : ((keyed region .resident [] fun x => { x with rxSeen := [(0, 5, 8)] }).seen (request 1)) = true ∧
    ∀ e ∈ requests (request 1), let s := keyed region .resident [] fun x => { x with rxRefused := [(0, 5, 8)] }; s.refused (request 1) = true ∧ s.seen (request 1) = false := by
  decide +kernel

theorem witness_Packets_region1 : atRegion (keyed region) (request 1) [0x2003C, 0x2003D, 0x2003E, 0x2003F] := by
  refine ⟨by decide +kernel, by decide +kernel, by decide, fun a h => ⟨plain (by decide +kernel) ?_, ?_⟩⟩
  all_goals
    revert a
    exact every (by decide +kernel)
theorem witness_Packets_region (op : Nat) : atRegion (keyed region) (request op) [0x2003C, 0x2003D, 0x2003E, 0x2003F] := witness_Packets_region1

theorem witness_Packets_teams :
    (∀ g ∈ [TeamStage.resident, .evicted], admitted (keyed teamRegion g) (request 1) 1 ∧ ((keyed teamRegion g).key 0 3).kind = 1 ∧ (keyed teamRegion g).keyTeam ((keyed teamRegion g).key 0 3) = some 1 ∧ ((keyed teamRegion g).team 1).stage = g) ∧
    ((request 1).bar = none ∧ (request 1).offset.toNat + (request 1).len ≤ ((keyed teamRegion).team 1).lrec.scratch * 4096 ∧ ((keyed teamRegion).team 1).scratchBase + ((keyed teamRegion).team 1).lrec.scratch * 4096 ≤ 2 ^ 20) := by
  unfold admitted fresh unmet
  decide +kernel

theorem witness_Packets_calm : calm (keyed region) ((keyed region).partOf 0) := calm_of (r := 0) (by decide +kernel) (plain (by decide +kernel) (by decide +kernel)) (by decide +kernel)

/-- Job 5: an `nget` of four bytes to scratchpad 0x7FFC, and a remote atomic with and without a place for its result. -/
def asked (cmd : Nat) (words : List Word) : Job := { id := 5, cmd := cmd, var := 1, team := 1, words := words, compl := .token 9, acks := 1, flight := [{ lo := 0, hi := 4, reads := [(0, 4)] }] }
def nget : Job := asked 4 [0xC001, 60, 0, 0, 0x7FFC]
def fetching : Job := asked 5 [0xC001, 60, 0, 0, 0, 0, 0, 0x7FFC, 0]
def reducing : Job := asked 5 [0xC001, 60, 0, 0, 0, 0, 0, 0xFFFFFFFF, 0xFFFFFFFF]
def reply (op : Nat) : Packet := { request op with tagSeq := 5 }

theorem witness_Packets_answers :
    (∀ j ∈ [nget, fetching, reducing], unmet (keyed region .resident [j]) (reply 3) ∧ (reply 3).part = (keyed region .resident [j]).partOf 0 ∧ (keyed region .resident [j]).tagJob (reply 3) = some (0, j) ∧ j.error = none ∧
      (((keyed region .resident [j]).core 0).jobs.map Job.id).Nodup ∧ j.compl = .token 9 ∧ bitOf j.var 0 = true ∧ j.far = false ∧ j.flight = [{ lo := 0, hi := 4, reads := [(0, 4)] }] ∧ (reply 3).payload.length = 4) ∧
    (word nget.words 4 + ((reply 3).offset - mkD (nget.words.getD 2 0) (nget.words.getD 1 0)).toNat = 0x7FFC ∧ word fetching.words 7 = 0x7FFC ∧ dword fetching.words 7 ≠ 2 ^ 64 - 1 ∧ dword reducing.words 7 = 2 ^ 64 - 1) ∧
    (((reply 3).offset - mkD (nget.words.getD 2 0) (nget.words.getD 1 0)).toNat = 0 ∧ 0x7FFC + (reply 3).payload.length ≤ ((keyed region).team 1).lrec.scratch * 4096 ∧ ((keyed region).team 1).lrec.scratch ≤ 256 ∧ (keyed region).team? 1 ≠ none) := by
  unfold unmet
  decide +kernel

/-- The last contribution to unit 0 of the collective of `folding` arrives. -/
def lastChunk : Packet := { chunk 1 with key := 1, team := 0, coll := some { hi := 2, rank := 1 } }
def collecting : State := folding.modRet 0 fun r => { r with colls := r.colls.map fun x => { x with parts := [chunk 0] } }

theorem witness_Packets_chunk :
    ∃ j x g, unmet collecting lastChunk ∧ lastChunk.part = collecting.partOf 0 ∧ (collecting.ret 0).answers = true ∧ collecting.chunkJob lastChunk = some (0, j) ∧ lastChunk.coll = some g ∧ g.stage = 1 ∧ j.error = none ∧ collecting.job? 0 j.id = some j ∧
      collecting.coll? 0 j.id = some x ∧ ((collecting.ret 0).colls.filter fun y => decide (y.core = 0) && decide (y.job = j.id)).length = 1 ∧ (x.parts.filter fun y => decide (y.coll.map CollTag.unit = some g.unit)).length + 1 = (collecting.planOf j).p := by
  refine ⟨_, _, _, by unfold unmet; decide +kernel, by decide +kernel, rfl, rfl, rfl, rfl, rfl, rfl, rfl, by decide +kernel, by decide +kernel⟩

/-- Reticle 0 has sent a packet to reticle 1 that is not acknowledged: for job 5 or for an `nput` of group 0 with two packets left. -/
def outstanding (op attempt : Nat) : TxPacket := { pkt := { reply op with dstRet := 1 }, attempt := attempt }
def sender (op attempt : Nat) : State :=
  let s := st split0 (fun x => if op = 1 then { x with posted := [{ job := 5 * 2 ^ 13, left := 2 }] } else x) id (fun k => { k with jobs := [nget] }) fun x => { x with tx := [outstanding op attempt] }
  { s with rets := s.rets ++ [(1, { live := true, part := some {} })] }

theorem witness_Packets_sent :
    (∀ e ∈ [(1, 1), (2, 1), (4, 8)], (sender e.1 e.2).sent? 0 8 = some (outstanding e.1 e.2) ∧ (outstanding e.1 e.2).port = none ∧ (sender e.1 e.2).route 0 (outstanding e.1 e.2).pkt.bank 0 1 = .mesh ∧ (outstanding e.1 e.2).pkt.ordered = false ∧ (sender e.1 e.2).heldBack (outstanding e.1 e.2).pkt = false) ∧
    ((sender 1 1).postedOf (pktTag (outstanding 1 1).pkt) = some (1, 0, { job := 5 * 2 ^ 13, left := 2 }) ∧ (sender 1 1).slotOf 1 0 = some 0 ∧ (sender 1 1).group? 0 0 ≠ none ∧ (sender 2 1).postedOf (pktTag (outstanding 2 1).pkt) = none) ∧
    (∀ e ∈ [(2, 1), (4, 8)], (sender e.1 e.2).tagJob (outstanding e.1 e.2).pkt = some (0, nget) ∧ nget.far = false ∧ (∀ l ∈ nget.flight, l.reads ≠ [] ∧ l.late = none) ∧ (((sender e.1 e.2).core 0).jobs.map Job.id).Nodup) ∧
    (let k : Packet := { request 10 with len := 8, dstRet := 0, srcRet := 1 };
      unmet (sender 2 1) k ∧ k.part = (sender 2 1).partOf 0 ∧ k.len = 8) := by
  unfold unmet
  decide +kernel

theorem witness_Packets_drained :
    let s := { keyed draining0 with cur := { ret := 0, idx := 3 } }
    (s.key 0 3).state = 2 ∧ (s.key 0 3).inflight = 0 ∧ (s.key 0 3).records = [] ∧ s.eventRet (s.key 0 3).part = some 0 := by
  decide +kernel

/-- A chunk whose buffer is full, on its way to reticle 0, and the last attempt of an atomic's answer. -/
def heldChunk : Packet := { lastChunk with op := 6, psn := 8 }
def fullBuffer (n : Nat) : State :=
  { (keyed region .resident [] fun x => { x with tx := [{ pkt := heldChunk }], chunks := [{ payload := List.replicate n 0 }] }) with agenda := [⟨{}, .collectiveChunk heldChunk⟩] }

theorem witness_Packets_held : (fullBuffer (2 ^ 20)).sent? 0 8 = some { pkt := heldChunk } ∧ (fullBuffer (2 ^ 20)).heldBack heldChunk = true := by
  have e (n : Nat) : ((fullBuffer n).ret heldChunk.dstRet).chunkBytes = n := (Nat.zero_add _).trans (List.length_replicate ..)
  have f (n : Nat) : (fullBuffer n).sent? 0 8 = some { pkt := heldChunk } ∧ (fullBuffer n).wafer = 0 ∧ (fullBuffer n).agenda = [⟨{}, .collectiveChunk heldChunk⟩] := ⟨rfl, rfl, rfl⟩
  refine ⟨(f _).1, ?_⟩
  unfold State.heldBack State.chunkFull
  rw [e, (f _).2.1, (f _).2.2]
  decide

theorem witness_Packets_answered :
    let x : TxPacket := { outstanding 5 8 with pkt := { (outstanding 5 8).pkt with dstRet := 0, srcRet := 0 } };
    let s := keyed region .resident [reducing] fun r => { r with tx := [x] };
    s.sent? 0 8 = some x ∧ x.port = none ∧ x.attempt = 8 ∧ x.pkt.op = 5 ∧ x.pkt.dstWafer = s.wafer ∧ s.tagJob x.pkt = some (0, reducing) ∧ ∀ l ∈ reducing.flight, l.reads ≠ [] ∧ l.late = none := by
  decide +kernel

/-! ### Ports and links -/

/-- Port 0 as `x`, and a topology change 4 of ports 0 and 1, where there is one. -/
def ported (x : PortState) (g : Option TopoChange := none) (y : PortState := {}) : State :=
  { st split0 id id id fun r => { r with portA := x, portB := y } with changes := g.toList.map fun g => (4, g), now := 100000 }

/-- No packet waits for port 0, and no job goes out over it. -/
theorem untouched (x : PortState) (g : Option TopoChange) (y : PortState) :
    (∀ r, ∀ z ∈ ((ported x g y).ret r).tx, z.port ≠ some 0) ∧ ∀ k, ∀ j ∈ ((ported x g y).core k).jobs, j.path ≠ some 1 := by
  refine ⟨fun r => ?_, fun k => ?_⟩
  · by_cases h : 0 = r
    · subst h; exact fun _ h => nomatch h
    · intro z m
      have : ((ported x g y).ret r).tx = [] := by simp [ported, st, State.ret, tget, h]
      rw [this] at m; cases m
  · by_cases h : 0 = k
    · subst h; exact fun _ h => nomatch h
    · intro z m
      have : ((ported x g y).core k).jobs = [] := by simp [ported, st, State.core, tget, h]
      rw [this] at m; cases m

theorem unused_of {x : PortState} {g : Option TopoChange} {y : PortState} (q : x.queue = []) (c : x.change = none) : Sys2Proof.Claims.unused (ported x g y) 0 := ⟨q, c, untouched x g y⟩

/-- A lit port that is up, with a packet queued; the last replay before it goes down; a dark lane that wakes. -/
def up : PortState := { st := 8, lit := 15, psnAcked := 0 }
def queued : PortState := { up with queue := [{ payload := List.replicate 65536 0 }], lit := 7, waking := [(3, 98000)] }
def failing : PortState := { up with replays := 2, retrains := 3 }
def moving (n : Nat) (c : Option Nat := some 4) : PortState := { st := n, lit := if n = 1 then 15 else 0, change := c, oldPeer := 6, sweep := some (0, 0) }
def change : TopoChange := { ports := [0, 1], bank := 1 }

theorem witness_PortsAndLinks_lanes :
    (queued.queue ≠ [] ∧ ((ported queued).ret 0).pausing = false ∧ queued.lit ≠ 0 ∧ queued.st = 8) ∧
    ((failing.st ≠ 0 ∧ 2 ≤ failing.replays ∧ 3 ≤ failing.retrains) ∧ { failing with retrains := 2 }.retrains < 3 ∧ up.replays < 2) ∧
    (let x := { queued with queue := [] };
      x.waking.any (fun e => decide (e.1 = 3)) = true ∧ x.queue = []) ∧
    ((moving 6 none).st = 6 ∧ (moving 6 none).change = none ∧ up.up = true) := by
  decide +kernel

theorem witness_PortsAndLinks_failing : Sys2Proof.Claims.unused (ported failing) 0 ∧ Sys2Proof.Claims.unused (ported up) 0 ∧ calm (ported failing) ((ported failing).partOf (0 / 2)) ∧ calm (ported up) ((ported up).partOf (0 / 2)) :=
  ⟨unused_of rfl rfl, unused_of rfl rfl, calm_of (r := 0) (by decide +kernel) (plain (by decide +kernel) (by decide +kernel)) (by decide +kernel), calm_of (r := 0) (by decide +kernel) (plain (by decide +kernel) (by decide +kernel)) (by decide +kernel)⟩

theorem witness_PortsAndLinks_training :
    (∀ n ∈ [7, 6], let s := ported (moving 6) (some change) (moving n);
      (s.port 0).st = 6 ∧ (s.port 0).change = some 4 ∧ aget s.changes 4 = some change ∧ 0 ∈ change.ports ∧ (s.port 1).st = n ∧ change.ports.Nodup) ∧
    ((ported (moving 3)).port 0).change = some 4 ∧ aget (ported (moving 3)).changes 4 = none ∧ ((ported (moving 3)).port 0).queue = [] := by
  decide +kernel

theorem witness_PortsAndLinks_steps :
    ((ported up).ret 0).inSlot = false ∧ (ported { queued with waking := [], lit := 1 }).laneToWake 0 = some 1 ∧ ((moving 1).st = 1 ∧ (moving 1).sweep = some ((moving 1).psnSent + (moving 1).queue.length, (moving 1).psnAcked)) ∧
    ({ moving 1 with sweep := none }.sweep ≠ some (0, 0)) ∧ (moving 2).st = 2 ∧ (moving 5).st = 5 := by
  decide +kernel

theorem witness_PortsAndLinks_goesOn (n : Nat) : goesOn (ported (moving n) (some change)) 0 := by
  intro i h
  cases Option.some.inj h
  exact fun h => nomatch h

/-- Port 0 in step 3 of a topology change that is gone. -/
theorem witness_PortsAndLinks_timeout : (∀ r, ∀ z ∈ ((ported (moving 3)).ret r).tx, z.port ≠ some 0) ∧ (∀ k, ∀ j ∈ ((ported (moving 3)).core k).jobs, j.path ≠ some 1) ∧ calm (ported (moving 3)) ((ported (moving 3)).partOf (0 / 2)) :=
  ⟨(untouched _ _ _).1, (untouched _ _ _).2, calm_of (r := 0) (by decide +kernel) (plain (by decide +kernel) (by decide +kernel)) (by decide +kernel)⟩

/-- Lane 3 of port 0: dark since long, recently used, and one that failed to wake. -/
theorem witness_PortsAndLinks_dark :
    (let s := { st split0 id id id fun r => { r with portA := up, inSlot := true } with cur := { idx := 3 } };
      (s.port 0).lit.getLsbD 3 = true ∧ up.up = true ∧ up.working.head? ≠ some 3 ∧ (s.ret 0).inSlot = true) ∧
    (∀ z ∈ [0, 1], let x := { up with lastFlit := if z = 0 then [] else [(3, z)] };
      let s := { ported x with cur := { idx := 3 } };
      (s.port (s.cur.idx / 4)).lit.getLsbD 3 = true ∧ x.up = true ∧ x.working.head? ≠ some 3 ∧ tget 0 x.lastFlit 3 = z ∧ s.now = 100000) ∧
    (queued.waking.any (fun e => decide (e.1 = 3)) = true ∧ queued.lit &&& ~~~(1#4 <<< 3) ≠ 0 ∧ 0 < 4 ∧ 0 ≠ 3 ∧ queued.failedLanes.contains 0 = false) := by
  decide +kernel

/-- Training in a major slot waits, a lane that lights nothing downs the port, and the last working lane stays lit. -/
theorem witness_PortsAndLinks_few :
    (∀ n ∈ [16, 17], (st split0 id id id fun r => { r with portA := moving 6 none, inSlot := true, slotN := n }).ret 0 |>.inSlot) ∧ 16 % 16 = 0 ∧ 17 % 16 ≠ 0 ∧
    (let x := { up with lit := 0, waking := [(3, 98000)] };
      x.waking = [(3, 98000)] ∧ x.lit &&& ~~~(1#4 <<< 3) = 0 ∧ x.change = none) ∧
    up.working.head? = some 0 ∧ up.lit.getLsbD 0 = true ∧ { up with lit := 1 }.lit.getLsbD 3 = false := by
  decide +kernel

theorem witness_PortsAndLinks_boundaries : neighbour 0 3 = some 1 ∧ neighbour 0 1 = some 8 ∧ neighbour 63 0 = some 55 ∧ State.reset.partOf 0 = State.reset.partOf 1 ∧ State.reset.eventRet (State.reset.partOf 0) = none := by
  decide +kernel

/-! ### Slots, slices and soft errors -/

/-- Reticle 0 before, in and late in slot 16, at time `n`; the slot starts at 31200. -/
def timed (f : Reticle → Reticle) (n : Nat) : State := { st split0 id id id fun r => f { r with slotAt := 31200, slotN := 16 } with now := n }
def inside (e : Nat) (late : Option (Nat × Nat)) (n : Nat) : State := timed (fun r => { r with inSlot := true, slotEnd := e, lateStep := late }) n

theorem witness_HousekeepingAndErrors_slots :
    (let s := timed id 31200;
      let x := s.ret 0;
      x.answers = true ∧ x.inSlot = false ∧ x.slotAt ≤ s.now ∧ s.now ≤ x.calEnd) ∧
    (let s := { timed id 31200 with cores := [(0, { jobs := [reading] })] };
      (s.core 0).jobs = [reading] ∧ reading.flight = [{ lo := 0, hi := 64, reads := [(0, 64)] }] ∧ (s.cores.map Prod.fst).Nodup ∧ (s.ret 0).slotAt ≤ s.now) ∧
    (let e := ((timed id 0).ret 0).calEnd;
      (∀ l ∈ [none, some (1, e + 100), some (1, e + 1600), some (2, e + 5000), some (1, e + 5000)], let s := inside (e + 100) l (e + 100);
        (s.ret 0).answers = true ∧ (s.ret 0).inSlot = true ∧ (s.ret 0).slotEnd ≤ s.now ∧ (s.ret 0).lateStep = l ∧ s.now ≤ (s.ret 0).calEnd + 1600 ∧ s.eventRet (s.partOf 0) = some 0) ∧
      e + 100 ≤ e + 100 ∧ e + 100 < e + 1600 ∧ e + 1600 ≤ e + 1600 ∧ ¬(1 = 2 ∨ e + 5000 ≤ e + 1600)) ∧
    (((timed id 0).ret 0).answers = true ∧ ((timed id 0).ret 0).pausing = false ∧ ((timed id 0).ret 0).portA.queue = [] ∧ ((timed id 0).ret 0).portB.queue = [] ∧ (timed id 0).root ((timed id 0).partOf 0) = some 0 ∧ 8 * 14 ≤ 1000) := by
  decide +kernel

theorem witness_HousekeepingAndErrors_pause :
    let x := ((timed (fun r => { r with portA := { st := 8, lit := 1, queue := [{}] }, pausing := true }) 0).ret 0)
    x.inSlot = false ∧ x.pausing = true ∧ x.portA.queue ≠ [] ∧ x.portA.paused = false ∧ x.portA.lit ≠ 0 ∧ x.portA.st = 8 := by
  decide +kernel

/-- A reticle that answers, with cluster 0 on, and one whose regulator has failed. -/
theorem witness_HousekeepingAndErrors_periodic :
    (let s := timed (fun r => { r with defect := { live := true, enabled := 1 } }) 0;
      (s.ret 0).answers = true ∧ s.clusterOn 0 0 = true ∧ (s.cluster 0 0).busy = false) ∧
    ((timed (fun r => { r with regOk := false }) 0).ret 0).answers = false := by
  decide +kernel

/-- Soft errors in register 0 of group 0, in a register that no group owns, in a line of DRAM, in the save area of an evicted team and in a launch record. -/
def struck : State :=
  let s := second record0 (fun x => { x with stage := .evicted, saveAt := some (0x800000, 1) }) fewer {}
  s.modRet 0 fun r => { r with lq0 := { en := true, log2n := 4, tail := 1 } }

theorem witness_HousekeepingAndErrors_errors :
    struck.group? 0 99 = none ∧ struck.ownerOf 0 1 0 = some (1, some 0) ∧ (struck.team 1).stage = .resident ∧ (struck.team 1).core = 0 ∧ struck.ownerOf 0 1 (32 * 128) = none ∧
    faWafer 0xBFFFFFF80 = struck.wafer ∧ struck.lost 0xBFFFFFF80 = false ∧ (struck.lineTag 0xBFFFFFF80).lessee = none ∧
    (struck.team 2).stage = .evicted ∧ (struck.team 2).held = [] ∧ aget struck.launches (struck.team 2).launch = some { left := 2 } ∧ struck.placed 2 = false ∧ (struck.team 2).jobs = 0 ∧ (∀ e ∈ struck.cores, ∀ g ∈ e.2.groups, g.2.pending = []) ∧
    (let s := second record0 (fun x => { x with stage := .evicted, saveAt := some (0x800000, 1), jobs := 1 }) fewer {}; (s.team 2).stage = .evicted ∧ (s.team 2).jobs ≠ 0) ∧ ((struck.ret 0).lq 0).count ≠ 0 := by
  decide +kernel

/-! ### Power and device registers -/

/-- Cluster 0 of reticle 0 as `x`, in a reticle of `f`, at time 100000. -/
def powered (x : Cluster) (f : Reticle → Reticle := id) : State :=
  { st split0 id id id fun r => f { r with clusters := [(0, x)], defect := { live := true, enabled := 1 } } with now := 100000 }

/-- A cluster on the way to point `p` from voltage `v` at clock `k`. -/
def changing (p v k : Nat) (ramp : Nat := 0) : Cluster := { cur := p, tgt := p, busy := true, mv := v, khz := k, oldKhz := 2000000, ramp := ramp }

theorem witness_PowerAndCaps_steps :
    (∀ e ∈ [(1, 620, 2000000), (1, 690, 2000000), (1, 690, 2200000), (3, 620, 1600000)], let x := changing e.1 e.2.1 e.2.2;
      ((powered x).cluster 0 0).busy = true ∧ x.ramp = 0 ∧ x.mv ≠ pointMv x.cur) ∧
    ((changing 1 690 2000000).khz ≠ pointKhz 1 ∧ (changing 1 690 2200000).khz = pointKhz 1 ∧ min (pointMv 1) (690 + 10) = pointMv 1 ∧ min (pointMv 1) (620 + 10) ≠ pointMv 1 ∧ max (pointMv 3) (620 - 10) ≠ pointMv 3) ∧
    ((changing 1 700 2000000 8).ramp ≠ 0 ∧ 1 < (changing 1 700 2000000 8).ramp ∧ (changing 1 700 2000000 1).mv = pointMv 1 ∧ (changing 3 620 2000000 1).mv ≠ pointMv 3) ∧
    (let x := changing 1 700 2200000;
      x.busy = true ∧ x.ramp = 0 ∧ x.mv = pointMv x.cur ∧ x.khz = pointKhz x.cur ∧ x.tgt ≤ x.cur ∧ { x with tgt := 3 }.cur < 3) ∧
    (∀ w ∈ [1, 2], ((powered { ballast := some (1, w) }).cluster 0 0).ballast = some (1, w) ∧ (powered {}).cur.team = 1) := by
  decide +kernel

/-- A reticle that has work to do: a region over its budget, a debt that is paid, a cap whose lease has expired. -/
def capped (f : Reticle → Reticle) : State := powered {} f
def cap (n : Nat) (lease : Nat := 500) : CapMsg := { cap := BitVec.ofNat 16 n, seq := 5, lease := BitVec.ofNat 64 lease }

theorem witness_PowerAndCaps_region :
    ((powered {}).mayGate 0 0 4 = true ∧ 4 < 5) ∧ (capped fun r => { r with capsh := 660 }).mayLower 0 = true ∧ (capped fun r => { r with debtDone := true }).mayClear 0 = true ∧
    (let s := capped fun r => { r with capUntil := some 99999, capMsg := some (cap 2000) };
      (s.ret 0).capUntil = some 99999 ∧ (s.ret 0).capMsg = some (cap 2000) ∧ (s.ret 0).answers = true ∧ 99999 ≤ s.now ∧ s.eventRet (s.partOf 0) = some 0) := by
  decide +kernel

/-- Reticle 0 asks reticle 1 for a loan, or has one of 16 units from it; it has `n` units of its own. -/
def lending (n m : Nat) (on : Bool) (l : List (Nat × Nat)) : State :=
  let s := powered {} fun r => { r with asks := [1], capsh := n }
  { s with rets := s.rets ++ [(1, { live := on, capsh := m, loans := l })] }

theorem witness_PowerAndCaps_loans :
    (∀ e ∈ [(1000, true), (656, true), (1000, false)], ((lending 0 e.1 e.2 []).ret 0).asks.head? = some 1 ∧ ((lending 0 e.1 e.2 []).ret 1).answers = e.2) ∧
    (32 ≤ Sys2Proof.Claims.ownFree (lending 0 1000 true []) 1 ∧ Sys2Proof.Claims.ownFree (lending 0 656 true []) 1 < 32) ∧
    (∀ n ∈ [1000, 688], lentTo 0 ((lending n 1000 true [(0, 16)]).ret 1).loans = 16 ∧ lentTo 0 ((lending n 1000 true [(0, 16)]).ret 1).recalls = 0) ∧
    16 ≤ (lending 1000 1000 true [(0, 16)]).freeUnits 0 ∧ (lending 688 1000 true [(0, 16)]).freeUnits 0 < 16 := by
  decide +kernel

theorem witness_PowerAndCaps_caps :
    (∀ e ∈ [none, some { cap 1000 with seq := 4 }, some { cap 1000 with seq := 5 }], let s := capped fun r => { r with capMsg := e, capsh := 8000 };
      (s.ret 0).isNew (cap 2000) = decide (e ≠ some { cap 1000 with seq := 5 }) ∧ 4 * (cap 2000).cap.toNat / s.liveRegions = (s.ret 0).capsh ∧ 4 * (cap 1000).cap.toNat / s.liveRegions ≠ (s.ret 0).capsh) ∧
    (∀ n ∈ [1000, 36000], (cap n).rsv = 0 ∧ 1000 ≤ (cap n).cap.toNat ∧ (cap n).cap.toNat ≤ 36000) ∧ ¬(1000 ≤ (cap 999).cap.toNat) := by
  decide +kernel

/-- `CL_OP` for points 5 and 0 at a cluster at point 2, the governor off. -/
theorem witness_PowerAndCaps_roles :
    (bitsOf (0x500 : Dword).toNat 11 8 = 5 ∧ ((powered {}).cluster 0 35).cur = 2 ∧ ((powered {}).cluster 0 35).busy = false) ∧ ((powered {}).link 1).role = 1 ∧ ((powered {}).link 0).role ≠ 1 ∧
    (let s := { powered {} with cur := { ret := 63, idx := 1 } };
      s.cur.idx = 1 ∧ s.cur.ret < 64 ∧ (s.ret s.cur.ret).regOk = true) ∧ ((powered {}).ret 0).live = true := by
  decide +kernel

theorem witness_RegisterWrites :
    (∀ b ∈ [true, false], let s := powered {} fun r => { r with bank := !b };
      (s.ret 0).answers = true ∧ (s.ret 0).bank ≠ b ∧ (s.ret 0).arming ≠ some (if b then 1 else 0)) ∧
    ((powered {} fun r => { r with regOk := false }).ret 0).answers = false ∧ ((powered {}).link 0).role ≠ 1 ∧ ((powered {}).link 1).role = 1 ∧
    (0xFFFE + 2 ≤ (16 - ((powered {}).core 0).l1ways) * 65536 ∧ ((powered {}).core 0).l1ways ≤ 16 ∧ (powered {}).wafer < 2 ^ 14 ∧ ((powered {}).ret (0 / 72)).answers = true ∧ ∀ i, i < 2 → ((powered {}).lineTag ((powered {}).fa (0 / 72) (0xF00000000 + 0 % 72 * 0x400000 + 0x100000 + 0xFFFE + i))).lessee = none) ∧
    (let a := ((powered {}).link 0).aper.toNat + 0x80;
      (powered {}).hostReaches 0 (faWafer a) (faRet a) = true ∧ (∀ i, i < 8 → (powered {}).slotWaits (a + i) = false) ∧ (powered {} fun r => { r with live := false }).hostReaches 0 (faWafer a) (faRet a) = false) := by
  decide +kernel

theorem witness_RegisterWrites_window : plainBytes (powered {}) (((powered {}).link 0).aper.toNat + 0x80) 8 := plain (by decide +kernel) (by decide +kernel)

/-! ### Commands, starts and steps -/

/-- Bytes of DRAM of reticle 0 are plain where its regulator is in band and its slices hold nothing. -/
theorem plain_dram {s : State} {a n : Nat} (w : s.wafer = 0) (v : (s.ret 0).live = true) (k : (s.ret 0).regOk = true) (z : (s.ret 0).slices = []) (h : a + n ≤ 0xC00000000)
    (u : s.rets.all (fun r => r.2.slices.all fun g => g.2.lines.all fun l => decide (l.2.lessee = none)) = true) : plainBytes s a n := by
  refine ⟨unleased_of u, fun i l => ?_⟩
  have o : faOff (a + i) = a + i := by simp only [faOff]; omega
  have r : faRet (a + i) = 0 := by simp only [faRet, bitsOf]; omega
  have f : faWafer (a + i) = 0 := by simp only [faWafer, bitsOf]; omega
  have e : ∀ j, s.slice 0 j = {} := fun j => by simp [State.slice, z, tget]
  refine ⟨?_, ?_⟩
  · simp only [State.target, o]; rw [if_pos (by omega)]
  · simp [State.lost, State.dark, f, r, w, v, k, e]

/-- A record: opcode, target reticle and operand bytes. -/
def rec (op r : Nat) (l : List Byte) : List Byte := [BitVec.ofNat 8 op, 0, BitVec.ofNat 8 r, 0] ++ l ++ List.replicate (52 - l.length) 0

theorem ready_st {s : State} {l : Nat} (h : l < 2) (w : s.wafer = 0) (v : (s.ret 0).live = true) (k : (s.ret 0).regOk = true) (z : (s.ret 0).slices = []) (b : s.recordAt l + 64 ≤ 0xC00000000)
    (u : s.rets.all (fun r => r.2.slices.all fun g => g.2.lines.all fun l => decide (l.2.lessee = none)) = true) : Sys2Proof.Claims.ready s l := ⟨h, plain_dram w v k z (by omega) u⟩

theorem witness_SystemCommands_ready : Sys2Proof.Claims.ready (st split0) 0 ∧ Sys2Proof.Claims.ready (st split0) 1 ∧ Sys2Proof.Claims.ready (launching record0) 0 ∧ Sys2Proof.Claims.ready (keyed region) 0 ∧ Sys2Proof.Claims.ready (ported up) 0 ∧ Sys2Proof.Claims.ready leaving 0 := by
  refine ⟨?_, ?_, ?_, ?_, ?_, ?_⟩
  all_goals exact ready_st (by decide) rfl rfl rfl rfl (by decide +kernel) (by decide +kernel)

/-- Reticle 0 as a partition of its own, on wafer 0. -/
def part0 : List Byte := rec 1 0 [0, 0, 0, 0, 1, 0, 0, 0]
theorem witness_SystemCommands_partitions :
    rectangle part0 ∧ (∀ r ∈ (descOf part0).rets, (st split0).partOf r = 256 ∨ (st split0).partOf r = (descOf part0).id) ∧ badByte part0 (fun i => (decide (4 ≤ i) && decide (i ≤ 8)) || (decide (10 ≤ i) && decide (i ≤ 41))) = none ∧ part0.getD 3 0 = 0 ∧
      operand part0 8 1 = 1 ∧ (∀ i, i < 16 → operand part0 (10 + 2 * i) 2 = 0) ∧ ascending (descOf part0).wafers = true ∧ (st split0).wafer ∈ (descOf part0).wafers ∧
      badByte part0 (fun i => decide (4 ≤ i) && decide (i ≤ 41)) = none ∧ ({ st split0 with teams := [] } : State).teamsAt (descOf part0).id (descOf part0).rets = false := by
  unfold rectangle
  decide +kernel

/-- 256 bytes of memory at 0x20000, and the scratchpad of team 1. -/
def memoryRec : List Byte := rec 2 0 ([0, 7, 0, 0] ++ bytesLE 8 0x20000 ++ bytesLE 8 256)
def teamRec : List Byte := rec 2 0xFF ([1, 7, 0, 0] ++ List.replicate 16 0 ++ bytesLE 4 1)
theorem witness_SystemCommands_regions :
    (∀ r ∈ [memoryRec, teamRec], clean r fun i => decide (i = 4) || decide (i = 5) || decide (i = 6) || (decide (8 ≤ i) && decide (i ≤ 31))) ∧
    (operand memoryRec 2 1 = 0 ∧ operand memoryRec 8 8 = 0x20000 ∧ operand memoryRec 16 8 = 256 ∧ operand memoryRec 4 1 = 0 ∧ operand memoryRec 5 1 < 8 ∧ ((launching record0).ret 0).answers = true ∧ (launching record0).partOf 0 = operand memoryRec 6 1 ∧
      ((launching record0).lockPages 0 0 7 0x20000 none ((0x20000 % 65536 + 256 + 65535) / 65536)).isSome = true ∧ (launching record0).freeKey 0 = some 0) ∧
    (operand teamRec 4 1 = 1 ∧ operand teamRec 2 1 = 0xFF ∧ (st split0).findTeam (operand teamRec 6 1) (BitVec.ofNat 32 (operand teamRec 24 4)) (operand teamRec 28 4) = some 1 ∧ (st split0).freeKey (retOf ((st split0).homeNow 1)) = some 0) ∧
    (let r := rec 3 0 (bytesLE 4 0xC001);
      let key := BitVec.ofNat 32 (operand r 4 4);
      clean r (fun i => decide (4 ≤ i) && decide (i ≤ 7)) ∧ operand r 2 1 = keyRet key ∧ ((keyed region).key (keyRet key) (keyIdx key)).state ≠ 0 ∧ ((keyed region).key (keyRet key) (keyIdx key)).gen = keyGen key) := by
  unfold clean
  decide +kernel

theorem witness_SystemCommands_tlb :
    (let r := rec 4 0 ([0, 0, 0, 0] ++ bytesLE 8 0 ++ bytesLE 8 (2 ^ 64 - 1));
      clean r (fun i => decide (i = 4) || (decide (8 ≤ i) && decide (i ≤ 23))) ∧ (st split0).partOf (operand r 2 1) = operand r 4 1 ∧ operand r 16 8 = 2 ^ 64 - 1) ∧
    ((st split0).partRets 0 = [0] ∧ ((st split0).ret 0).keys = []) := by
  unfold clean
  decide +kernel

/-- Port 0 of a partition that owns its routes, up and at the step that a new target waits for. -/
def routed (x : PortState) : State := (ported x).modRet 0 fun r => { r with part := r.part.map fun q => { q with route := true } }
def changeRec : List Byte := rec 5 0 ([0] ++ List.replicate 15 0xFF ++ [1, 1, 0])
theorem witness_SystemCommands_topology :
    clean changeRec (fun i => decide (4 ≤ i) && decide (i ≤ 22)) ∧ ((routed up).partRets (operand changeRec 22 1)).head? = some 0 ∧ operand changeRec 2 1 = 0 ∧ ((routed up).ret 0).part = some { route := true } ∧ operand changeRec 20 1 = 1 ∧
      operand changeRec 21 1 = 1 ∧ operand changeRec 4 1 = 0 ∧ (routed up).partOf 0 = operand changeRec 22 1 ∧ ((routed up).port 0).st = 8 ∧ ((routed up).port 0).change = none ∧ ((routed up).ret 0).bank = false := by
  unfold clean
  decide +kernel
theorem witness_SystemCommands_retarget :
    let r := rec 6 0 [0]
    clean r (fun i => decide (i = 4)) ∧ operand r 2 1 = operand r 4 1 / 2 ∧ operand r 4 1 < 128 ∧ ((ported (moving 3) (some change)).port 0).st = 3 := by
  unfold clean
  decide +kernel
theorem witness_SystemCommands_oneTarget (i : Nat) (h : 1 ≤ i ∧ i < 16) : operand changeRec (4 + i) 1 = 0xFF := by
  have : (List.range 16).all (fun i => decide (i < 1) || decide (operand changeRec (4 + i) 1 = 0xFF)) = true := by decide +kernel
  have := List.all_eq_true.1 this i (List.mem_range.2 h.2)
  simp only [Bool.or_eq_true, decide_eq_true_eq] at this
  exact this.resolve_left (by omega)

/-- A record that names team 1, in each class and stage that the commands tell apart. -/
def teamNamed (op : Nat) : List Byte := rec op 0xFF (bytesLE 4 1 ++ bytesLE 4 0 ++ [2])
theorem witness_SystemCommands_teams :
    (∀ h ∈ [{ team0 with lrec := { team0.lrec with cls := 1 }, idem := true }, { team0 with lrec := { team0.lrec with cls := 0 } }], let s := st split0 id fun _ => h;
      names s 0 (teamNamed 7) 1 ∧ (s.team 1).stage = .resident ∧ (s.team 1).request = none) ∧
    (names (st split0 id fun x => { x with stage := .evicted }) 0 (teamNamed 7) 1) ∧
    (let s := st split0 id fun x => { x with stage := .evicted, jobs := 1 };
      names s 0 (teamNamed 7) 1 ∧ (s.team 1).stage = .evicted ∧ (s.team 1).jobs ≠ 0) ∧
    (let r := rec 8 0xFF (bytesLE 4 1);
      (∀ s ∈ [st split0, leaving], clean r (fun i => decide (4 ≤ i) && decide (i ≤ 11)) ∧ operand r 2 1 = 0xFF ∧ s.findTeam (s.partOf (linkRet 0)) (BitVec.ofNat 32 (operand r 4 4)) (operand r 8 4) = some 1 ∧ ∀ q ∈ s.probes, q.id ≠ s.nextId) ∧
      (groupUnits 1 (((st split0).groupsOf 1).map Prod.snd)).filter (st split0).unitBlocked = [] ∧ (groupUnits 1 ((leaving.groupsOf 1).map Prod.snd)).filter leaving.unitBlocked = [.split 1 0 0]) := by
  unfold names clean
  decide +kernel

/-- A mask of 60 cores for reticle 5, staged or not, and one of 59. -/
def maskRec (n take : Nat) : List Byte := rec 9 5 (bytesLE 9 (2 ^ n - 1) ++ [0, BitVec.ofNat 8 take])
theorem witness_SystemCommands_starts :
    (∀ e ∈ [(64, 1), (60, 0), (59, 1)], let r := maskRec e.1 e.2;
      clean r (fun i => decide (4 ≤ i) && decide (i ≤ 14)) ∧ operand r 2 1 = 5 ∧ operand r 13 1 < 2 ∧ operand r 14 1 = e.2 ∧ (st split0).maskOk 5 (BitVec.ofNat 72 (operand r 4 9)) = decide (e.1 = 64 ∨ (e.1 = 60 ∧ (st split0).gradeA = false))) ∧
    (∀ n ∈ [16383, 16384], let r := rec 10 0 (bytesLE 2 n);
      clean r (fun i => decide (i = 4) || decide (i = 5)) ∧ operand r 2 1 = linkRet 0 ∧ operand r 4 2 = n) := by
  unfold clean
  decide +kernel

theorem witness_SystemCommands_attestation :
    let r := rec 11 0 (List.replicate 36 0 ++ bytesLE 8 0x100000)
    clean r (fun i => (decide (4 ≤ i) && decide (i ≤ 35)) || (decide (40 ≤ i) && decide (i ≤ 47))) ∧ operand r 2 1 = linkRet 0 ∧ operand r 40 8 = 0x100000 ∧ faWafer 0x100000 = (st split0).wafer ∧ (st split0).recordAt 0 + 64 ≤ 0x100000 := by
  unfold clean
  decide +kernel
theorem witness_SystemCommands_plain : plainBytes (st split0) 0x100000 16384 := plain_dram rfl rfl rfl rfl (by omega) rfl

/-- Starts: all steps pass, one core fails, and a step that fails the wafer. -/
theorem witness_Starts :
    ([({ ret := 3, reason := 4, index := 7 } : StartFail)].find? failsAll = none ∧ [({ reason := 9 } : StartFail)].find? failsAll = some { reason := 9 }) ∧
    (let r := maskRec 0 0;
      clean r (fun i => decide (4 ≤ i) && decide (i ≤ 14)) ∧ operand r 2 1 < 64 ∧ operand r 13 1 < 2 ∧ operand r 14 1 = 0) ∧
    (([] : List StartFail).any ((st split0).isFailure true) = false ∧ rising 0 (st split0).cores = true ∧ [({ ret := 3, reason := 5 } : StartFail)].any ((st split0).isFailure true) = true ∧ (3 < 64 → failsAll { ret := 3, reason := 5 } = false)) ∧
    (st split0).waferNext = (st split0).wafer ∧ (rising 0 (st split0).mem = true ∧ (∀ e ∈ (st split0).mem, e.1 < 2 ^ 56) ∧ (st split0).wafer < 2 ^ 14) := by
  unfold clean
  decide +kernel
/-- The firmware as it was measured, and another. -/
theorem witness_Starts_measured :
    (let s := { st split0 with measured := some (sha256 (st split0).firmware) }; s.measured = some (sha256 s.firmware)) ∧ (st split0).measured ≠ some (sha256 (st split0).firmware) :=
  ⟨rfl, fun h => nomatch h⟩

/-- The instruction of each stream with its word, the turns of a step, and a step that ends in a next state. -/
theorem witness_DecodeInvertsEncode : (Instr.uadd true 22 20 21 false).wf = true ∧ encode (.uadd true 22 20 21 false) = some (32, 0xA02C282A) := by decide +kernel
theorem witness_NoBitIgnored : decodeControl 0xA02C282A = .ok (.uadd true 22 20 21 false) := ok_of (by decide +kernel)
theorem witness_NoBitIgnored_lane : (match decodeLane 0xC00100000000000000100010 with | .ok _ => true | .error _ => false) = true := by decide +kernel

theorem witness_StepRunsWhatDecodes_control :
    let s := State.reset.withFetchWord 32 0xA02C282A
    s.look.turn = some (.ctl 0 0 0) ∧ (atSplit s 0 0 0).fetchControl 0 (atSplit s 0 0 0).me.pc.toNat = .ok 0xA02C282A :=
  ⟨by decide +kernel, ok_of (by decide +kernel)⟩
theorem witness_StepRunsWhatDecodes_lane :
    let s := State.reset.withFetchWord 96 0xC00100000000000000100010
    s.look.turn = some (.lane 0 0 0) ∧ (atSplit s 0 0 0).nextLane = .ok 0xC00100000000000000100010 :=
  ⟨by decide +kernel, ok_of (by decide +kernel)⟩
theorem witness_StepRunsWhatDecodes_units :
    State.reset.look.turn = some .input ∧ (begun State.reset).inbox = { ins := .coldStart [] } :: [] ∧
    (let s : State := { State.reset with inbox := [], timers := [(0, { ins := .coldStart [] })] };
      s.look.turn = some .timer ∧ (begun s).timers = [(0, { ins := .coldStart [] })]) ∧
    (let s : State := { State.reset with inbox := [], agenda := [{ ins := .coldStart [] }] };
      s.look.turn = some (.agenda 0) ∧ (begun s).agenda[0]? = some { ins := .coldStart [] }) ∧
    (let s : State := { State.reset with inbox := [], cores := [(0, { mxq := [{}] })] };
      s.look.turn = some (.unit ⟨{}, .matrixOperation⟩)) ∧
    ({ State.reset with inbox := [] } : State).look.turn = none := by
  decide +kernel

theorem witness_MemoryStaysCanonical : Memory.wf (State.reset.withFetchWord 32 0xA02C282A).mem = true ∧ (match step (State.reset.withFetchWord 32 0xA02C282A) with | .next _ => true | _ => false) = true := by
  decide +kernel

end Sys2Proof.Tests
end

section
/-! SUPPORT. What a control instruction reads through its sources (R147), the conditions of R131 on the condition codes, and the completion of an instruction in line (R32). -/

namespace Sys2Proof.Proofs

open Sys2Proof.Machine Sys2Proof.Claims

variable {s u : State} {y z : Split}

/-! ### Sources (R147) -/

theorem src_lane (s : State) (f : Nat) (r : BitVec 8) (x : Bool) (l : Nat) : (s.src f r x).g.val.lane l = read s r x l := by
  cases x <;> rfl

theorem src_u (s : State) (f : Nat) (r : BitVec 8) (x : Bool) : (s.src f r x).u = read s r x := src_lane s f r x 0

@[simp] theorem src_tag (s : State) (f : Nat) (r : BitVec 8) (x : Bool) : (s.src f r x).g.tag = tag s r := by
  cases x <;> rfl

theorem src_isUniform {r : BitVec 8} {x : Bool} (f : Nat) (h : isU s r x) : (s.src f r x).g.val.isUniform = true := by
  cases x with
  | false => exact h.resolve_left Bool.false_ne_true
  | true => rfl

theorem src_isAffine {r : BitVec 8} {x : Bool} (f : Nat) (h : isA s r x) : (s.src f r x).g.val.isAffine = true := by
  obtain ⟨rfl, ha⟩ := h
  exact ha

/-- Two sources that are one word each pass the checks of R150. -/
theorem operands_of_twoWords {a b : BitVec 8} {x : Bool} (h : twoWords s a b x) :
    s.operands [(2, a.toNat, 1), (3, b.toNat, 1)] [s.src 2 a, s.src 3 b x] = .ok () := by
  obtain ⟨⟨oa, ua, pa⟩, ⟨ob, ub, pb⟩, ag⟩ := h
  have hr : s.rangesOk [(2, a.toNat, 1), (3, b.toNat, 1)] = .ok () := by
    rw [rangesOk_cons oa, rangesOk_cons ob, rangesOk_nil]
  have hs : s.shapesOk [s.src 2 a, s.src 3 b x] = .ok () := by
    rw [shapesOk_cons (by simp [src_isUniform 2 ua]), shapesOk_cons (by simp [src_isUniform 3 ub]), shapesOk_nil]
  have ht : s.tagsOk tBits [s.src 2 a, s.src 3 b x] = .ok () := by
    have carried : (if tag s a = tBits then tBits else tag s a) = tag s a := by split <;> simp_all
    rw [tagsOk_cons rfl (by simpa using pa) (.inl rfl), src_tag, carried,
      tagsOk_cons rfl (by simpa using pb) (by simpa using ag), tagsOk_nil]
  simp only [State.operands, hr, hs, ht]
  rfl

/-- A source of any tag that may be uniform or affine passes the checks of R150 beside a register that is only in range. -/
theorem operands_of_copied {a b : BitVec 8} {x : Bool} (f : Nat) (ha : s.Owns a) (hb : s.Owns b) (h : isU s b x ∨ isA s b x) :
    s.operands [(f, a.toNat, 1), (3, b.toNat, 1)] [{ s.src 3 b x with affine := true, anyTag := true }] = .ok () := by
  have hr : s.rangesOk [(f, a.toNat, 1), (3, b.toNat, 1)] = .ok () := by
    rw [rangesOk_cons ha, rangesOk_cons hb, rangesOk_nil]
  have hs : s.shapesOk [{ s.src 3 b x with affine := true, anyTag := true }] = .ok () := by
    rw [shapesOk_cons, shapesOk_nil]
    rcases h with h | h
    · simp [src_isUniform 3 h]
    · simp [src_isAffine 3 h]
  simp only [State.operands, hr, hs]
  rfl

/-! ### Conditions (R131) -/

/-- Each of the eleven condition codes tests what R131 gives for it. -/
theorem condHolds_iff {c : Nat} (hc : c ≤ 10) (a b : Word) : condHolds c a b = true ↔ condition c a b := by
  interval_cases c <;>
    simp [condHolds, condition, BitVec.slt_iff_toInt_lt, BitVec.sle_iff_toInt_le, BitVec.ult_iff_toNat_lt, BitVec.ule_iff_toNat_le]

/-! ### Completion in line (R32) -/

/-- The state after an instruction marked `m` has had its effect `u` and completed in line. -/
def completed (m : Bool) (u : State) : State := u.modMe fun x => x.retire m u.cycle

theorem completed_me (m : Bool) (hz : u.At z) : (completed m u).me = z.retire m u.cycle := me_modMe u _ hz

theorem completed_regNow (m : Bool) (hz : u.At z) (r : Nat) : (completed m u).regNow r = u.regNow r := regNow_modMe hz _ r

/-- An effect that leaves the PC and the loop stack of the split alone completes in line. -/
theorem inLine_completed (m : Bool) (hy : s.At y) (hz : u.At z) (hpc : z.pc = y.pc) (hl : z.loops = y.loops) : inLine s (completed m u) := by
  rw [inLine, completed_me m hz, me_of_me? s hy, retire_pc, retire_loops, hpc, hl]
  exact ⟨rfl, rfl⟩

/-- A control instruction whose body is done with the effect `u` completes, and its frame is that of `u` and the loop stack. -/
theorem does_of_done {i : Instr} {m : Bool} {body : State → Act} {regs : List Nat} {parts : List Part} {post : State → Prop}
    (hi : exec i s = s.control m body) (hy : s.At y) (hb : body s = .done u) (hz : u.At z) (k : Kept regs parts s u)
    (hp : post (completed m u)) : Does i s regs (.loops :: parts) post := by
  refine ⟨completed m u, hi.trans (control_done hy hb), hp, ?_⟩
  exact (k.trans (Kept.retire hz m u.cycle)).mono (by simp) (by simp [or_comm])

end Sys2Proof.Proofs
end

section
/-! SUPPORT. `ucmp` and `usel`: what they do at a split whose operands are sound (R131, R163, R164). -/

namespace Sys2Proof.Proofs

open Sys2Proof.Machine Sys2Proof.Claims

variable {s : State} {y : Split}

/-! ### `ucmp` (R163) -/

/-- The split with other condition codes. -/
def withCodes (a b : Word) (y : Split) : Split := { y with cmpA := a, cmpB := b }

theorem kept_withCodes (hy : s.At y) (a b : Word) : Kept [] [.codes] s (s.modMe (withCodes a b)) :=
  Kept.modMe _ hy _ (.inl (by simp)) (.inr rfl) (.inr rfl) (.inr rfl) (.inr ⟨rfl, rfl, rfl, rfl, rfl⟩) (.inr rfl)

theorem exec_ucmp (p : Bool) (a b : BitVec 8) (x : Bool) (s : State) : exec (.ucmp p a b x) s = execUcmp p a b x s := rfl

/-- `ucmp` makes its two operands the condition codes of the split, and changes nothing else. -/
theorem ucmp_does {p : Bool} {a b : BitVec 8} {x : Bool} (hy : s.At y) (h : twoWords s a b x) :
    Does (.ucmp p a b x) s [] [.loops, .codes] fun t => t.me.cmpA = read s a ∧ t.me.cmpB = read s b x ∧ inLine s t := by
  have hz : (s.modMe (withCodes (read s a) (read s b x))).At (withCodes (read s a) (read s b x) y) := by
    simp [State.At, show s.me? = some y from hy]
  refine does_of_done (exec_ucmp ..) hy ?_ hz (kept_withCodes hy _ _) ⟨?_, ?_, inLine_completed p hy hz rfl rfl⟩
  · simp only [operands_of_twoWords h, src_u]
    rfl
  · rw [completed_me p hz]; rfl
  · rw [completed_me p hz]; rfl

/-! ### `usel` (R164) -/

theorem exec_usel (p : Bool) (c : BitVec 4) (a b : BitVec 8) (x : Bool) (s : State) : exec (.usel p c a b x) s = execUsel p c a b x s := rfl

/-- Where the source is sound and the destination free, `usel` does nothing but copy its source where the condition holds on the codes. -/
theorem usel_does {p : Bool} {c : BitVec 4} {a b : BitVec 8} {x : Bool} {u : State} {z : Split} {regs : List Nat} {post : State → Prop}
    (hy : s.At y) (hd : dest s a) (hb : s.Owns b) (hs : isU s b x ∨ isA s b x)
    (hu : u = if condHolds c.toNat y.cmpA y.cmpB then s.ctlWrite a.toNat (s.src 3 b x).g else s)
    (hz : u.At z) (k : Kept regs [] s u) (hp : post (completed p u)) : Does (.usel p c a b x) s regs [.loops] post := by
  obtain ⟨ha, hf⟩ := hd
  refine does_of_done (exec_usel ..) hy ?_ hz k hp
  simp only [needFree_ok hf, operands_of_copied 2 ha hb hs, me_of_me? s hy, hu]
  rfl

/-- `usel` whose condition holds copies value, shape and tag. -/
theorem usel_copies {p : Bool} {c : BitVec 4} {a b : BitVec 8} {x : Bool} (hy : s.At y) (hd : dest s a) (hb : s.Owns b)
    (hs : isU s b x ∨ isA s b x) (hc : condHolds c.toNat y.cmpA y.cmpB = true) :
    Does (.usel p c a b x) s [a.toNat] [.loops] fun t =>
      (t.regNow a.toNat).tag = tag s b ∧ (∀ l, l < 32 → now t a l = read s b x l) ∧ inLine s t := by
  have hz := me?_ctlWrite hy a.toNat (s.src 3 b x).g
  have hr : (completed p (s.ctlWrite a.toNat (s.src 3 b x).g)).regNow a.toNat = (s.src 3 b x).g := by
    rw [completed_regNow p hz, regNow_ctlWrite hy, if_pos rfl]
  refine usel_does hy hd hb hs (if_pos hc).symm hz (Kept.ctlWrite hy _ _) ⟨?_, fun l _ => ?_, inLine_completed p hy hz rfl rfl⟩
  · rw [hr, src_tag]
  · rw [now, hr, src_lane]

/-- `usel` whose condition does not hold only completes. -/
theorem usel_skips {p : Bool} {c : BitVec 4} {a b : BitVec 8} {x : Bool} (hy : s.At y) (hd : dest s a) (hb : s.Owns b)
    (hs : isU s b x ∨ isA s b x) (hc : ¬condHolds c.toNat y.cmpA y.cmpB = true) :
    Does (.usel p c a b x) s [] [.loops] (inLine s) :=
  usel_does hy hd hb hs (if_neg hc).symm hy (Kept.refl s) (inLine_completed p hy hy rfl rfl)

/-- Settles O4: the codes are the operands of `ucmp`, from which `condHolds_iff` reads each condition. -/
theorem conditionCodes : Obligations.ConditionCodes := by
  unfold Obligations.ConditionCodes
  refine ⟨fun s y p a b x hy h => ucmp_does hy h, fun s y p c a b x hy hc hd hb hs => ⟨fun h => ?_, fun h => ?_⟩⟩
  · exact usel_copies hy hd hb hs ((condHolds_iff hc _ _).mpr h)
  · exact usel_skips hy hd hb hs (mt (condHolds_iff hc _ _).mp h)

end Sys2Proof.Proofs
end

section
/-! SUPPORT. States at which a statement about lane instructions fails: small ones, in which core 0 runs one group of one split at the head of its lane queue, in a page that its TLB maps and with a handler (R31, R89, R349). -/

namespace Sys2Proof.Proofs

open Sys2Proof.Machine Sys2Proof.Claims

/-- A split with every lane active whose lane queue holds one block. -/
def splitWith (b : Block) : Split := { pc := 0x10000, active := 0xFFFFFFFF, queue := [b] }

/-- Core 0 at that split, 256 registers in the budget of its group, all at their reset value; the trap descriptor below the lane section at 0x20000 names the handler 0x18000. -/
def stateWith (b : Block) : State :=
  { State.reset with
    cur := { team := 1 }
    mem := [(0x1FFF1, 0x80), (0x1FFF2, 1), (0x1FFF7, 0x80)]
    cores := [(0, { groups := [(0, { team := 1, regN := 256, splits := [(0, splitWith b)] })], tlb := [{ vpage := 0, big := true, pte := 0x3B }] })]
    rets := [(0, { live := true, xlatRoot := 1, part := some {} })]
    teams := [(1, { stage := .resident, lrec := { grid := 1, lbase := 0x20000 } })] }

/-- The split of the step in the state that an instruction answers. -/
def splitAfter (i : Instr) (s : State) : Option Split :=
  match exec i s with
  | .next t => some t.me
  | _ => none

theorem splitAfter_of_next {i : Instr} {s t : State} (h : exec i s = .next t) : splitAfter i s = some t.me := by
  rw [splitAfter, h]

end Sys2Proof.Proofs
end

section
/-! SUPPORT. The block of a marked `lrun` (R31, R63) against `Issues`, whose `popped` gives the rest of a block without its mark. -/

namespace Sys2Proof.Proofs

open Sys2Proof.Machine Sys2Proof.Claims

/-- `Issues` fails of every instruction that leaves at the head of the queue the rest of a block with its mark. -/
theorem not_issues_of_late {i : Instr} {s : State} {regs : List Nat} {parts : List Part} {post : State → Prop} {b : Block} {l : List Block}
    (hq : s.me.queue = b :: l) (hc : 1 < b.cnt) (hb : b.late = true)
    (h : (splitAfter i s).map Split.queue = some ({ b with off := b.off + 1, cnt := b.cnt - 1 } :: l)) : ¬ Issues i s regs parts post := by
  rintro ⟨t, ht, ⟨⟨-, hp⟩, -⟩, -⟩
  rw [splitAfter_of_next ht, Option.map_some, Option.some_inj, hp, hq] at h
  simp [Nat.not_le.mpr hc, hb] at h

/-- A block of two instructions that a marked `lrun` queued. -/
def lateBlock : Block := { off := 3, cnt := 2, late := true }

/-- Refutes O22: `not` of the first instruction of a marked `lrun`'s block leaves the second one marked as before (R63), where `popped` has it unmarked. -/
theorem not_laneBits : ¬ Obligations.LaneBits := by
  unfold Obligations.LaneBits
  rintro ⟨-, -, -, hnot, -⟩
  have hi : Issues (.notL { d := 1, a := 2 }) (stateWith lateBlock) [1] [] _ :=
    hnot (stateWith lateBlock) (splitWith lateBlock) { d := 1, a := 2 } ⟨rfl, by decide, by decide⟩ (by decide) (by unfold owned; decide) trivial
  exact not_issues_of_late (b := lateBlock) (l := []) rfl (by decide) rfl (by decide) hi

end Sys2Proof.Proofs
end

section
/-! SUPPORT. `shcat` under an empty E of a source that carries `[first]` (R188, R203). -/

namespace Sys2Proof.Proofs

open Sys2Proof.Machine Sys2Proof.Claims

/-- The only block of its split: the last instruction of an `lrun`. -/
def lastBlock : Block := { off := 3, cnt := 1 }

/-- `shcat v1, v2[first], v3` under m2, which is clear at reset. -/
def unreadShcat : LaneOp := { d := 1, a := 2, b := 3, mask := 2, moda := 64 }

/-- With E empty the source that carries `[first]` is not read and takes no part in the shape check: `shcat` issues. -/
theorem unreadShcat_issues : (splitAfter (.shcat unreadShcat) (stateWith lastBlock)).map Split.inHandler = some false := by decide

/-- Refutes O23: both sources count as uniform, yet `shcat` takes no shape fault where the one that carries `[first]` is not read. -/
theorem not_laneMovement : ¬ Obligations.LaneMovement := by
  unfold Obligations.LaneMovement
  rintro ⟨-, -, -, -, -, htrap, -, -⟩
  obtain ⟨t, ht, ⟨-, hin, -⟩, -⟩ : Does (.shcat unreadShcat) (stateWith lastBlock) [] _ _ :=
    htrap (stateWith lastBlock) unreadShcat (by decide) (by unfold owned; decide) (.inl (by decide)) (.inr rfl)
      (splitWith lastBlock) lastBlock [] 0x18000 ⟨rfl, by decide, by decide⟩ rfl rfl (by decide) rfl
  have h := unreadShcat_issues
  rw [splitAfter_of_next ht, Option.map_some, hin] at h
  cases h

end Sys2Proof.Proofs
end
